-- ==== Sys2Proof/Word.lean ====
section
/-! DEFINITION. The units of the part's ports: the byte of the train line and the metering port, and the 16-bit word
of the maintenance port and the record memory (chapters 4, 7, 11, 12). -/

namespace Sys2Proof

/-- A byte of the train line or of the metering port. -/
abbrev Byte := BitVec 8

/-- A word of the maintenance port or of the record memory. -/
abbrev Word := BitVec 16

end Sys2Proof
end

