-- ==== Sys2Proof/Syntax.lean ====
section
/-! DEFINITION. The commands of the block: one constructor per row of the table of operations and events, with the
values that reach the part from outside at that instant. -/

namespace Sys2Proof

/-- Direction of traffic (chapter 0, section 5.2): UP from passengers toward the uplink, DOWN the other way. -/
inductive Dir where
  | up
  | down
deriving DecidableEq, Repr

/-- A level of the train line: dominant for a logical 0, recessive for a logical 1 (R82). -/
inductive LineLevel where
  | dominant
  | recessive
deriving DecidableEq, Repr

/-- The steps of the part (opcode_table.json), in the table's order. A command with an operand `line` brings the levels of the bit
times that the line has shown since the last such command, oldest first; left out, there is none to count (log 5). -/
inductive Instr where
  /-- R193. Power-on, or RESET_N held low; whether RESET_N is still low afterwards (log 28). -/
  | deviceReset (held : Bool := false)
  /-- R1. The millisecond tick, with the level it finds on the COMPOSITION input (R52). -/
  | millisecondTick (composition : Bool) (line : List LineLevel)
  /-- R7. The epoch timer has reached 0. -/
  | epochExpiry
  /-- R187. The START command is taken, with the COMPOSITION level at that instant (R52). -/
  | start (composition : Bool)
  /-- R80. -/
  | restart
  /-- R78. -/
  | leave
  /-- R79. -/
  | resume
  /-- R9. -/
  | syncEpoch
  /-- R109. -/
  | block
  /-- R110. -/
  | unblock
  /-- R111. -/
  | setTier
  /-- R146. -/
  | setAllowance
  /-- R100. -/
  | evict
  /-- R112. -/
  | readClient
  /-- R57. -/
  | readPeer
  /-- R188. A code that Table 12-5 does not list is written to the command code. -/
  | unknownCommand (code : Word)
  /-- R103. -/
  | closureStep
  /-- R29. -/
  | publish
  /-- R52, R53. The settle count has reached 10. -/
  | compositionEdge
  /-- R55. -/
  | uplinkWrite (dir : Dir) (value : Word)
  /-- R71. The second CRC byte of the frame in reception. -/
  | frameReceived (check : Byte) (line : List LineLevel := [])
  /-- R83. The 16th recessive bit time outside a byte. -/
  | carrierIdle (line : List LineLevel := [])
  /-- R83. The 761st bit time of a busy period. -/
  | busyPeriodLimit (line : List LineLevel := [])
  /-- R82. A stop bit sampled dominant, the last of the levels. -/
  | framingError (line : List LineLevel)
  /-- R86. -/
  | jitterExpiry
  /-- R87. The levels are those before the attempt's first bit time. -/
  | attemptStart (line : List LineLevel := [])
  /-- R88. -/
  | readbackMismatch
  /-- R87. -/
  | noticeSent
  /-- R88. -/
  | backoffExpiry
  /-- R92. -/
  | stuckLine (line : List LineLevel := [])
  /-- R91. -/
  | runLengthOverflow (line : List LineLevel := [])
  /-- R93. -/
  | lineRestoration
  /-- R119, R121. The sixth byte of a request record is received: the record's bytes in the order received, those of the record
  in progress among them (Table 7-1; log 15). -/
  | requestPresented (tag code : Byte) (client argument : Byte × Byte)
  /-- R122. -/
  | refusalSent
  /-- R126. -/
  | meter
  /-- R97. -/
  | attach
  /-- R99. -/
  | move
  /-- R100. -/
  | detach
  /-- R124. -/
  | unknownRequest
  /-- R156. -/
  | watchModeWrite (watch : Fin 4) (value : Word)
  /-- R156. -/
  | watchCountLowWrite (watch : Fin 4) (value : Word)
  /-- R156. -/
  | watchCountLowRead (watch : Fin 4)
  /-- R157. -/
  | watchStatusWrite (value : Word)
  /-- R167. -/
  | logIndexLowWrite (value : Word)
  /-- R166. -/
  | logIndexLowRead
  /-- R168. -/
  | thresholdLowWrite (value : Word)
  /-- R168. -/
  | thresholdLowRead
  /-- R169. -/
  | lostCountWrite (value : Word)
  /-- R178. -/
  | memAddrLowWrite (value : Word)
  /-- R179. -/
  | memDataRead
  /-- R180. -/
  | memDataWrite (value : Word)
  /-- R177. -/
  | turnaroundEnd
  /-- R173. -/
  | setupEnd
  /-- R175. The strobe ends after the given number of cycles of extension by the wait line. -/
  | strobeEnd (waited : Nat)
  /-- R175. -/
  | waitTimeout
  /-- R173. -/
  | accessEnd
  /-- R185. -/
  | configWrite (address : BitVec 7) (value : Word)
  /-- R191. -/
  | interruptFlagsWrite (value : Word)
  /-- R192. -/
  | interruptEnablesWrite (value : Word)
  /-- R184. -/
  | refusedStatusWrite (value : Word)
  /-- R184. -/
  | registerWrite (address : BitVec 7) (value : Word)
  /-- R188. -/
  | commandCodeWrite (value : Word)
  /-- R71. A byte whose stop bit was recessive. -/
  | lineByteReceived (byte : Byte) (line : List LineLevel := [])
  /-- R83. The first dominant bit time of a busy period; the levels are those before it. -/
  | busyPeriodStart (line : List LineLevel := [])
  /-- R119. The first byte of a request record, with the strobe, and the bytes behind it without the strobe, short of the
  sixth. -/
  | recordStartStrobe (byte : Byte) (more : List Byte := [])
deriving DecidableEq, Repr

end Sys2Proof
end

