-- ==== Sys2Proof/Decode.lean ====
section
/-! DEFINITION. The command a table word spells. No row of the table gives bits: every command is an event, so no
word spells one (log 10). -/

namespace Sys2Proof

/-- The command that the word `w` of `nbits` bits spells by the table: none, for every word. -/
def decodeTableWord (_nbits _w : Nat) : Option Instr := none

end Sys2Proof
end

