-- ==== Sys2Proof/Config.lean ====
section
/-! DEFINITION. The sizes the spec fixes, and the free values: constants with no body, so that no proof can use a
value of them. The host's configuration words are state (chapter 12) and stand in Machine/State.lean. -/

namespace Sys2Proof.Config

/-- Client entries, 0..383 (R95). -/
abbrev clientCount : Nat := 384

/-- Peer slots, 0..29 (R41). -/
abbrev peerSlots : Nat := 30

/-- Watches, 0..3 (R149). -/
abbrev watchCount : Nat := 4

/-- Attachment groups that have configuration words, 0..7 (Table 12-2). -/
abbrev groupCount : Nat := 8

/-- Words of the snapshot window (R190). -/
abbrev windowWords : Nat := 16

/-- Words a usage record occupies (R161). -/
abbrev recordWords : Nat := 16

/-- Requests the request queue holds at most (R121). -/
abbrev requestDepth : Nat := 32

/-- Records the pending queue holds at most (R162). -/
abbrev recordDepth : Nat := 8

/-- What the data lines carry in the last strobe cycle of a timed-out read (R175: "whatever the data lines carried").
Free value, drawn by the counter of State (log 8). -/
opaque timedOutReadWord : Nat → Word

/-- Whether a timed-out write has placed its word (R175: "may or may not have placed its word"). Free value (log 9). -/
opaque timedOutWriteLands : Nat → Bool

/-- Whether a write whose strobe device reset cuts off has placed its word (R182: "may or may not"). Free value (log 9). -/
opaque cutWriteLands : Nat → Bool

/-- What the data output of the maintenance port shows behind the 32nd bit of a transaction, of which R183 says nothing. Free
value (log 33). -/
opaque bitPastTheWord : Nat → Bool

end Sys2Proof.Config
end

