-- ==== Sys2Proof/Machine/State.lean ====
section
/-! DEFINITION. The state of the part, block by block as chapter 0 section 3 gives them to their owners, and the state
after device reset. -/

namespace Sys2Proof.Machine

/-- One value per direction (chapter 0, section 5.2). -/
@[ext]
structure PerDir (α : Type) where
  up : α
  down : α
deriving DecidableEq, Repr

/-! ## Time base (chapter 1) -/

structure TimeBase where
  /-- R1: reference-clock cycles, 0..24,999. -/
  prescaler : Nat
  /-- R2. -/
  stamp : BitVec 20
  /-- R4: milliseconds left; 0 after START means that the expiry of this tick is due. -/
  epochTimer : Nat
  /-- R5. -/
  epoch : BitVec 32
  /-- R6. -/
  windowLength : Nat
  /-- R8. -/
  cycleBusy : Bool
deriving DecidableEq, Repr

/-! ## Client table (chapters 6 and 8) -/

inductive ClientState where
  | free
  | active
  | idle
deriving DecidableEq, Repr

inductive Tier where
  | standard
  | premium
  | operations
deriving DecidableEq, Repr

/-- The fields an entry holds once per direction (R95). Levels, depths and window bytes in bytes, rates in RU. -/
@[ext]
structure ClientDir where
  grant : Nat
  committed : Nat
  excess : Nat
  committedDepth : Nat
  excessDepth : Nat
  window0 : Nat
  window1 : Nat
  estimate : Nat
  refillStamp : BitVec 20
deriving DecidableEq, Repr

/-- A client entry (R95, R138). The volume counter is disabled exactly when `allowance` is 0. -/
@[ext]
structure ClientEntry where
  state : ClientState
  tier : Tier
  blocked : Bool
  capped : Bool
  group : BitVec 3
  port : BitVec 12
  attachEpoch : BitVec 32
  idleCount : Nat
  volume : BitVec 40
  allowance : Word
  admitted : PerDir (BitVec 40)
  dropped : Nat
  /-- Whether window 1 is the active one. -/
  selector : Bool
  dirs : PerDir ClientDir
deriving DecidableEq, Repr

/-- A closure walk in progress: the entry of the next step, and T, the length of the closed window (R102, R103). -/
structure Walk where
  next : Fin Config.clientCount
  length : Nat
deriving DecidableEq, Repr

structure ClientTable where
  entries : Vector ClientEntry Config.clientCount
  walk : Option Walk
deriving DecidableEq, Repr

/-! ## Share engine (chapter 2) -/

/-- D, W, O and G of a station for one direction (R41). -/
structure Figures where
  demand : Nat
  weight : Nat
  reserve : Nat
  uplink : Nat
deriving DecidableEq, Repr

/-- What the share engine holds per direction (section 2.1). -/
@[ext]
structure ShareDir where
  share : Nat
  remainder : Nat
  held : Nat
  sharesValid : Bool
  ownDemand : Nat
  ownWeight : Nat
  ownReserve : Nat
deriving DecidableEq, Repr

inductive PassState where
  | noPass
  | passUp
  | passDown
deriving DecidableEq, Repr

/-- A sharing client as the snapshot copies it (R15). -/
structure Member where
  index : Fin Config.clientCount
  group : BitVec 3
  capped : Bool
  tier : Tier
  estimate : PerDir Nat
deriving DecidableEq, Repr

/-- An OPERATIONS-tier entry's estimates as the snapshot copies them (R15). -/
structure OpsEstimate where
  group : BitVec 3
  estimate : PerDir Nat
deriving DecidableEq, Repr

/-- The pass snapshot (R15). `held` records whether the station state was LINE_FAULT (R22); `membership` holds the
indices not struck (R28). -/
structure Snapshot where
  view : List (PerDir Figures)
  uplink : PerDir Nat
  members : List Member
  ops : List OpsEstimate
  held : Bool
  membership : List (Fin Config.clientCount)
deriving DecidableEq, Repr

structure ShareEngine where
  dirs : PerDir ShareDir
  pass : PassState
  snapshot : Option Snapshot
deriving DecidableEq, Repr

/-! ## Peer table (chapter 3) -/

/-- A peer entry (R41). `epochLength` in ms. -/
structure PeerEntry where
  station : Word
  set : BitVec 4
  cycle : BitVec 4
  epochLength : Nat
  gateway : Bool
  stale : Bool
  figures : PerDir Figures
  silence : Nat
  limit : Nat
  purge : Bool
  inView : Bool
deriving DecidableEq, Repr

@[ext]
structure PeerTable where
  slots : Vector (Option PeerEntry) Config.peerSlots
  /-- R55. -/
  heldUplink : PerDir Nat
  /-- R56. -/
  staleCount : Nat
  stale : Bool
  /-- R54. -/
  pendingEdge : Bool
  /-- R52. -/
  debounced : Bool
  /-- R52: 10 means that the edge of this tick is due. -/
  settle : Nat
deriving DecidableEq, Repr

/-- A notice as the receiver delivers it (R74). -/
structure Notice where
  station : Word
  set : BitVec 4
  cycle : BitVec 4
  epochLength : Nat
  gateway : Bool
  leaving : Bool
  stale : Bool
  figures : PerDir Figures
deriving DecidableEq, Repr

/-! ## Line interface (chapters 4 and 5) -/

inductive Station where
  | unconfigured
  | listening
  | active
  | leaving
  | silent
  | lineFault
deriving DecidableEq, Repr

inductive TxState where
  | idle
  | jitter
  | defer
  | sending
  | backoff
deriving DecidableEq, Repr

inductive RxState where
  | off
  | waitIdle
  | ready
  | receiving
deriving DecidableEq, Repr

@[ext]
structure LineInterface where
  station : Station
  remembered : Station
  /-- R77. -/
  expiryCount : Nat
  /-- R81. -/
  conflict : Bool
  tx : TxState
  /-- The pending notice: its finished body and CRC, as sent behind the sync byte (R67). -/
  notice : Option (List Byte)
  attempts : Nat
  /-- R86: ticks of the jitter delay still to come. -/
  jitterLeft : Nat
  /-- R88: slots drawn for the backoff that is running. -/
  backoffSlots : Nat
  /-- R85. -/
  random : BitVec 16
  /-- R64. -/
  cycle : BitVec 4
  rx : RxState
  /-- Body and check bytes of the frame in reception, first byte first. -/
  rxBytes : List Byte
  /-- Bytes still expected of the frame in reception; before its length byte, 1. -/
  rxExpected : Nat
  /-- R70: an attempt has started since the receiver became READY, and its first bit time has not read recessive, so that
  the frame the receiver meets next is the own readback (log 20). -/
  readback : Bool
  /-- R82: bit times still to come of the byte in progress; 0 outside a byte. -/
  byteLeft : Nat
  /-- R82: the last bit time was recessive. -/
  afterRecessive : Bool
  /-- R83: carrier sense reports the line idle. -/
  carrierIdle : Bool
  /-- R83: consecutive recessive bit times outside a byte, counted to 16. -/
  recessive : Nat
  /-- R83: bit times of the busy period, counted to 761; 0 where none runs. -/
  busyLength : Nat
  /-- R91: the run-length capture counter, 0..4,095. -/
  runLength : Nat
  /-- R91. -/
  overflow : Bool
  /-- R93: milliseconds. -/
  restoration : Nat
deriving DecidableEq, Repr

/-! ## Metering engine (chapter 7) -/

/-- An accepted request record, as received (Table 7-1). -/
structure Request where
  tag : Byte
  code : Byte
  client : Word
  argument : Word
deriving DecidableEq, Repr

/-- Outcomes of Table 7-3. -/
inductive RspOutcome where
  | pass
  | mark
  | drop
  | done
  | refused
  | busy
  | notReady
deriving DecidableEq, Repr

/-- Reasons of Table 7-3. -/
inductive Reason where
  | none
  | metered
  | exempt
  | unshared
  | blocked
  | same
  | inUse
  | badPoint
  | badIndex
  | badLength
  | notAttached
  | badKind
deriving DecidableEq, Repr

/-- A response record (R120). -/
structure Response where
  tag : Byte
  outcome : RspOutcome
  reason : Reason
  code : Byte
deriving DecidableEq, Repr

structure MeterEngine where
  queue : List Request
  /-- R122: the refusal made at presentation that waits for a turn. -/
  refusal : Option Response
  /-- The response record last put on the response lane. -/
  lane : Option Response
  /-- R119: bytes of the request record in progress. -/
  partialRecord : List Byte
deriving DecidableEq, Repr

/-! ## Watch unit (chapter 9) -/

inductive WatchUnitKind where
  | frames
  | bytes
deriving DecidableEq, Repr

/-- The verdicts of METER requests (R120). -/
inductive Verdict where
  | pass
  | mark
  | drop
deriving DecidableEq, Repr

/-- A watch (R149), with its count holding and count latch (R156). -/
@[ext]
structure Watch where
  enable : Bool
  scopeAll : Bool
  scopeIndex : BitVec 9
  maskUp : Bool
  maskDown : Bool
  maskPass : Bool
  maskMark : Bool
  maskDrop : Bool
  kind : WatchUnitKind
  traceEnable : Bool
  irqEnable : Bool
  count : BitVec 32
  reload : BitVec 32
  armed : Bool
  overflow : Bool
  holding : Word
  latch : Word
deriving DecidableEq, Repr

structure WatchUnit where
  watches : Vector Watch Config.watchCount
deriving DecidableEq, Repr

/-- What the metering engine delivers to the watch unit for a verdict (R136). -/
structure Delivery where
  client : Fin Config.clientCount
  dir : Dir
  length : Nat
  verdict : Verdict
  reason : Reason
  committed : Nat
  excess : Nat
  grant : Nat
deriving DecidableEq, Repr

/-! ## Log writer (chapter 10) -/

inductive RemovalReason where
  | detached
  | evicted
deriving DecidableEq, Repr

inductive ViewChange where
  | joined
  | left
  | timedOut
  | purged
  | replaced
deriving DecidableEq, Repr

/-- A usage record (R160). -/
inductive Record where
  | cap (client : Fin Config.clientCount) (epoch : BitVec 32) (allowance : Word) (admitted : PerDir (BitVec 40))
  | final (client : Fin Config.clientCount) (reason : RemovalReason) (attachEpoch epoch : BitVec 32)
      (admitted : PerDir (BitVec 40)) (dropped : Nat) (group : BitVec 3) (port : BitVec 12)
  | idle (client : Fin Config.clientCount) (epoch : BitVec 32) (admitted : PerDir (BitVec 40))
  /-- `traced` and `flags` have one place per watch, 0 first (R153). -/
  | trace (traced flags : List Bool) (delivery : Delivery) (epoch : BitVec 32) (stamp : BitVec 20)
  | view (station : Word) (set : BitVec 4) (change : ViewChange) (epoch : BitVec 32) (size : Nat)
deriving DecidableEq, Repr

inductive WriterState where
  | idle
  | writing
deriving DecidableEq, Repr

@[ext]
structure LogWriter where
  queue : List Record
  writer : WriterState
  inFlight : Option Record
  index : Nat
  pendingIndex : Option Nat
  threshold : Nat
  lost : Nat
  indexHolding : BitVec 5
  thresholdHolding : BitVec 5
  indexLatch : BitVec 5
  thresholdLatch : BitVec 5
deriving DecidableEq, Repr

/-! ## Memory controller (chapter 11) -/

inductive BusPhase where
  | idle
  | turnaround
  | setup
  | strobe
  | hold
deriving DecidableEq, Repr

inductive BusOwner where
  | none
  | log
  | window
deriving DecidableEq, Repr

inductive AccessDir where
  | read
  | write
deriving DecidableEq, Repr

/-- A maintenance window request (R178 to R180). -/
inductive WindowRequest where
  | read (address : BitVec 20)
  | write (address : BitVec 20) (value : Word)
deriving DecidableEq, Repr

/-- The log writer's request: 16 words at one address (R176). -/
structure LogRequest where
  address : Nat
  words : List Word
deriving DecidableEq, Repr

@[ext]
structure MemController where
  phase : BusPhase
  owner : BusOwner
  /-- R174: direction of the last access that began its setup. -/
  marker : AccessDir
  wordIndex : Nat
  waitCount : Nat
  logRequest : Option LogRequest
  slot : Option WindowRequest
  /-- The window request that has been granted the bus. -/
  granted : Option WindowRequest
  /-- The word sampled in the last strobe cycle of the access on the bus. -/
  sampled : Word
  /-- R175: the access on the bus will end as a timed-out access. -/
  timedOut : Bool
  address : BitVec 20
  addressHolding : BitVec 4
  data : Word
  ready : Bool
  timeout : Bool
deriving DecidableEq, Repr

/-! ## Maintenance port (chapter 12) -/

/-- The configuration words (Table 12-2). -/
structure ConfigWords where
  stationId : Word
  setId : Word
  scope : Word
  gateway : Word
  epochLength : Word
  peerTimeout : Word
  idleLimit : Word
  burstMs : Word
  joinRate : Word
  cappedRate : Word
  standardWeight : Word
  premiumWeight : Word
  defaultAllowance : Word
  groupCount : Word
  capacity : PerDir (Vector Word Config.groupCount)
  logBase : Word
  logLimit : Word
  setup : Word
  strobe : Word
  hold : Word
  turnaround : Word
  waitEnable : Word
  waitLimit : Word
  recordEnables : Word
deriving DecidableEq, Repr

/-- The 4-wire serial port (R183). -/
structure SerialPort where
  /-- The select input is active: MSEL_N is low. -/
  selected : Bool
  /-- A transaction that counts is in progress: select went active, out of reset, and has not gone inactive. -/
  active : Bool
  /-- Rising clock edges of the transaction. -/
  edges : Nat
  /-- Bits taken on the data input, the last one lowest. -/
  bits : BitVec 32
  /-- The summary byte captured at the 8th edge. -/
  summary : Byte
  /-- The bit on the data output, changed after a falling edge. -/
  output : Bool
deriving DecidableEq, Repr

/-- Outcomes of a command (R188). -/
inductive CommandOutcome where
  | none
  | done
  | badState
  | badArgument
  | notAttached
  | configInvalid
deriving DecidableEq, Repr

/-- Causes of a refused write (R184). -/
inductive RefusedCause where
  | locked
  | notGateway
  | badValue
  | maskEmpty
  | notStarted
  | readOnly
deriving DecidableEq, Repr

/-- Interrupt flags (Table 12-4). -/
inductive IrqFlag where
  | sharePublished
  | viewChanged
  | idConflict
  | lineFault
  | lineRestored
  | noticeAbandoned
  | peerTableFull
  | uplinkStale
  | clientCapped
  | watchOverflow
  | logThreshold
  | logFull
  | recordLost
  | memoryTimeout
  | commandDone
  | writeRefused
deriving DecidableEq, Repr

@[ext]
structure MaintPort where
  cfg : ConfigWords
  code : Word
  arg0 : Word
  arg1 : Word
  running : Bool
  busy : Bool
  outcome : CommandOutcome
  check : Nat
  /-- Code of the last command started, 0 for one that Table 12-5 does not list. -/
  started : Nat
  /-- The argument words copied for the running command (R188). -/
  taken0 : Word
  taken1 : Word
  flags : Word
  enables : Word
  /-- Refused-write status: marker, cause and address. -/
  refused : Option (RefusedCause × BitVec 7)
  window : Vector Word Config.windowWords
  /-- The word a read has given for shifting out; 0 from the beginning of a transaction, and lost at its end (R183). -/
  dataOut : Word
  serial : SerialPort
deriving DecidableEq, Repr

/-! ## The whole part -/

/-- The record memory: (word address, word) pairs in canonical form (Memory.wf in Ops). -/
abbrev Memory := List (Nat × Word)

@[ext]
structure State where
  tb : TimeBase
  se : ShareEngine
  pt : PeerTable
  li : LineInterface
  ct : ClientTable
  me : MeterEngine
  wu : WatchUnit
  lw : LogWriter
  mc : MemController
  mp : MaintPort
  mem : Memory
  /-- The COMPOSITION input as last sampled. -/
  composition : Bool
  /-- RESET_N is held low (R193). -/
  resetLow : Bool
  /-- The MODEL's own counter of free values drawn (log 8); not the spec's. -/
  freeDraws : Nat
  /-- Commands that wait, first in first out. -/
  pending : List Instr
deriving DecidableEq, Repr

/-- Reasons to stop with a fault: none. The spec gives no event that stops the part. -/
inductive Fault where
deriving DecidableEq, Repr

/-- Reasons to have no meaning for a command. -/
inductive Refusal where
  /-- A command whose meaning is not written yet; raised by the dispatcher alone, and by no command of this model. Safe. -/
  | notModelled (mnemonic : String)
deriving DecidableEq, Repr

/-- What a command answers. -/
abbrev Answer := Host.Outcome State Fault Refusal

/-! ## After device reset -/

/-- R10. -/
def TimeBase.reset : TimeBase :=
  { prescaler := 0, stamp := 0, epochTimer := 0, epoch := 0, windowLength := 0, cycleBusy := false }

def ClientDir.zero : ClientDir :=
  { grant := 0, committed := 0, excess := 0, committedDepth := 0, excessDepth := 0, window0 := 0, window1 := 0,
    estimate := 0, refillStamp := 0 }

/-- A FREE entry: every field 0, selector at window 0 (R95). -/
def ClientEntry.free : ClientEntry :=
  { state := .free, tier := .standard, blocked := false, capped := false, group := 0, port := 0, attachEpoch := 0,
    idleCount := 0, volume := 0, allowance := 0, admitted := ⟨0, 0⟩, dropped := 0, selector := false,
    dirs := ⟨ClientDir.zero, ClientDir.zero⟩ }

/-- R117. -/
def ClientTable.reset : ClientTable :=
  { entries := Vector.replicate _ ClientEntry.free, walk := none }

/-- R38, R39: the values device reset and RESTART give a direction. -/
def ShareDir.zero : ShareDir :=
  { share := 0, remainder := 0, held := 0, sharesValid := false, ownDemand := 0, ownWeight := 0, ownReserve := 0 }

/-- R38. -/
def ShareEngine.reset : ShareEngine :=
  { dirs := ⟨ShareDir.zero, ShareDir.zero⟩, pass := .noPass, snapshot := none }

/-- R58. -/
def PeerTable.reset : PeerTable :=
  { slots := Vector.replicate _ none, heldUplink := ⟨0, 0⟩, staleCount := 0, stale := false, pendingEdge := false,
    debounced := false, settle := 0 }

/-- R76, R75. The items the spec states no reset value for (jitter, backoff, expected, readback, byte level, recessive,
busy) are 0: DESIGN CHOICE, log 11. -/
def LineInterface.reset : LineInterface :=
  { station := .unconfigured, remembered := .unconfigured, expiryCount := 0, conflict := false, tx := .idle,
    notice := none, attempts := 0, jitterLeft := 0, backoffSlots := 0, random := 1, cycle := 0, rx := .off,
    rxBytes := [], rxExpected := 0, readback := false, byteLeft := 0, afterRecessive := false, carrierIdle := false, recessive := 0,
    busyLength := 0, runLength := 0, overflow := false, restoration := 0 }

/-- R137. -/
def MeterEngine.reset : MeterEngine := { queue := [], refusal := none, lane := none, partialRecord := [] }

/-- R159. -/
def Watch.reset : Watch :=
  { enable := false, scopeAll := false, scopeIndex := 0, maskUp := false, maskDown := false, maskPass := false,
    maskMark := false, maskDrop := false, kind := .frames, traceEnable := false, irqEnable := false, count := 0,
    reload := 0, armed := false, overflow := false, holding := 0, latch := 0 }

/-- R159. -/
def WatchUnit.reset : WatchUnit := { watches := Vector.replicate _ Watch.reset }

/-- R172: index at the log base and threshold at the log limit that Table 12-2 gives after device reset. -/
def LogWriter.reset : LogWriter :=
  { queue := [], writer := .idle, inFlight := none, index := 0, pendingIndex := none, threshold := 1048576, lost := 0,
    indexHolding := 0, thresholdHolding := 0, indexLatch := 0, thresholdLatch := 0 }

/-- R182. -/
def MemController.reset : MemController :=
  { phase := .idle, owner := .none, marker := .read, wordIndex := 0, waitCount := 0, logRequest := none, slot := none,
    granted := none, sampled := 0, timedOut := false, address := 0, addressHolding := 0, data := 0, ready := true,
    timeout := false }

/-- Table 12-2, "After device reset". -/
def ConfigWords.reset : ConfigWords :=
  { stationId := 0, setId := 0, scope := 0, gateway := 0, epochLength := 100, peerTimeout := 3, idleLimit := 50,
    burstMs := 100, joinRate := 64, cappedRate := 32, standardWeight := 2, premiumWeight := 4, defaultAllowance := 0,
    groupCount := 1, capacity := ⟨Vector.replicate _ 0, Vector.replicate _ 0⟩, logBase := 0, logLimit := 65535,
    setup := 2, strobe := 4, hold := 1, turnaround := 1, waitEnable := 0, waitLimit := 63, recordEnables := 0 }

/-- R193: a transaction in progress is cut off. -/
def SerialPort.reset : SerialPort := { selected := false, active := false, edges := 0, bits := 0, summary := 0, output := false }

/-- R193. -/
def MaintPort.reset : MaintPort :=
  { cfg := ConfigWords.reset, code := 0, arg0 := 0, arg1 := 0, running := false, busy := false, outcome := .none,
    check := 0, started := 0, taken0 := 0, taken1 := 0, flags := 0, enables := 0, refused := none,
    window := Vector.replicate _ 0, dataOut := 0, serial := SerialPort.reset }

/-- The part after device reset by power-on, with no command waiting (R193). -/
def State.reset : State :=
  { tb := TimeBase.reset, se := ShareEngine.reset, pt := PeerTable.reset, li := LineInterface.reset,
    ct := ClientTable.reset, me := MeterEngine.reset, wu := WatchUnit.reset, lw := LogWriter.reset,
    mc := MemController.reset, mp := MaintPort.reset, mem := [], composition := false, resetLow := false, freeDraws := 0, pending := [] }

end Sys2Proof.Machine
end

