-- ==== Sys2Proof/Machine/Flags.lean ====
section
/-! DEFINITION. Interrupt flags, IRQ_N and the refused-write status (sections 12.2 and 12.6). -/

namespace Sys2Proof.Machine

/-- Table 12-4. -/
def IrqFlag.bit : IrqFlag → Nat
  | .sharePublished => 0
  | .viewChanged => 1
  | .idConflict => 2
  | .lineFault => 3
  | .lineRestored => 4
  | .noticeAbandoned => 5
  | .peerTableFull => 6
  | .uplinkStale => 7
  | .clientCapped => 8
  | .watchOverflow => 9
  | .logThreshold => 10
  | .logFull => 11
  | .recordLost => 12
  | .memoryTimeout => 13
  | .commandDone => 14
  | .writeRefused => 15

/-- R191: raising sets the flag if it is clear and leaves it set if it is set. -/
def raise (f : IrqFlag) (s : State) : State :=
  { s with mp := { s.mp with flags := s.mp.flags ||| BitVec.twoPow 16 f.bit } }

/-- A flag as the host reads it. -/
def State.flag (s : State) (f : IrqFlag) : Bool := s.mp.flags.getLsbD f.bit

/-- R191: a write clears each flag whose position is written as one. -/
def clearFlags (v : Word) (s : State) : State :=
  { s with mp := { s.mp with flags := s.mp.flags &&& ~~~v } }

/-- R192: IRQ_N is driven low while at least one flag is set whose enable is set. -/
def State.irqLow (s : State) : Bool := s.mp.flags &&& s.mp.enables != 0

/-- R184: a refused write replaces marker, cause and address, and raises WRITE_REFUSED. -/
def refuseWrite (cause : RefusedCause) (address : BitVec 7) (s : State) : State :=
  raise .writeRefused { s with mp := { s.mp with refused := some (cause, address) } }

/-- R184. -/
def RefusedCause.code : RefusedCause → Nat
  | .locked => 1
  | .notGateway => 2
  | .badValue => 3
  | .maskEmpty => 4
  | .notStarted => 5
  | .readOnly => 6

end Sys2Proof.Machine
end

