-- ==== Sys2Proof/Machine/Operands.lean ====
section
/-! DEFINITION. The fields of the words and bytes that reach the part: request records (Tables 7-1 and 7-2), tier and
state codes, byte order, slices of long numbers. -/

namespace Sys2Proof.Machine

/-! ## Byte and word order -/

/-- Bits 7..0. -/
def lowByte (w : Word) : Byte := w.extractLsb' 0 8

/-- Bits 15..8. -/
def highByte (w : Word) : Byte := w.extractLsb' 8 8

/-- Low byte first (R60, R119). -/
def wordBytes (w : Word) : List Byte := [lowByte w, highByte w]

def ofBytes (low high : Byte) : Word := high ++ low

/-- A figure as a 16-bit word. -/
def word (n : Nat) : Word := BitVec.ofNat 16 n

/-- The `k`-th 16-bit part of a number, lowest first (R161, R190). -/
def part (n k : Nat) : Word := BitVec.ofNat 16 (n / 65536 ^ k)

def bit (b : Bool) : Nat := if b then 1 else 0

/-! ## Request records (R119) -/

/-- The record that six bytes make, 16-bit fields low byte first (Table 7-1). -/
def Request.ofRecord : List Byte → Option Request
  | [tag, code, clientLow, clientHigh, argumentLow, argumentHigh] =>
    some ⟨tag, code, ofBytes clientLow clientHigh, ofBytes argumentLow argumentHigh⟩
  | _ => none

/-- The kind a request code gives (Table 7-2). -/
inductive RequestKind where
  | meter (dir : Dir)
  | attach (tier : Tier)
  | move
  | detach
  | unknown
deriving DecidableEq, Repr

/-- Table 7-2. -/
def requestKind (code : Byte) : RequestKind :=
  if code = 0x01 then .meter .up
  else if code = 0x02 then .meter .down
  else if code = 0x03 then .attach .standard
  else if code = 0x04 then .attach .premium
  else if code = 0x05 then .attach .operations
  else if code = 0x06 then .move
  else if code = 0x07 then .detach
  else .unknown

/-- Client index, bits 8..0; bits 15..9 ignored. -/
def Request.index (r : Request) : Nat := (r.client.extractLsb' 0 9).toNat

/-- METER: length, bits 13..0. -/
def Request.length (r : Request) : Nat := (r.argument.extractLsb' 0 14).toNat

/-- ATTACH and MOVE: port, bits 11..0. -/
def Request.port (r : Request) : BitVec 12 := r.argument.extractLsb' 0 12

/-- ATTACH and MOVE: group, bits 14..12. -/
def Request.group (r : Request) : BitVec 3 := r.argument.extractLsb' 12 3

/-! ## Codes of Table 7-3 -/

def RspOutcome.code : RspOutcome → Nat
  | .pass => 1
  | .mark => 2
  | .drop => 3
  | .done => 4
  | .refused => 5
  | .busy => 6
  | .notReady => 7

def Reason.code : Reason → Nat
  | .none => 0
  | .metered => 1
  | .exempt => 2
  | .unshared => 3
  | .blocked => 4
  | .same => 5
  | .inUse => 6
  | .badPoint => 7
  | .badIndex => 8
  | .badLength => 9
  | .notAttached => 10
  | .badKind => 11

/-- The four bytes of a response record (Table 7-3). -/
def Response.bytes (r : Response) : List Byte :=
  [r.tag, BitVec.ofNat 8 r.outcome.code, BitVec.ofNat 8 r.reason.code, r.code]

def Verdict.code : Verdict → Nat
  | .pass => 1
  | .mark => 2
  | .drop => 3

def Verdict.outcome : Verdict → RspOutcome
  | .pass => .pass
  | .mark => .mark
  | .drop => .drop

/-! ## Codes of chapter 12 -/

def Station.code : Station → Nat
  | .unconfigured => 0
  | .listening => 1
  | .active => 2
  | .leaving => 3
  | .silent => 4
  | .lineFault => 5

def TxState.code : TxState → Nat
  | .idle => 0
  | .jitter => 1
  | .defer => 2
  | .sending => 3
  | .backoff => 4

def ClientState.code : ClientState → Nat
  | .free => 0
  | .active => 1
  | .idle => 2

def Tier.code : Tier → Nat
  | .standard => 0
  | .premium => 1
  | .operations => 2

/-- SET_TIER's argument 1 (R189): a code above 2 names no tier. -/
def tierOfCode (w : Word) : Option Tier :=
  if w = 0 then some .standard
  else if w = 1 then some .premium
  else if w = 2 then some .operations
  else none

/-- R188: BUSY has no code in the outcome field. -/
def CommandOutcome.code : CommandOutcome → Nat
  | .none => 0
  | .done => 1
  | .badState => 3
  | .badArgument => 4
  | .notAttached => 5
  | .configInvalid => 6

/-- Client index of a command argument: above 383 there is none (R108). -/
def clientOfArgument (w : Word) : Option (Fin Config.clientCount) :=
  if h : w.toNat < Config.clientCount then some ⟨w.toNat, h⟩ else none

/-- Client index of a request: 384 or above there is none (R124). -/
def Request.clientIndex (r : Request) : Option (Fin Config.clientCount) :=
  if h : r.index < Config.clientCount then some ⟨r.index, h⟩ else none

/-- Slot of READ_PEER's argument: above 29 there is none (R57). -/
def slotOfArgument (w : Word) : Option (Fin Config.peerSlots) :=
  if h : w.toNat < Config.peerSlots then some ⟨w.toNat, h⟩ else none

end Sys2Proof.Machine
end

