-- ==== Sys2Proof/Machine/Ops.lean ====
section
/-! DEFINITION. Shared operations over the state: values per direction, the configuration as the blocks read it, the
record memory, client entries, and the end of a command. -/

namespace Sys2Proof.Machine

/-! ## Values per direction -/

def PerDir.get {α : Type} (p : PerDir α) : Dir → α
  | .up => p.up
  | .down => p.down

def PerDir.set {α : Type} (p : PerDir α) : Dir → α → PerDir α
  | .up, x => { p with up := x }
  | .down, x => { p with down := x }

def PerDir.map {α β : Type} (f : α → β) (p : PerDir α) : PerDir β := ⟨f p.up, f p.down⟩

/-! ## Exact arithmetic -/

/-- ⌈a / b⌉ (chapter 0, section 5.4). -/
def ceilDiv (a b : Nat) : Nat := (a + b - 1) / b

/-- A saturating sum. -/
def satAdd (top a b : Nat) : Nat := min top (a + b)

/-- The largest value of a 32-bit saturating counter. -/
def max32 : Nat := 4294967295

/-! ## The configuration as the blocks read it (R185) -/

def ConfigWords.epoch (c : ConfigWords) : Nat := c.epochLength.toNat

def ConfigWords.gatewaySet (c : ConfigWords) : Bool := c.gateway == 1

def ConfigWords.idleRecords (c : ConfigWords) : Bool := c.recordEnables.getLsbD 0

def ConfigWords.viewRecords (c : ConfigWords) : Bool := c.recordEnables.getLsbD 1

/-- The log base is 16 times its word (R185). -/
def ConfigWords.base (c : ConfigWords) : Nat := 16 * c.logBase.toNat

/-- The log limit is 16 times its word plus 16 (R185). -/
def ConfigWords.limit (c : ConfigWords) : Nat := 16 * c.logLimit.toNat + 16

/-- The wait count at which an access times out: (n + 1) × 16 (R175). -/
def ConfigWords.waitTop (c : ConfigWords) : Nat := (c.waitLimit.toNat + 1) * 16

def ConfigWords.weight (c : ConfigWords) : Tier → Nat
  | .standard => c.standardWeight.toNat
  | .premium => c.premiumWeight.toNat
  | .operations => 0

/-- The configured capacity of a group in a direction. -/
def ConfigWords.groupCapacity (c : ConfigWords) (d : Dir) (g : BitVec 3) : Nat :=
  ((c.capacity.get d)[g.toNat]'(by have := g.isLt; simpa using this)).toNat

/-- Whether a group lies below group_count (R97, R99). -/
def ConfigWords.groupExists (c : ConfigWords) (g : BitVec 3) : Bool := g.toNat < c.groupCount.toNat

/-- The station has been started: every state but UNCONFIGURED. -/
def State.started (s : State) : Bool := s.li.station != .unconfigured

/-- R193: while RESET_N is held low, what reaches the part has no effect (log 28). -/
def outOfReset (s t : State) : State := if s.resetLow then s else t

/-! ## Record memory -/

/-- What a word that no entry lists reads as. DESIGN CHOICE (log 7): the spec gives record memory no contents of its
own before the part writes it, and leaves open how many of the 1,048,576 words are fitted; here all are. -/
def unwrittenWord : Word := 0

/-- The canonical form: addresses strictly rising, no entry equal to what an unlisted address reads as. -/
abbrev Memory.wf (m : Memory) : Prop :=
  m.Pairwise (fun x y => x.1 < y.1) ∧ ∀ c ∈ m, c.2 ≠ unwrittenWord

/-- The word at an address. -/
def Memory.read : Memory → Nat → Word
  | [], _ => unwrittenWord
  | (b, w) :: rest, a => if b = a then w else Memory.read rest a

/-- A word written at an address, in canonical form. -/
def Memory.write : Memory → Nat → Word → Memory
  | [], a, v => if v = unwrittenWord then [] else [(a, v)]
  | (b, w) :: rest, a, v =>
    if a < b then (if v = unwrittenWord then (b, w) :: rest else (a, v) :: (b, w) :: rest)
    else if a = b then (if v = unwrittenWord then rest else (a, v) :: rest)
    else (b, w) :: Memory.write rest a v

/-! ## Client entries -/

def State.client (s : State) (i : Fin Config.clientCount) : ClientEntry := s.ct.entries[i.val]

def State.setClient (s : State) (i : Fin Config.clientCount) (e : ClientEntry) : State :=
  { s with ct := { s.ct with entries := s.ct.entries.set i.val e } }

/-- Every entry changed in one instant (the window flip, RESTART). -/
def mapEntries (f : ClientEntry → ClientEntry) (v : Vector ClientEntry Config.clientCount) :
    Vector ClientEntry Config.clientCount :=
  ⟨⟨v.toArray.toList.map f⟩, by simp⟩

def ClientEntry.dir (e : ClientEntry) (d : Dir) : ClientDir := e.dirs.get d

def ClientEntry.setDir (e : ClientEntry) (d : Dir) (x : ClientDir) : ClientEntry := { e with dirs := e.dirs.set d x }

/-- A sharing client (section 2.1): ACTIVE, BLOCKED clear, STANDARD or PREMIUM. -/
def ClientEntry.sharing (e : ClientEntry) : Bool :=
  e.state == .active && !e.blocked && e.tier != .operations

/-- The bytes of the window the selector names as active. -/
def ClientEntry.activeBytes (e : ClientEntry) (d : Dir) : Nat :=
  if e.selector then (e.dir d).window1 else (e.dir d).window0

/-- The bytes of the window that is not active. -/
def ClientEntry.closedBytes (e : ClientEntry) (d : Dir) : Nat :=
  if e.selector then (e.dir d).window0 else (e.dir d).window1

/-! ## The end of a command (R188) -/

/-- The command with this code of Table 12-5 is running. -/
def State.commandRuns (s : State) (code : Nat) : Bool := s.mp.running && s.mp.started == code

/-- At the instant a command is taken the outcome is recorded, the running marker cleared and COMMAND_DONE raised. -/
def endCommand (o : CommandOutcome) (s : State) : State :=
  raise .commandDone { s with mp := { s.mp with running := false, outcome := o } }

/-! ## Snapshot window (R190) -/

/-- All 16 words replaced; a word the list does not reach is 0. -/
def setWindow (ws : List Word) (s : State) : State :=
  { s with mp := { s.mp with window := ⟨⟨(List.range 16).map (fun i => ws.getD i 0)⟩, by simp⟩ } }

end Sys2Proof.Machine
end

