-- ==== Sys2Proof/Machine/Bus.lean ====
section
/-! DEFINITION. The record memory bus: the arbiter, the phases of an access (sections 11.1 to 11.3). -/

namespace Sys2Proof.Machine

/-! ## The access on the bus -/

def WindowRequest.dir : WindowRequest → AccessDir
  | .read _ => .read
  | .write _ _ => .write

/-- The access that holds the bus: direction, word address, and the word a write drives. -/
def State.busAccess (s : State) : Option (AccessDir × Nat × Word) :=
  match s.mc.owner with
  | .none => none
  | .log => s.mc.logRequest.map fun r => (.write, r.address + s.mc.wordIndex, r.words.getD s.mc.wordIndex 0)
  | .window =>
    s.mc.granted.map fun
      | .read a => (.read, a.toNat, 0)
      | .write a v => (.write, a.toNat, v)

/-- The lines that the part drives to the record memory (R173; section 12.9). -/
structure BusLines where
  /-- MA19..MA0, where driven. -/
  address : Option Nat
  /-- MD15..MD0, where driven. -/
  data : Option Word
  /-- MCS_N active. -/
  strobe : Bool
  /-- MWR_N at write. -/
  write : Bool
deriving DecidableEq, Repr

/-- R173 phase by phase; in turnaround neither data nor strobe is driven (R174), and device reset releases the lines (R182). That
the data lines are released with the bus free after a write too, that the address is not driven in turnaround or with the bus
free, and that the read/write line stands at read there, is the model's choice (log 29). -/
def State.busLines (s : State) : BusLines :=
  let released : BusLines := { address := none, data := none, strobe := false, write := false }
  match s.busAccess with
  | none => released
  | some (dir, a, v) =>
    if s.mc.phase = .idle ∨ s.mc.phase = .turnaround then released
    else
      { address := some a, data := if dir = .write then some v else none
        strobe := s.mc.phase == .strobe, write := dir == .write }

/-- A log request that does not hold the bus. -/
def MemController.logWaits (m : MemController) : Bool := m.logRequest.isSome && m.owner != .log

/-- The first setup cycle of an access: the direction marker takes its direction (R174). -/
def MemController.beginSetup (dir : AccessDir) (m : MemController) : MemController :=
  { m with phase := .setup, marker := dir, timedOut := false }

/-- A granted access enters SETUP, or TURNAROUND where its direction differs from the marker (R174). -/
def MemController.enter (dir : AccessDir) (m : MemController) : MemController :=
  if m.marker = dir then m.beginSetup dir else { m with phase := .turnaround }

/-- R177: the log request is granted. -/
def MemController.grantLog (m : MemController) : MemController :=
  { m with owner := .log, wordIndex := 0, granted := none }.enter .write

/-- R177: a window request leaves the slot and is granted. -/
def MemController.grantWindow (r : WindowRequest) (m : MemController) : MemController :=
  { m with owner := .window, granted := some r, slot := none }.enter r.dir

/-- R177: with the bus free, a log request is granted first, otherwise the request in the window slot. -/
def MemController.arbitrate (m : MemController) : MemController :=
  if m.phase = .idle then
    if m.logRequest.isSome then m.grantLog
    else match m.slot with
      | some r => m.grantWindow r
      | none => m
  else m

/-- R177 on the state. -/
def arbitrate (s : State) : State := { s with mc := s.mc.arbitrate }

/-- R178 to R180: a window request replaces any in the slot, READY is cleared, and a free bus takes it at once. -/
def placeWindowRequest (r : WindowRequest) (s : State) : State :=
  arbitrate { s with mc := { s.mc with slot := some r, ready := false } }

/-- R176: the log writer's request for 16 words; a free bus takes it at once. -/
def placeLogRequest (r : LogRequest) (s : State) : State :=
  arbitrate { s with mc := { s.mc with logRequest := some r } }

/-! ## Phases -/

/-- R177: at the end of its turnaround a window access is withdrawn in favour of a waiting log request, back into the
slot unless a newer request stands there; any other access begins its setup. -/
def MemController.endTurnaround (m : MemController) : MemController :=
  match m.owner, m.granted with
  | .window, some r =>
    if m.logRequest.isSome then { m with slot := m.slot.or (some r) }.grantLog
    else m.beginSetup r.dir
  | _, _ => m.beginSetup .write

/-- R173, R175: the strobe ends with the access's word sampled or placed. -/
def endStrobe (waited : Nat) (s : State) : State :=
  match s.busAccess with
  | some (.read, a, _) =>
    { s with mc := { s.mc with phase := .hold, waitCount := waited, sampled := s.mem.read a } }
  | some (.write, a, v) =>
    { s with mc := { s.mc with phase := .hold, waitCount := waited }, mem := s.mem.write a v }
  | none => { s with mc := { s.mc with phase := .hold, waitCount := waited } }

/-- R175: the strobe ends at the wait limit. A read samples whatever the data lines carry, a write may or may not have
placed its word: free values (log 8, log 9). -/
def endStrobeTimedOut (s : State) : State :=
  let m := { s.mc with phase := .hold, waitCount := s.mp.cfg.waitTop, timedOut := true }
  let s1 := { s with freeDraws := s.freeDraws + 1 }
  match s.busAccess with
  | some (.read, _, _) => { s1 with mc := { m with sampled := Config.timedOutReadWord s.freeDraws } }
  | some (.write, a, v) =>
    if Config.timedOutWriteLands s.freeDraws then { s1 with mc := m, mem := s.mem.write a v } else { s1 with mc := m }
  | none => { s1 with mc := m }

/-- The extension a strobe can have had when it ends normally: none with the wait enable off, at most the wait limit
with it on (R175; log 17). -/
def State.waitAllowed (s : State) (waited : Nat) : Option Nat :=
  if s.mp.cfg.waitEnable = 1 then (if waited ≤ s.mp.cfg.waitTop then some waited else none) else some 0

/-! ## Meanings -/

/-- TURNAROUND_END (R177). -/
def execTurnaroundEnd (s : State) : Answer :=
  .next (if s.mc.phase = .turnaround then { s with mc := s.mc.endTurnaround } else s)

/-- SETUP_END (R173): the wait count is set to 0 at the start of each strobe (R175). -/
def execSetupEnd (s : State) : Answer :=
  .next (if s.mc.phase = .setup then { s with mc := { s.mc with phase := .strobe, waitCount := 0 } } else s)

/-- STROBE_END (R175). -/
def execStrobeEnd (waited : Nat) (s : State) : Answer :=
  .next (if s.mc.phase = .strobe then
    match s.waitAllowed waited with
    | some n => endStrobe n s
    | none => s
  else s)

/-- WAIT_TIMEOUT (R175), while the wait enable is on. -/
def execWaitTimeout (s : State) : Answer :=
  .next (if s.mc.phase = .strobe ∧ s.mp.cfg.waitEnable = 1 then endStrobeTimedOut s else s)

end Sys2Proof.Machine
end

