-- ==== Sys2Proof/Machine/Log.lean ====
section
/-! DEFINITION. The log writer: record layout, pending queue, writer, index and threshold (chapter 10), and the end of
an access on the bus, which tells its requester (R173, R176, R181). -/

namespace Sys2Proof.Machine

/-! ## Record layout (Table 10-1) -/

def RemovalReason.code : RemovalReason → Nat
  | .detached => 1
  | .evicted => 2

def ViewChange.code : ViewChange → Nat
  | .joined => 1
  | .left => 2
  | .timedOut => 3
  | .purged => 4
  | .replaced => 5

/-- A 32-bit number in two words, lowest part first. -/
def words32 (n : Nat) : List Word := [part n 0, part n 1]

/-- A 40-bit number in three words, lowest part first. -/
def words40 (n : Nat) : List Word := [part n 0, part n 1, part n 2]

/-- One place per watch, watch 0 lowest. -/
def watchBits : List Bool → Nat
  | [] => 0
  | b :: rest => bit b + 2 * watchBits rest

/-- A point: bits 11..0 port, bits 14..12 group. -/
def pointWord (group : BitVec 3) (port : BitVec 12) : Word := word (port.toNat + 4096 * group.toNat)

def dirCode : Dir → Nat
  | .up => 0
  | .down => 1

/-- The words of a record that its kind assigns, from word 0 on (Table 10-1). -/
def Record.assigned : Record → List Word
  | .cap client epoch allowance admitted =>
    [1] ++ words32 epoch.toNat ++ [word client.val, allowance] ++ words40 admitted.up.toNat ++ words40 admitted.down.toNat
  | .final client reason attachEpoch epoch admitted dropped group port =>
    [word (2 + 16 * reason.code)] ++ words32 epoch.toNat ++ [word client.val, pointWord group port] ++
      words32 attachEpoch.toNat ++ words40 admitted.up.toNat ++ words40 admitted.down.toNat ++ words32 dropped
  | .idle client epoch admitted =>
    [3] ++ words32 epoch.toNat ++ [word client.val, 0] ++ words40 admitted.up.toNat ++ words40 admitted.down.toNat
  | .trace traced flags d epoch stamp =>
    [4] ++ words32 epoch.toNat ++
      [word d.client.val,
       word (watchBits traced + 16 * watchBits flags + 256 * dirCode d.dir + 512 * d.verdict.code + 2048 * d.reason.code),
       word d.length] ++
      words32 d.committed ++ words32 d.excess ++ [word d.grant] ++ words32 stamp.toNat
  | .view station set change epoch size =>
    [word (5 + 16 * change.code)] ++ words32 epoch.toNat ++ [station, word (set.toNat + 256 * size)]

/-- R161: all 16 words, the unassigned ones 0. -/
def Record.words (r : Record) : List Word := (List.range Config.recordWords).map fun k => r.assigned.getD k 0

/-! ## Losses, the queue and the writer -/

/-- R169: the lost count saturates at 65,535 and RECORD_LOST is raised. -/
def loseRecord (s : State) : State :=
  raise .recordLost { s with lw := { s.lw with lost := satAdd 65535 s.lw.lost 1 } }

/-- R164: the writer, IDLE, takes the records of the queue one after the other: at a full log each is lost, below the
limit one becomes the record in flight. -/
def takeFrom : List Record → State → State
  | [], s => { s with lw := { s.lw with queue := [] } }
  | r :: rest, s =>
    if s.lw.index = s.mp.cfg.limit then takeFrom rest (loseRecord s)
    else
      placeLogRequest ⟨s.lw.index, r.words⟩
        { s with lw := { s.lw with queue := rest, inFlight := some r, writer := .writing } }

/-- R164: while it is IDLE the writer takes what the queue holds. -/
def writerTake (s : State) : State :=
  if s.lw.writer = .idle then takeFrom s.lw.queue s else s

/-- R162: an offered record joins the queue, or is lost where the queue holds 8; an IDLE writer takes it at once. -/
def offerRecord (r : Record) (s : State) : State :=
  if s.lw.queue.length < Config.recordDepth then
    writerTake { s with lw := { s.lw with queue := s.lw.queue ++ [r] } }
  else loseRecord s

/-- R165: the index advances by 16 and the flags follow. -/
def advanceIndex (s : State) : State :=
  let s1 := { s with lw := { s.lw with index := s.lw.index + 16 } }
  let s2 := if s1.lw.index = s1.lw.threshold then raise .logThreshold s1 else s1
  if s1.lw.index = s1.mp.cfg.limit then raise .logFull s2 else s2

/-- R167: a pending index write takes effect and is cleared. -/
def applyPendingIndex (v : Nat) (s : State) : State :=
  { s with lw := { s.lw with index := v, pendingIndex := none } }

/-- The record in flight is released, and the writer enters IDLE and takes the next record. -/
def releaseRecord (s : State) : State :=
  writerTake { s with lw := { s.lw with inFlight := none, writer := .idle } }

/-- R165, R167: the memory controller reports that all 16 words are written. -/
def recordCompleted (s : State) : State :=
  releaseRecord (match s.lw.pendingIndex with
    | some v => applyPendingIndex v s
    | none => advanceIndex s)

/-- R170: the memory controller reports that the write timed out. -/
def recordTimedOut (s : State) : State :=
  let s1 := loseRecord s
  releaseRecord (match s1.lw.pendingIndex with
    | some v => applyPendingIndex v s1
    | none => s1)

/-! ## The end of an access -/

/-- R181: the end of a window access; READY is set if the slot is empty. -/
def MemController.endWindow (m : MemController) : MemController :=
  { m with
    phase := .idle, owner := .none, granted := none,
    data := (match m.granted with
      | some (.read _) => m.sampled
      | _ => m.data),
    timeout := m.timeout || m.timedOut,
    ready := m.slot.isNone }

/-- The bus is free of the log writer's access, and the log request has ended (R176). -/
def MemController.endLog (m : MemController) : MemController :=
  { m with phase := .idle, owner := .none, logRequest := none, wordIndex := 0 }

/-- MEMORY_TIMEOUT at every timed-out access (R175). -/
def raiseIfTimedOut (s : State) : State := if s.mc.timedOut then raise .memoryTimeout s else s

/-- R173, R176, R177, R181: at the end of hold the next word of a record begins, or the requester is told and then the
arbiter hands out the bus (log 14). -/
def endAccess (s : State) : State :=
  match s.mc.owner with
  | .log =>
    if s.mc.timedOut then
      arbitrate (recordTimedOut { raise .memoryTimeout s with mc := s.mc.endLog })
    else if s.mc.wordIndex < 15 then
      { s with mc := { s.mc with wordIndex := s.mc.wordIndex + 1 }.beginSetup .write }
    else arbitrate (recordCompleted { s with mc := s.mc.endLog })
  | _ => arbitrate { raiseIfTimedOut s with mc := s.mc.endWindow }

/-! ## Index and threshold words -/

/-- The value a low-word write forms from a holding (R167). -/
def joinHolding (holding : BitVec 5) (v : Word) : Nat := holding.toNat * 65536 + v.toNat

/-- R167, R168: a word address of the log region in steps of 16. -/
def ConfigWords.logAddress (c : ConfigWords) (v : Nat) : Bool :=
  c.base ≤ v && v ≤ c.limit && (v - c.base) % 16 == 0

/-- R167. In UNCONFIGURED the cause is NOT_STARTED, whatever the value (log 32). -/
def writeLogIndexLow (v : Word) (s : State) : State :=
  if !s.started then refuseWrite .notStarted 0x0C s
  else
    let x := joinHolding s.lw.indexHolding v
    if !s.mp.cfg.logAddress x then refuseWrite .badValue 0x0C s
    else match s.lw.writer with
      | .idle => { s with lw := { s.lw with index := x } }
      | .writing => { s with lw := { s.lw with pendingIndex := some x } }

/-- R168: as the index (log 32), but a valid write takes effect at once. -/
def writeThresholdLow (v : Word) (s : State) : State :=
  if !s.started then refuseWrite .notStarted 0x0E s
  else
    let x := joinHolding s.lw.thresholdHolding v
    if !s.mp.cfg.logAddress x then refuseWrite .badValue 0x0E s
    else { s with lw := { s.lw with threshold := x } }

/-- R169: any value. -/
def zeroLostCount (s : State) : State := { s with lw := { s.lw with lost := 0 } }

/-- R166: the index latch takes bits 20..16. -/
def latchIndex (s : State) : State :=
  { s with lw := { s.lw with indexLatch := BitVec.ofNat 5 (s.lw.index / 65536) } }

/-- R168. -/
def latchThreshold (s : State) : State :=
  { s with lw := { s.lw with thresholdLatch := BitVec.ofNat 5 (s.lw.threshold / 65536) } }

/-- R183: the word a read shifts out. -/
def setDataOut (v : Word) (s : State) : State := { s with mp := { s.mp with dataOut := v } }

/-! ## Meanings -/

/-- LOG_INDEX_LOW_WRITE (R167). -/
def execLogIndexLowWrite (v : Word) (s : State) : Answer := .next (outOfReset s (writeLogIndexLow v s))

/-- LOG_INDEX_LOW_READ (R166). -/
def execLogIndexLowRead (s : State) : Answer := .next (outOfReset s (latchIndex (setDataOut (part s.lw.index 0) s)))

/-- THRESHOLD_LOW_WRITE (R168). -/
def execThresholdLowWrite (v : Word) (s : State) : Answer := .next (outOfReset s (writeThresholdLow v s))

/-- THRESHOLD_LOW_READ (R168). -/
def execThresholdLowRead (s : State) : Answer :=
  .next (outOfReset s (latchThreshold (setDataOut (part s.lw.threshold 0) s)))

/-- LOST_COUNT_WRITE (R169): any value. -/
def execLostCountWrite (_v : Word) (s : State) : Answer := .next (outOfReset s (zeroLostCount s))

/-- ACCESS_END (R173, R176, R181). -/
def execAccessEnd (s : State) : Answer := .next (if s.mc.phase = .hold then endAccess s else s)

end Sys2Proof.Machine
end

