-- ==== Sys2Proof/Machine/Share.lean ====
section
/-! DEFINITION. The share engine: level search, the stages of a pass, join grants and returns, the publish of a
direction (chapter 2). -/

namespace Sys2Proof.Machine

/-! ## The level search (R11, R12) -/

/-- An item of a stage. -/
structure Item where
  demand : Nat
  weight : Nat
deriving DecidableEq, Repr

/-- What an item receives at a level: min(d, ⌊w·λ/64⌋). -/
def Item.allocation (i : Item) (level : Nat) : Nat := min i.demand (i.weight * level / 64)

/-- The fill f(λ). -/
def fill (items : List Item) (level : Nat) : Nat := (items.map fun i => i.allocation level).sum

/-- The probes for the bits below `k`, most significant first, from the level reached so far (R12). -/
def probeBits (items : List Item) (amount : Nat) : Nat → Nat → Nat
  | 0, level => level
  | k + 1, level =>
    probeBits items amount k (if fill items (level + 2 ^ k) ≤ amount then level + 2 ^ k else level)

/-- The apportioned level λ*, by 22 probes from level 0 (R12). -/
def levelSearch (items : List Item) (amount : Nat) : Nat := probeBits items amount 22 0

/-! ## Inputs of a pass, from its snapshot (R16 to R18) -/

/-- R16. -/
def clientItem (c : ConfigWords) (d : Dir) (m : Member) : Item :=
  if m.capped then { demand := min c.cappedRate.toNat (m.estimate.get d), weight := 1 }
  else { demand := m.estimate.get d, weight := c.weight m.tier }

def Snapshot.groupMembers (n : Snapshot) (g : BitVec 3) : List Member := n.members.filter fun m => m.group == g

/-- ops_g (R17). -/
def Snapshot.groupOps (n : Snapshot) (d : Dir) (g : BitVec 3) : Nat :=
  ((n.ops.filter fun o => o.group == g).map fun o => o.estimate.get d).sum

/-- The eight attachment groups. -/
def allGroups : List (BitVec 3) := [0, 1, 2, 3, 4, 5, 6, 7]

/-- The groups that hold at least one member (R17). -/
def Snapshot.heldGroups (n : Snapshot) : List (BitVec 3) := allGroups.filter fun g => !(n.groupMembers g).isEmpty

/-- A group's item (R17); subtraction stops at 0, which is capeff_g = max(0, cap_g − ops_g). -/
def groupItem (c : ConfigWords) (n : Snapshot) (d : Dir) (g : BitVec 3) : Item :=
  let items := (n.groupMembers g).map (clientItem c d)
  { demand := min (c.groupCapacity d g - n.groupOps d g) (items.map Item.demand).sum
    weight := (items.map Item.weight).sum }

def groupItems (c : ConfigWords) (n : Snapshot) (d : Dir) : List Item := n.heldGroups.map (groupItem c n d)

/-- D_self and W_self: a direction's weight is zero exactly when its demand is zero (R18). -/
def ownItem (c : ConfigWords) (n : Snapshot) (d : Dir) : Item :=
  let demand := min 65535 ((groupItems c n d).map Item.demand).sum
  let weight := ((groupItems c n d).map Item.weight).sum
  { demand := if weight = 0 then 0 else demand, weight := if demand = 0 then 0 else weight }

/-- O_self (R18). -/
def ownReserve (n : Snapshot) (d : Dir) : Nat := min 16383 ((n.ops.map fun o => o.estimate.get d).sum)

/-! ## Train stage (R20, R21) and carriage share (R22) -/

/-- C_eff = max(0, ΣG − ΣO). -/
def effectiveUplink (n : Snapshot) (d : Dir) : Nat :=
  (n.uplink.get d + (n.view.map fun p => (p.get d).uplink).sum) -
    (ownReserve n d + (n.view.map fun p => (p.get d).reserve).sum)

/-- The items of the train stage: the own item and one per peer in the snapshot's view. -/
def trainItems (c : ConfigWords) (n : Snapshot) (d : Dir) : List Item :=
  ownItem c n d :: n.view.map fun p => { demand := (p.get d).demand, weight := (p.get d).weight }

/-- a_self (R21). -/
def trainShare (c : ConfigWords) (n : Snapshot) (d : Dir) : Nat :=
  (ownItem c n d).allocation (levelSearch (trainItems c n d) (effectiveUplink n d))

/-- R22: a held pass takes the held share, any other the train stage's. -/
def passShare (c : ConfigWords) (n : Snapshot) (heldShare : Nat) (d : Dir) : Nat :=
  if n.held then heldShare else trainShare c n d

/-! ## Group and client stages (R23, R24) -/

/-- The computed grants of one group from its allocation (R24). -/
def clientStage (c : ConfigWords) (n : Snapshot) (d : Dir) (g : BitVec 3) (amount : Nat) :
    List (Fin Config.clientCount × Nat) :=
  let members := n.groupMembers g
  let level := levelSearch (members.map (clientItem c d)) amount
  members.map fun m => (m.index, (clientItem c d m).allocation level)

/-- The computed grants of all members from the carriage share. -/
def computedGrants (c : ConfigWords) (n : Snapshot) (d : Dir) (share : Nat) :
    List (Fin Config.clientCount × Nat) :=
  let level := levelSearch (groupItems c n d) share
  n.heldGroups.flatMap fun g => clientStage c n d g ((groupItem c n d g).allocation level)

/-! ## Remainder, grants and the membership list -/

def State.shareDir (s : State) (d : Dir) : ShareDir := s.se.dirs.get d

def State.setShareDir (s : State) (d : Dir) (x : ShareDir) : State :=
  { s with se := { s.se with dirs := s.se.dirs.set d x } }

def State.setRemainder (s : State) (d : Dir) (r : Nat) : State :=
  s.setShareDir d { s.shareDir d with remainder := r }

def State.grant (s : State) (d : Dir) (i : Fin Config.clientCount) : Nat := ((s.client i).dir d).grant

def State.setGrant (s : State) (d : Dir) (i : Fin Config.clientCount) (g : Nat) : State :=
  s.setClient i ((s.client i).setDir d { (s.client i).dir d with grant := g })

/-- A grant limited by capped_rate while the entry's CAPPED flag is set (R36). -/
def State.capLimit (s : State) (i : Fin Config.clientCount) (g : Nat) : Nat :=
  if (s.client i).capped then min s.mp.cfg.cappedRate.toNat g else g

/-- The amount of a join grant from the remainder in force (R30, R34). -/
def State.joinAmount (s : State) (d : Dir) (i : Fin Config.clientCount) : Nat :=
  s.capLimit i (min s.mp.cfg.joinRate.toNat (s.shareDir d).remainder)

/-- The client holds `g`, drawn from the remainder. -/
def drawGrant (d : Dir) (i : Fin Config.clientCount) (g : Nat) (s : State) : State :=
  (s.setGrant d i g).setRemainder d ((s.shareDir d).remainder - g)

/-- R34: a join grant in one direction. -/
def takeJoinGrant (d : Dir) (i : Fin Config.clientCount) (s : State) : State :=
  drawGrant d i (s.joinAmount d i) s

/-- R34: a join grant in each direction. -/
def takeJoinGrants (i : Fin Config.clientCount) (s : State) : State :=
  takeJoinGrant .down i (takeJoinGrant .up i s)

/-- R35, R36: the grant becomes at most `keep`; the rest returns to the remainder. -/
def returnGrant (keep : Nat) (d : Dir) (i : Fin Config.clientCount) (s : State) : State :=
  let g := s.grant d i
  (s.setGrant d i (min g keep)).setRemainder d ((s.shareDir d).remainder + (g - min g keep))

/-- R28: the client is struck from the membership list of a running pass. -/
def strike (i : Fin Config.clientCount) (s : State) : State :=
  { s with se := { s.se with
      snapshot := s.se.snapshot.map fun n => { n with membership := n.membership.filter (· ≠ i) } } }

/-- R35: a client that stops being a sharing client returns its whole grant in each direction and is struck. -/
def leaveSharing (i : Fin Config.clientCount) (s : State) : State :=
  strike i (returnGrant 0 .down i (returnGrant 0 .up i s))

/-! ## The pass -/

def PeerEntry.viewFigures : Option PeerEntry → Option (PerDir Figures)
  | some p => if p.inView then some p.figures else none
  | none => none

/-- The uplink in force for a direction (R56). -/
def State.uplinkInForce (s : State) (d : Dir) : Nat :=
  if s.mp.cfg.gatewaySet then (if s.pt.stale then s.pt.heldUplink.get d / 2 else s.pt.heldUplink.get d) else 0

def ClientEntry.estimates (e : ClientEntry) : PerDir Nat := ⟨e.dirs.up.estimate, e.dirs.down.estimate⟩

/-- The sharing clients, in ascending index (R15). -/
def State.snapshotMembers (s : State) : List Member :=
  (List.finRange Config.clientCount).filterMap fun i =>
    let e := s.client i
    if e.sharing then
      some { index := i, group := e.group, capped := e.capped, tier := e.tier, estimate := e.estimates }
    else none

/-- The OPERATIONS-tier entries that are ACTIVE and not blocked (R15). -/
def State.snapshotOps (s : State) : List OpsEstimate :=
  (List.finRange Config.clientCount).filterMap fun i =>
    let e := s.client i
    if e.state == .active && !e.blocked && e.tier == .operations then
      some { group := e.group, estimate := e.estimates }
    else none

/-- The pass snapshot (R15). -/
def State.takeSnapshot (s : State) : Snapshot :=
  { view := s.pt.slots.toList.filterMap PeerEntry.viewFigures
    uplink := ⟨s.uplinkInForce .up, s.uplinkInForce .down⟩
    members := s.snapshotMembers
    ops := s.snapshotOps
    held := s.li.station == .lineFault
    membership := s.snapshotMembers.map Member.index }

/-- The epoch cycle ends (R8). -/
def endCycle (s : State) : State := { s with tb := { s.tb with cycleBusy := false } }

/-- Closure-complete at the share engine (R26): a pass starts in ACTIVE, SILENT or LINE_FAULT; else the cycle ends. -/
def closureComplete (s : State) : State :=
  if s.li.station = .active ∨ s.li.station = .silent ∨ s.li.station = .lineFault then
    { s with se := { s.se with pass := .passUp, snapshot := some s.takeSnapshot } }
  else endCycle s

/-- R29 step 1, and the remainder before any grant is given: A becomes the share of this pass, H too unless held. -/
def setShare (d : Dir) (held : Bool) (share : Nat) (s : State) : State :=
  let x := s.shareDir d
  s.setShareDir d { x with share := share, held := if held then x.held else share, remainder := share, sharesValid := true }

/-- R29 step 2: each client still on the membership list receives its computed grant, within the capped rate. -/
def giveGrants (d : Dir) (membership : List (Fin Config.clientCount)) :
    List (Fin Config.clientCount × Nat) → State → State
  | [], s => s
  | (i, g) :: rest, s =>
    giveGrants d membership rest (if i ∈ membership then drawGrant d i (s.capLimit i g) s else s)

/-- R29 step 4, R30: each sharing client not on the membership list is redrawn, in ascending index. -/
def redrawJoiners (d : Dir) (membership : List (Fin Config.clientCount)) :
    List (Fin Config.clientCount) → State → State
  | [], s => s
  | i :: rest, s =>
    redrawJoiners d membership rest
      (if (s.client i).sharing ∧ i ∉ membership then takeJoinGrant d i s else s)

/-- R29: the publish of a direction. The remainder falls by each grant as it is given, so that step 3 of the rule holds
when the computed grants are given, and R30's when the joiners are redrawn. -/
def publishDir (d : Dir) (n : Snapshot) (s : State) : State :=
  let share := passShare s.mp.cfg n (s.shareDir d).held d
  redrawJoiners d n.membership (List.finRange Config.clientCount)
    (giveGrants d n.membership (computedGrants s.mp.cfg n d share) (setShare d n.held share s))

/-- R19: the own announced values of one direction. -/
def storeOwn (d : Dir) (n : Snapshot) (s : State) : State :=
  let own := ownItem s.mp.cfg n d
  s.setShareDir d { s.shareDir d with
    ownDemand := own.demand, ownWeight := own.weight, ownReserve := ownReserve n d }

end Sys2Proof.Machine
end

