-- ==== Sys2Proof/Machine/Client.lean ====
section
/-! DEFINITION. The client table: attachment, closure walk, wake, and the host's client commands (chapters 6 and 8). -/

namespace Sys2Proof.Machine

/-! ## Buckets as an event sets them (R129, R134) -/

/-- CBS = max(2,048, 2·g·burst_ms) (R129). -/
def ConfigWords.committedDepth (c : ConfigWords) (grant : Nat) : Nat := max 2048 (2 * grant * c.burstMs.toNat)

/-- EBS: CBS, or 0 while CAPPED is set (R129). -/
def ConfigWords.excessDepth (c : ConfigWords) (capped : Bool) (grant : Nat) : Nat :=
  if capped then 0 else c.committedDepth grant

/-- Both buckets of a direction full at the depths of its grant, stamped (R134). -/
def fullBuckets (c : ConfigWords) (capped : Bool) (stamp : BitVec 20) (x : ClientDir) : ClientDir :=
  { x with
    committedDepth := c.committedDepth x.grant, committed := c.committedDepth x.grant
    excessDepth := c.excessDepth capped x.grant, excess := c.excessDepth capped x.grant
    refillStamp := stamp }

/-- The entry with both directions' buckets full. -/
def ClientEntry.fillBuckets (c : ConfigWords) (stamp : BitVec 20) (e : ClientEntry) : ClientEntry :=
  { e with dirs := e.dirs.map (fullBuckets c e.capped stamp) }

/-- R34, R97, R107: a STANDARD or PREMIUM entry that has just become ACTIVE takes its join grants, and its buckets start
full at the depths of those grants. -/
def joinWithFullBuckets (i : Fin Config.clientCount) (s : State) : State :=
  let s1 := takeJoinGrants i s
  s1.setClient i ((s1.client i).fillBuckets s1.mp.cfg s1.tb.stamp)

/-! ## Volume counter (R138) -/

/-- Loading an allowance of `v` MiB. -/
def ClientEntry.loadAllowance (v : Word) (e : ClientEntry) : ClientEntry :=
  { e with allowance := v, volume := if v = 0 then 0 else BitVec.ofNat 40 (2 ^ 40 - v.toNat * 2 ^ 20) }

/-! ## Arrivals and departures (section 6.2) -/

def ClientEntry.setStamps (stamp : BitVec 20) (e : ClientEntry) : ClientEntry :=
  { e with dirs := e.dirs.map fun x => { x with refillStamp := stamp } }

/-- R97 steps 1 to 3: the entry an ATTACH makes of a FREE one, before its grants. -/
def State.freshEntry (s : State) (tier : Tier) (group : BitVec 3) (port : BitVec 12) : ClientEntry :=
  { ClientEntry.free with state := .active, tier := tier, group := group, port := port, attachEpoch := s.tb.epoch }
    |>.loadAllowance s.mp.cfg.defaultAllowance

/-- R97. -/
def attachFree (i : Fin Config.clientCount) (tier : Tier) (group : BitVec 3) (port : BitVec 12) (s : State) : State :=
  let e := s.freshEntry tier group port
  if tier = .operations then s.setClient i (e.setStamps s.tb.stamp)
  else joinWithFullBuckets i (s.setClient i e)

/-- R97, R98: ATTACH and its answer, in the order of R98. -/
def attachClient (i : Fin Config.clientCount) (tier : Tier) (group : BitVec 3) (port : BitVec 12) (s : State) :
    State × RspOutcome × Reason :=
  let e := s.client i
  if !s.mp.cfg.groupExists group then (s, .refused, .badPoint)
  else if e.state = .free then (attachFree i tier group port s, .done, .none)
  else if e.group = group ∧ e.port = port then (s, .done, .same)
  else (s, .refused, .inUse)

/-- R99: MOVE and its answer. -/
def moveClient (i : Fin Config.clientCount) (group : BitVec 3) (port : BitVec 12) (s : State) :
    State × RspOutcome × Reason :=
  let e := s.client i
  if !s.mp.cfg.groupExists group then (s, .refused, .badPoint)
  else if e.state = .free then (s, .refused, .notAttached)
  else if e.group = group ∧ e.port = port then (s, .done, .same)
  else (s.setClient i { e with group := group, port := port }, .done, .none)

/-- The FINAL record of an entry (R100). -/
def State.finalRecord (s : State) (i : Fin Config.clientCount) (reason : RemovalReason) : Record :=
  let e := s.client i
  .final i reason e.attachEpoch s.tb.epoch e.admitted e.dropped e.group e.port

/-- R100, on an entry that is not FREE: record, returns, and the entry FREE. -/
def removeClient (i : Fin Config.clientCount) (reason : RemovalReason) (s : State) : State :=
  (leaveSharing i (offerRecord (s.finalRecord i reason) s)).setClient i ClientEntry.free

/-- R100: DETACH and its answer. -/
def detachClient (i : Fin Config.clientCount) (s : State) : State × RspOutcome × Reason :=
  if (s.client i).state = .free then (s, .refused, .notAttached)
  else (removeClient i .detached s, .done, .none)

/-! ## Window flip and closure walk (section 6.3) -/

/-- R102: the selector of every entry that is not FREE toggles. -/
def ClientEntry.flip (e : ClientEntry) : ClientEntry :=
  if e.state = .free then e else { e with selector := !e.selector }

/-- R102: the flip, and the start of the closure walk with T. -/
def flipWindows (length : Nat) (s : State) : State :=
  { s with ct := { entries := mapEntries ClientEntry.flip s.ct.entries, walk := some ⟨0, length⟩ } }

/-- The offered rate r (R104). -/
def offeredRate (bytes length : Nat) : Nat := min 65535 (ceilDiv bytes (2 * length))

/-- The last demand estimate of a direction at the closure step (R104). -/
def demandEstimate (c : ConfigWords) (e : ClientEntry) (length : Nat) (d : Dir) : Nat :=
  let r := offeredRate (e.closedBytes d) length
  if e.blocked || e.state != .active then 0
  else if e.tier = .operations then min 16383 (r + ceilDiv r 4)
  else if e.capped then min c.cappedRate.toNat (r + ceilDiv r 4 + 4)
  else min 65535 (r + ceilDiv r 4 + 4)

def ClientDir.clearWindow (selector : Bool) (x : ClientDir) : ClientDir :=
  if selector then { x with window0 := 0 } else { x with window1 := 0 }

/-- R103 steps 1 and 2 in one direction: the estimate is made and the closed window emptied. -/
def ClientEntry.closeDir (c : ConfigWords) (length : Nat) (d : Dir) (e : ClientEntry) : ClientEntry :=
  e.setDir d ({ e.dir d with estimate := demandEstimate c e length d }.clearWindow e.selector)

/-- ACTIVE with both closed windows empty (R105). -/
def ClientEntry.quiet (e : ClientEntry) : Bool :=
  e.state == .active && e.closedBytes .up == 0 && e.closedBytes .down == 0

/-- Both last demand estimates 0. -/
def ClientEntry.zeroEstimates (e : ClientEntry) : ClientEntry :=
  { e with dirs := e.dirs.map fun x => { x with estimate := 0 } }

/-- The entry after the step, before a change to IDLE: estimates, emptied windows and the idle count (R103, R105). -/
def ClientEntry.closed (c : ConfigWords) (length : Nat) (e : ClientEntry) : ClientEntry :=
  { (e.closeDir c length .up).closeDir c length .down with idleCount := if e.quiet then e.idleCount + 1 else 0 }

/-- The step makes the entry IDLE (R105). -/
def ClientEntry.agesOut (c : ConfigWords) (e : ClientEntry) : Bool :=
  e.quiet && c.idleLimit.toNat ≤ e.idleCount + 1

/-- R105: state IDLE, grants returned, estimates 0, and an IDLE record where enabled. -/
def becomeIdle (i : Fin Config.clientCount) (s : State) : State :=
  let s1 := leaveSharing i s
  let e := s1.client i
  let s2 := s1.setClient i { e.zeroEstimates with state := .idle }
  if s2.mp.cfg.idleRecords then offerRecord (.idle i s2.tb.epoch e.admitted) s2 else s2

/-- R103: the closure step of one entry. -/
def closeEntry (i : Fin Config.clientCount) (length : Nat) (s : State) : State :=
  let e := s.client i
  if e.state = .free then s
  else
    let s1 := s.setClient i (e.closed s.mp.cfg length)
    if e.agesOut s.mp.cfg then becomeIdle i s1 else s1

/-- R103, R106: the step of the walk's next entry; after the last, closure-complete. -/
def stepWalk (w : Walk) (s : State) : State :=
  let s1 := closeEntry w.next w.length s
  if h : w.next.val + 1 < Config.clientCount then
    { s1 with ct := { s1.ct with walk := some ⟨⟨w.next.val + 1, h⟩, w.length⟩ } }
  else closureComplete { s1 with ct := { s1.ct with walk := none } }

/-! ## Wake (R107) -/

/-- R107, on an IDLE entry that is not blocked. -/
def wakeClient (i : Fin Config.clientCount) (s : State) : State :=
  let e := s.client i
  let s1 := s.setClient i { e with state := .active, idleCount := 0 }
  if e.tier = .operations then s1 else joinWithFullBuckets i s1

/-! ## Host commands on clients (section 6.5) -/

/-- R109. -/
def blockClient (i : Fin Config.clientCount) (s : State) : State :=
  if (s.client i).blocked then s
  else
    let s1 := leaveSharing i s
    s1.setClient i { s1.client i with blocked := true }

/-- R110. -/
def unblockClient (i : Fin Config.clientCount) (s : State) : State :=
  let e := s.client i
  if !e.blocked then s
  else
    let e1 := { e with blocked := false, idleCount := 0 }
    let s1 := s.setClient i e1
    if e1.sharing then takeJoinGrants i s1 else s1

/-- R111. -/
def setClientTier (i : Fin Config.clientCount) (t : Tier) (s : State) : State :=
  let e := s.client i
  if e.tier = t then s
  else if t = .operations then
    let s1 := leaveSharing i s
    s1.setClient i { (s1.client i).zeroEstimates with tier := t }
  else if e.tier = .operations then
    let e1 := { e.zeroEstimates with tier := t }
    let s1 := s.setClient i e1
    if e1.sharing then takeJoinGrants i s1 else s1
  else s.setClient i { e with tier := t }

/-- R146. -/
def loadClientAllowance (i : Fin Config.clientCount) (v : Word) (s : State) : State :=
  s.setClient i { (s.client i).loadAllowance v with capped := false }

/-- The judgement of R108 on the copied arguments: BAD_STATE in UNCONFIGURED, BAD_ARGUMENT for the index or the further
value, NOT_ATTACHED on a FREE entry; otherwise the command acts on the entry. -/
def judgeClientCommand (valueValid : Bool) (act : Fin Config.clientCount → State → State) (s : State) : State :=
  if !s.started then endCommand .badState s
  else match clientOfArgument s.mp.taken0 with
    | none => endCommand .badArgument s
    | some i =>
      if !valueValid then endCommand .badArgument s
      else if (s.client i).state = .free then endCommand .notAttached s
      else act i s

/-! ## READ_CLIENT (R112, Table 12-3) -/

/-- Page 0 of an entry. -/
def ClientEntry.page0 (i : Fin Config.clientCount) (e : ClientEntry) : List Word :=
  [word (e.state.code + 4 * e.tier.code + 16 * bit e.blocked + 32 * bit e.capped + 64 * bit (e.state != .free) +
      128 * bit e.selector + 256 * bit (e.allowance == 0)),
   word i.val, pointWord e.group e.port] ++ words32 e.attachEpoch.toNat ++ [word e.idleCount] ++
    words40 e.volume.toNat ++ [e.allowance] ++ words32 e.dropped

/-- Page 1 or 2 of an entry: one direction. -/
def ClientEntry.pageDir (d : Dir) (e : ClientEntry) : List Word :=
  let x := e.dir d
  let admitted := (e.admitted.get d).toNat
  [word x.grant] ++ words32 x.committed ++ words32 x.excess ++ words32 x.committedDepth ++ words32 x.excessDepth ++
    [word x.estimate] ++ words32 (e.activeBytes d) ++ words32 admitted ++
    [word (admitted / 2 ^ 32 + 256 * (x.refillStamp.toNat / 65536)), part x.refillStamp.toNat 0]

/-- The page a code names (R112). -/
def ClientEntry.page (i : Fin Config.clientCount) (e : ClientEntry) (code : Word) : Option (List Word) :=
  if code = 0 then some (e.page0 i)
  else if code = 1 then some (e.pageDir .up)
  else if code = 2 then some (e.pageDir .down)
  else none

/-- R108, R112: carried out in every station state and on every entry. -/
def readClientPage (s : State) : State :=
  match clientOfArgument s.mp.taken0 with
  | none => endCommand .badArgument s
  | some i =>
    match (s.client i).page i s.mp.taken1 with
    | none => endCommand .badArgument s
    | some ws => endCommand .done (setWindow ws s)

/-! ## Meanings -/

/-- CLOSURE_STEP (R103), while a closure walk is in progress. -/
def execClosureStep (s : State) : Answer :=
  .next (match s.ct.walk with
    | some w => stepWalk w s
    | none => s)

/-- BLOCK (R109). -/
def execBlock (s : State) : Answer :=
  .next (if s.commandRuns 6 then judgeClientCommand true (fun i s => endCommand .done (blockClient i s)) s else s)

/-- UNBLOCK (R110). -/
def execUnblock (s : State) : Answer :=
  .next (if s.commandRuns 7 then judgeClientCommand true (fun i s => endCommand .done (unblockClient i s)) s else s)

/-- SET_TIER (R111, R189). -/
def execSetTier (s : State) : Answer :=
  .next (if s.commandRuns 8 then
    match tierOfCode s.mp.taken1 with
    | some t => judgeClientCommand true (fun i s => endCommand .done (setClientTier i t s)) s
    | none => judgeClientCommand false (fun _ s => s) s
  else s)

/-- SET_ALLOWANCE (R146): BAD_ARGUMENT on an OPERATIONS entry. -/
def execSetAllowance (s : State) : Answer :=
  .next (if s.commandRuns 9 then
    judgeClientCommand true (fun i s =>
      if (s.client i).tier = .operations then endCommand .badArgument s
      else endCommand .done (loadClientAllowance i s.mp.taken1 s)) s
  else s)

/-- EVICT (R100). -/
def execEvict (s : State) : Answer :=
  .next (if s.commandRuns 10 then
    judgeClientCommand true (fun i s => endCommand .done (removeClient i .evicted s)) s else s)

/-- READ_CLIENT (R112). -/
def execReadClient (s : State) : Answer := .next (if s.commandRuns 11 then readClientPage s else s)

end Sys2Proof.Machine
end

