-- ==== Sys2Proof/Machine/Watch.lean ====
section
/-! DEFINITION. The watch unit: matching, counting, traces, and the watch words (chapter 9). -/

namespace Sys2Proof.Machine

def State.watch (s : State) (k : Fin Config.watchCount) : Watch := s.wu.watches[k.val]

def State.setWatch (s : State) (k : Fin Config.watchCount) (w : Watch) : State :=
  { s with wu := { s.wu with watches := s.wu.watches.set k.val w } }

def allWatches : List (Fin Config.watchCount) := [0, 1, 2, 3]

/-! ## Matching and counting (R150, R151) -/

def Watch.hasDir (w : Watch) : Dir → Bool
  | .up => w.maskUp
  | .down => w.maskDown

def Watch.hasVerdict (w : Watch) : Verdict → Bool
  | .pass => w.maskPass
  | .mark => w.maskMark
  | .drop => w.maskDrop

/-- R150. -/
def Watch.isMatch (w : Watch) (v : Delivery) : Bool :=
  w.enable && (w.scopeAll || w.scopeIndex.toNat == v.client.val) && w.hasDir v.dir && w.hasVerdict v.verdict

/-- The direction mask or the verdict mask is empty (R150, R156). -/
def Watch.maskEmpty (w : Watch) : Bool :=
  (!w.maskUp && !w.maskDown) || (!w.maskPass && !w.maskMark && !w.maskDrop)

/-- What one match adds (R151). -/
def Watch.amount (w : Watch) (v : Delivery) : Nat :=
  match w.kind with
  | .frames => 1
  | .bytes => v.length

/-- The sum passes 4,294,967,295 (R151). -/
def Watch.wraps (w : Watch) (v : Delivery) : Bool := 2 ^ 32 ≤ w.count.toNat + w.amount v

/-- The watch after it has counted the verdict (R151). -/
def Watch.counted (v : Delivery) (w : Watch) : Watch :=
  { w with
    count := w.count + BitVec.ofNat 32 (w.amount v)
    overflow := w.overflow || w.wraps v
    armed := w.armed || (w.wraps v && w.traceEnable) }

/-- R151 on one watch: an overflow with the watch's interrupt enable on raises WATCH_OVERFLOW. -/
def countVerdict (v : Delivery) (k : Fin Config.watchCount) (s : State) : State :=
  let w := s.watch k
  let s1 := s.setWatch k (w.counted v)
  if w.wraps v && w.irqEnable then raise .watchOverflow s1 else s1

/-! ## Delivery of a verdict (R152) -/

/-- The traced set: the watches that match and are armed as the delivery finds them. -/
def State.tracedSet (s : State) (v : Delivery) : List (Fin Config.watchCount) :=
  allWatches.filter fun k => (s.watch k).isMatch v && (s.watch k).armed

/-- R152 part 2, watch by watch: every matching watch outside the traced set counts. -/
def countOthers (v : Delivery) (traced : List (Fin Config.watchCount)) : List (Fin Config.watchCount) → State → State
  | [], s => s
  | k :: rest, s =>
    countOthers v traced rest (if (s.watch k).isMatch v ∧ k ∉ traced then countVerdict v k s else s)

/-- The TRACE record of a delivery (R153). -/
def State.traceRecord (s : State) (v : Delivery) (traced : List (Fin Config.watchCount)) : Record :=
  .trace (allWatches.map fun k => traced.contains k) (allWatches.map fun k => (s.watch k).overflow) v
    s.tb.epoch s.tb.stamp

/-- R152 part 4 on one watch. -/
def Watch.restart (w : Watch) : Watch := { w with count := w.reload, armed := false, overflow := false }

/-- R152 part 4. -/
def restartTraced : List (Fin Config.watchCount) → State → State
  | [], s => s
  | k :: rest, s => restartTraced rest (s.setWatch k (s.watch k).restart)

/-- The watch unit takes a delivery whole (R152). -/
def deliverVerdict (v : Delivery) (s : State) : State :=
  let traced := s.tracedSet v
  let s1 := countOthers v traced allWatches s
  if traced.isEmpty then s1 else restartTraced traced (offerRecord (s1.traceRecord v traced) s1)

/-! ## Watch words (R156, R157, Table 12-1) -/

/-- The fields of a mode word. -/
def Watch.mode (w : Watch) : Word :=
  word (bit w.enable + 2 * bit w.maskUp + 4 * bit w.maskDown + 8 * bit w.maskPass + 16 * bit w.maskMark +
    32 * bit w.maskDrop + 64 * (match w.kind with
      | .frames => 0
      | .bytes => 1) + 128 * bit w.traceEnable + 256 * bit w.irqEnable)

/-- A mode word replaces all its fields; trace enable from on to off also clears the armed marker (R156). -/
def Watch.setMode (v : Word) (w : Watch) : Watch :=
  { w with
    enable := v.getLsbD 0, maskUp := v.getLsbD 1, maskDown := v.getLsbD 2, maskPass := v.getLsbD 3
    maskMark := v.getLsbD 4, maskDrop := v.getLsbD 5, kind := if v.getLsbD 6 then .bytes else .frames
    traceEnable := v.getLsbD 7, irqEnable := v.getLsbD 8
    armed := w.armed && !(w.traceEnable && !v.getLsbD 7) }

def writeWatchMode (k : Fin Config.watchCount) (v : Word) (s : State) : State := s.setWatch k ((s.watch k).setMode v)

def writeWatchScope (k : Fin Config.watchCount) (v : Word) (s : State) : State :=
  s.setWatch k { s.watch k with scopeIndex := v.extractLsb' 0 9, scopeAll := v.getLsbD 15 }

/-- The address of a watch's count low word. -/
def countLowAddress (k : Fin Config.watchCount) : BitVec 7 := BitVec.ofNat 7 (0x1A + 6 * k.val)

/-- R156: count from the holding and the written value, the watch disarmed; refused with an empty mask. -/
def writeWatchCountLow (k : Fin Config.watchCount) (v : Word) (s : State) : State :=
  let w := s.watch k
  if w.maskEmpty then refuseWrite .maskEmpty (countLowAddress k) s
  else s.setWatch k { w with count := w.holding ++ v, armed := false }

def writeWatchCountHigh (k : Fin Config.watchCount) (v : Word) (s : State) : State :=
  s.setWatch k { s.watch k with holding := v }

def writeWatchReloadLow (k : Fin Config.watchCount) (v : Word) (s : State) : State :=
  s.setWatch k { s.watch k with reload := (s.watch k).reload.extractLsb' 16 16 ++ v }

def writeWatchReloadHigh (k : Fin Config.watchCount) (v : Word) (s : State) : State :=
  s.setWatch k { s.watch k with reload := v ++ (s.watch k).reload.extractLsb' 0 16 }

/-- R156: the count latch takes the high half. -/
def latchWatchCount (k : Fin Config.watchCount) (s : State) : State :=
  s.setWatch k { s.watch k with latch := (s.watch k).count.extractLsb' 16 16 }

/-- R157: the overflow flag of each watch whose position (7..4) is written as one is cleared. -/
def clearOverflow (v : Word) : List (Fin Config.watchCount) → State → State
  | [], s => s
  | k :: rest, s =>
    clearOverflow v rest
      (if v.getLsbD (4 + k.val) then s.setWatch k { s.watch k with overflow := false } else s)

def writeWatchStatus (v : Word) (s : State) : State := clearOverflow v allWatches s

/-- The watch status word (R157). -/
def State.watchStatus (s : State) : Word :=
  word (watchBits (allWatches.map fun k => (s.watch k).armed) +
    16 * watchBits (allWatches.map fun k => (s.watch k).overflow))

/-! ## Meanings -/

/-- WATCH_MODE_WRITE (R156). -/
def execWatchModeWrite (k : Fin 4) (v : Word) (s : State) : Answer := .next (outOfReset s (writeWatchMode k v s))

/-- WATCH_COUNT_LOW_WRITE (R156). -/
def execWatchCountLowWrite (k : Fin 4) (v : Word) (s : State) : Answer :=
  .next (outOfReset s (writeWatchCountLow k v s))

/-- WATCH_COUNT_LOW_READ (R156). -/
def execWatchCountLowRead (k : Fin 4) (s : State) : Answer :=
  .next (outOfReset s (latchWatchCount k (setDataOut ((s.watch k).count.extractLsb' 0 16) s)))

/-- WATCH_STATUS_WRITE (R157). -/
def execWatchStatusWrite (v : Word) (s : State) : Answer := .next (outOfReset s (writeWatchStatus v s))

end Sys2Proof.Machine
end

