-- ==== Sys2Proof/Machine/Meter.lean ====
section
/-! DEFINITION. The metering engine: request queue, response lane, and the service of each kind (chapter 7), with the
counting of allowances (chapter 8). -/

namespace Sys2Proof.Machine

/-! ## Presentation (R119, R121) -/

def State.setMe (s : State) (m : MeterEngine) : State := { s with me := m }

/-- A refusal made at presentation waits for a lane turn (R122). While one waits, another cannot be made: a record takes
six clocks to present and four to send (log 16). -/
def refuseRequest (o : RspOutcome) (r : Request) (s : State) : State :=
  match s.me.refusal with
  | none => s.setMe { s.me with partialRecord := [], refusal := some ⟨r.tag, o, .none, r.code⟩ }
  | some _ => s

/-- R121. -/
def presentRequest (r : Request) (s : State) : State :=
  if !s.started then refuseRequest .notReady r s
  else if s.me.queue.length < Config.requestDepth then
    s.setMe { s.me with partialRecord := [], queue := s.me.queue ++ [r] }
  else refuseRequest .busy r s

/-! ## Lane turns (R122) -/

/-- The request that a lane turn takes: the head of the queue, where no refusal waits. -/
def State.turnHead (s : State) : Option Request :=
  match s.me.refusal with
  | some _ => none
  | none => s.me.queue.head?

/-- The request leaves the queue (R123). -/
def dequeue (s : State) : State := s.setMe { s.me with queue := s.me.queue.tail }

/-- The response of a service goes onto the lane. -/
def respond (r : Request) (o : RspOutcome) (why : Reason) (s : State) : State :=
  s.setMe { s.me with lane := some ⟨r.tag, o, why, r.code⟩ }

/-! ## Buckets (R130) -/

/-- The refill of a direction, at the present stamp. -/
def refillDir (c : ConfigWords) (capped : Bool) (now : BitVec 20) (x : ClientDir) : ClientDir :=
  let add := 2 * x.grant * (now - x.refillStamp).toNat
  let cbs := c.committedDepth x.grant
  let ebs := c.excessDepth capped x.grant
  let spill := x.committed + add - cbs
  { x with
    refillStamp := now, committedDepth := cbs, excessDepth := ebs
    committed := min cbs (x.committed + add), excess := min ebs (x.excess + spill) }

def refill (d : Dir) (i : Fin Config.clientCount) (s : State) : State :=
  let e := s.client i
  s.setClient i (e.setDir d (refillDir s.mp.cfg e.capped s.tb.stamp (e.dir d)))

/-- R132: the verdict from the levels the refill has left, and the levels it leaves. -/
def decideDir (length : Nat) (x : ClientDir) : Verdict × ClientDir :=
  if length ≤ x.committed then (.pass, { x with committed := x.committed - length })
  else if length ≤ x.excess then (.mark, { x with excess := x.excess - length })
  else (.drop, x)

/-! ## Counting (R101, R135, Table 7-6) -/

/-- L into the active window of the direction, saturating. -/
def ClientEntry.countWindow (d : Dir) (length : Nat) (e : ClientEntry) : ClientEntry :=
  let x := e.dir d
  e.setDir d (if e.selector then { x with window1 := satAdd max32 x.window1 length }
    else { x with window0 := satAdd max32 x.window0 length })

/-- L into the admitted bytes of the direction, wrapping. -/
def ClientEntry.countAdmitted (d : Dir) (length : Nat) (e : ClientEntry) : ClientEntry :=
  { e with admitted := e.admitted.set d (e.admitted.get d + BitVec.ofNat 40 length) }

/-- One dropped frame, saturating. -/
def ClientEntry.countDropped (e : ClientEntry) : ClientEntry := { e with dropped := satAdd max32 e.dropped 1 }

/-- The counting of Table 7-6, part 3 of the service (R136). -/
def ClientEntry.countVerdict (d : Dir) (length : Nat) (v : Verdict) (why : Reason) (e : ClientEntry) : ClientEntry :=
  match v, why with
  | .drop, .blocked => e.countDropped
  | .drop, _ => (e.countWindow d length).countDropped
  | .pass, _ | .mark, _ => (e.countWindow d length).countAdmitted d length

/-! ## Volume counter and capping (R140 to R143) -/

/-- R142 in one direction of the entry: the excess bucket goes. -/
def ClientDir.dropExcess (x : ClientDir) : ClientDir := { x with excess := 0, excessDepth := 0 }

/-- R142, R143: the crossing caps the entry. -/
def capClient (i : Fin Config.clientCount) (s : State) : State :=
  let keep := s.mp.cfg.cappedRate.toNat
  let s1 := returnGrant keep .down i (returnGrant keep .up i s)
  let e := s1.client i
  let s2 := s1.setClient i { e with capped := true, dirs := e.dirs.map ClientDir.dropExcess }
  raise .clientCapped (offerRecord (.cap i s2.tb.epoch e.allowance e.admitted) s2)

/-- R140: the counter counts a PASS METERED or UNSHARED, or a MARK, of a STANDARD or PREMIUM entry while enabled. -/
def ClientEntry.volumeCounts (e : ClientEntry) (v : Verdict) (why : Reason) : Bool :=
  e.allowance != 0 && e.tier != .operations && v != .drop && why != .exempt

/-- R140, R141, R145. -/
def countVolume (i : Fin Config.clientCount) (length : Nat) (v : Verdict) (why : Reason) (s : State) : State :=
  let e := s.client i
  if e.volumeCounts v why then
    let s1 := s.setClient i { e with volume := e.volume + BitVec.ofNat 40 length }
    if 2 ^ 40 ≤ e.volume.toNat + length ∧ e.capped = false then capClient i s1 else s1
  else s

/-! ## METER service (R126, R136) -/

/-- Parts 3 to 6 of the service, behind a verdict: counting, volume counter, watch unit, response. The delivery holds
the levels and the grant as the decision left them. -/
def finishMeter (r : Request) (d : Dir) (i : Fin Config.clientCount) (v : Verdict) (why : Reason) (grant : Nat)
    (s : State) : State :=
  let x := (s.client i).dir d
  let delivery : Delivery :=
    { client := i, dir := d, length := r.length, verdict := v, reason := why, committed := x.committed,
      excess := x.excess, grant := grant }
  let s1 := s.setClient i ((s.client i).countVerdict d r.length v why)
  respond r v.outcome why (deliverVerdict delivery (countVolume i r.length v why s1))

/-- Step 6 of Table 7-5: refill, decision, and the rest of the service. -/
def meterShared (r : Request) (d : Dir) (i : Fin Config.clientCount) (s : State) : State :=
  let s1 := refill d i s
  let e := s1.client i
  let verdict := decideDir r.length (e.dir d)
  let s2 := s1.setClient i (e.setDir d verdict.2)
  finishMeter r d i verdict.1 .metered verdict.2.grant s2

/-- Steps 4 to 6 of Table 7-5, on an ACTIVE entry that is not blocked. -/
def meterActive (r : Request) (d : Dir) (i : Fin Config.clientCount) (s : State) : State :=
  if (s.client i).tier = .operations then finishMeter r d i .pass .exempt 0 s
  else if (s.shareDir d).sharesValid = false then finishMeter r d i .pass .unshared 0 (refill d i s)
  else meterShared r d i s

/-- Table 7-5 on an entry (R126). -/
def meterEntry (r : Request) (d : Dir) (i : Fin Config.clientCount) (s : State) : State :=
  let e := s.client i
  if e.state = .free then respond r .refused .notAttached s
  else if e.blocked then finishMeter r d i .drop .blocked (e.dir d).grant s
  else if e.state = .idle then meterActive r d i (wakeClient i s)
  else meterActive r d i s

/-! ## Checks of R124 and hand-over of R125 -/

/-- The client index is checked, and the request served on its entry. -/
def onClient (r : Request) (serve : Fin Config.clientCount → State → State) (s : State) : State :=
  match r.clientIndex with
  | none => respond r .refused .badIndex s
  | some i => serve i s

/-- The client table's answer goes onto the lane (R125). -/
def answerWith (r : Request) (a : State × RspOutcome × Reason) : State := respond r a.2.1 a.2.2 a.1

/-- Service of a METER request: index, then length, then the entry. -/
def serveMeter (r : Request) (d : Dir) (s : State) : State :=
  onClient r (fun i s => if r.length = 0 then respond r .refused .badLength s else meterEntry r d i s) s

def serveAttach (r : Request) (t : Tier) (s : State) : State :=
  onClient r (fun i s => answerWith r (attachClient i t r.group r.port s)) s

def serveMove (r : Request) (s : State) : State :=
  onClient r (fun i s => answerWith r (moveClient i r.group r.port s)) s

def serveDetach (r : Request) (s : State) : State := onClient r (fun i s => answerWith r (detachClient i s)) s

/-! ## Meanings -/

/-- R119: bytes without the strobe complete the record in progress to these; with no record in progress they are ignored. -/
def completeRecord (bytes : List Byte) (s : State) : State :=
  if s.me.partialRecord ≠ [] ∧ s.me.partialRecord <+: bytes ∧ s.me.partialRecord ≠ bytes then
    match Request.ofRecord bytes with
    | some r => presentRequest r s
    | none => s
  else s

/-- REQUEST_PRESENTED (R119, R121). -/
def execRequestPresented (tag code : Byte) (client argument : Byte × Byte) (s : State) : Answer :=
  .next (outOfReset s (completeRecord [tag, code, client.1, client.2, argument.1, argument.2] s))

/-- R119: any partial record is discarded, and the strobe's byte starts a new one, short of its sixth byte. -/
def startRecord (b : Byte) (more : List Byte) (s : State) : State :=
  s.setMe { s.me with partialRecord := b :: more.take 4 }

/-- RECORD_START_STROBE (R119). -/
def execRecordStartStrobe (b : Byte) (s : State) (more : List Byte := []) : Answer :=
  .next (outOfReset s (startRecord b more s))

/-- REFUSAL_SENT (R122), while a refusal waits. -/
def execRefusalSent (s : State) : Answer :=
  .next (match s.me.refusal with
    | some p => s.setMe { s.me with refusal := none, lane := some p }
    | none => s)

/-- METER (R126), while a turn finds a METER request at the head. -/
def execMeter (s : State) : Answer :=
  .next (match s.turnHead with
    | some r => (match requestKind r.code with
      | .meter d => serveMeter r d (dequeue s)
      | _ => s)
    | none => s)

/-- ATTACH (R97, R98, R125), while a turn finds an ATTACH request at the head. -/
def execAttach (s : State) : Answer :=
  .next (match s.turnHead with
    | some r => (match requestKind r.code with
      | .attach t => serveAttach r t (dequeue s)
      | _ => s)
    | none => s)

/-- MOVE (R99, R125), while a turn finds a MOVE request at the head. -/
def execMove (s : State) : Answer :=
  .next (match s.turnHead with
    | some r => (match requestKind r.code with
      | .move => serveMove r (dequeue s)
      | _ => s)
    | none => s)

/-- DETACH (R100, R125), while a turn finds a DETACH request at the head. -/
def execDetach (s : State) : Answer :=
  .next (match s.turnHead with
    | some r => (match requestKind r.code with
      | .detach => serveDetach r (dequeue s)
      | _ => s)
    | none => s)

/-- UNKNOWN_REQUEST (R124), while a turn finds an unknown request code at the head. -/
def execUnknownRequest (s : State) : Answer :=
  .next (match s.turnHead with
    | some r => (match requestKind r.code with
      | .unknown => respond r .refused .badKind (dequeue s)
      | _ => s)
    | none => s)

end Sys2Proof.Machine
end

