-- ==== Sys2Proof/Machine/Frame.lean ====
section
/-! DEFINITION. The share notice as bytes: check, own notices, judgement and clamps of a received frame (chapter 4). -/

namespace Sys2Proof.Machine

/-! ## The check (R63) -/

/-- One of the eight steps of the register. -/
def crcShift (r : Word) : Word := if r.msb then (r <<< 1) ^^^ 0x1021 else r <<< 1

/-- A byte into the upper 8 bits, then eight steps. -/
def crcByte (r : Word) (b : Byte) : Word :=
  crcShift (crcShift (crcShift (crcShift (crcShift (crcShift (crcShift (crcShift (r ^^^ (b ++ (0 : Byte))))))))))

def crc (body : List Byte) : Word := body.foldl crcByte 0xFFFF

/-! ## Own notices (R66, R68) -/

/-- Header offsets 3..5: set id and cycle, flags, epoch length in 10 ms units. -/
def State.noticeHeader (s : State) (leaving stale : Bool) : List Byte :=
  let c := s.mp.cfg
  wordBytes c.stationId ++
    [BitVec.ofNat 8 (16 * c.setId.toNat + s.li.cycle.toNat),
     BitVec.ofNat 8 (bit c.gatewaySet + 2 * bit leaving + 4 * bit stale),
     BitVec.ofNat 8 (c.epoch / 10)]

/-- The items of one direction: DIR, LOAD, RESERVE unless 0, UPLINK on a gateway (R66). -/
def State.noticeItems (s : State) (d : Dir) : List Byte :=
  let x := s.shareDir d
  let dirByte : Byte := match d with
    | .up => 0
    | .down => 1
  [0x01, dirByte] ++ [0x02] ++ wordBytes (word x.ownDemand) ++ wordBytes (word x.ownWeight) ++
    (if x.ownReserve = 0 then [] else 0x03 :: wordBytes (word x.ownReserve)) ++
    (if s.mp.cfg.gatewaySet then 0x04 :: wordBytes (word (s.uplinkInForce d)) else [])

/-- The body: the length byte N and the counted bytes, with the CRC behind it, low byte first (R60, R63). -/
def finishNotice (counted : List Byte) : List Byte :=
  let body := BitVec.ofNat 8 counted.length :: counted
  body ++ wordBytes (crc body)

/-- A regular notice with the cycle in the counter (R66). -/
def State.regularNotice (s : State) : List Byte :=
  finishNotice (s.noticeHeader false (s.mp.cfg.gatewaySet && s.pt.stale) ++ s.noticeItems .up ++ s.noticeItems .down ++ [0x00])

/-- A LEAVING notice with the cycle in the counter (R68). -/
def State.leavingNotice (s : State) : List Byte := finishNotice (s.noticeHeader true false ++ [0x00])

/-! ## The item list (R62, R72) -/

def Figures.zero : Figures := { demand := 0, weight := 0, reserve := 0, uplink := 0 }

/-- The walk of the item list from a direction context and the figures so far; none where the list is invalid. -/
def walkItems (ctx : Dir) (f : PerDir Figures) : List Byte → Option (PerDir Figures)
  | [] => none
  | code :: rest =>
    if code = 0x00 then (if rest.isEmpty then some f else none)
    else if code = 0x01 then
      match rest with
      | d :: more =>
        if d = 0x00 then walkItems .up f more
        else if d = 0x01 then walkItems .down f more
        else none
      | [] => none
    else if code = 0x02 then
      match rest with
      | dl :: dh :: wl :: wh :: more =>
        walkItems ctx (f.set ctx { f.get ctx with
          demand := (ofBytes dl dh).toNat, weight := (ofBytes wl wh).toNat }) more
      | _ => none
    else if code = 0x03 then
      match rest with
      | l :: h :: more => walkItems ctx (f.set ctx { f.get ctx with reserve := (ofBytes l h).toNat }) more
      | _ => none
    else if code = 0x04 then
      match rest with
      | l :: h :: more => walkItems ctx (f.set ctx { f.get ctx with uplink := (ofBytes l h).toNat }) more
      | _ => none
    else none

/-! ## Clamps (R73) -/

/-- Steps 1 to 4. -/
def Figures.clamp (f : Figures) : Figures :=
  { demand := f.demand
    weight := if f.demand = 0 then 0 else if f.weight = 0 then 1 else min 8191 f.weight
    reserve := min 16383 f.reserve
    uplink := min 16383 f.uplink }

/-- Steps 5 and 6 where GATEWAY is clear. -/
def Notice.clamp (n : Notice) : Notice :=
  let f := n.figures.map Figures.clamp
  if n.gateway then { n with figures := f }
  else { n with figures := f.map (fun x => { x with uplink := 0 }), stale := false }

/-! ## Judgement (R71) -/

/-- The notice that body and check spell, unclamped; none where the frame is discarded. -/
def judgeFrame (body : List Byte) (check : Word) : Option Notice :=
  match body with
  | _ :: idLow :: idHigh :: setCycle :: flags :: epoch :: items =>
    let station := ofBytes idLow idHigh
    if crc body != check then none
    else if station = 0 ∨ station = 0xFFFF then none
    else if epoch.toNat < 5 ∨ 100 < epoch.toNat then none
    else match walkItems .up ⟨Figures.zero, Figures.zero⟩ items with
      | none => none
      | some f =>
        some { station := station, set := setCycle.extractLsb' 4 4, cycle := setCycle.extractLsb' 0 4,
               epochLength := 10 * epoch.toNat, gateway := flags.getLsbD 0, leaving := flags.getLsbD 1,
               stale := flags.getLsbD 2, figures := f }
  | _ => none

end Sys2Proof.Machine
end

