-- ==== Sys2Proof/Machine/Peer.lean ====
section
/-! DEFINITION. The peer table and the uplink input (chapter 3). -/

namespace Sys2Proof.Machine

/-! ## Slots and the view -/

def State.slot (s : State) (k : Fin Config.peerSlots) : Option PeerEntry := s.pt.slots[k.val]

def State.setSlot (s : State) (k : Fin Config.peerSlots) (e : Option PeerEntry) : State :=
  { s with pt := { s.pt with slots := s.pt.slots.set k.val e } }

def allSlots : List (Fin Config.peerSlots) := List.finRange Config.peerSlots

/-- Whether an entry of this set is in view: scope TRAIN, or the own set (R50). -/
def ConfigWords.inView (c : ConfigWords) (set : BitVec 4) : Bool := c.scope == 0 || set.toNat == c.setId.toNat

/-- The number of entries in view (R50). -/
def State.viewSize (s : State) : Nat := (s.pt.slots.toList.filterMap PeerEntry.viewFigures).length

/-- The silence limit peer_timeout × ⌈S / E⌉ (R42). -/
def ConfigWords.silenceLimit (c : ConfigWords) (sender : Nat) : Nat := c.peerTimeout.toNat * ceilDiv sender c.epoch

/-- A view change (R51), taken after the table has changed: VIEW_CHANGED, and a VIEW record where enabled. -/
def viewChange (station : Word) (set : BitVec 4) (change : ViewChange) (s : State) : State :=
  let s1 := raise .viewChanged s
  if s1.mp.cfg.viewRecords then offerRecord (.view station set change s1.tb.epoch s1.viewSize) s1 else s1

/-- An entry is removed (R59); from the view, that is a view change. -/
def removePeer (k : Fin Config.peerSlots) (change : ViewChange) (s : State) : State :=
  match s.slot k with
  | none => s
  | some e =>
    let s1 := s.setSlot k none
    if e.inView then viewChange e.station e.set change s1 else s1

/-! ## Storing notices (section 3.2) -/

/-- The entry a notice makes (R44, R45): its fields, silence 0, the limit, purge clear, the in-view marker. -/
def ConfigWords.entryOf (c : ConfigWords) (n : Notice) : PeerEntry :=
  { station := n.station, set := n.set, cycle := n.cycle, epochLength := n.epochLength, gateway := n.gateway,
    stale := n.stale, figures := n.figures, silence := 0, limit := c.silenceLimit n.epochLength, purge := false,
    inView := c.inView n.set }

/-- The slot whose entry holds a station id. -/
def State.findPeer (s : State) (station : Word) : Option (Fin Config.peerSlots) :=
  allSlots.find? fun k => match s.slot k with
    | some e => e.station == station
    | none => false

/-- The empty slot with the lowest number. -/
def State.emptySlot (s : State) : Option (Fin Config.peerSlots) := allSlots.find? fun k => (s.slot k).isNone

/-- The silence count of a slot, 0 where it is empty. -/
def State.silenceAt (s : State) (k : Fin Config.peerSlots) : Nat :=
  match s.slot k with
  | some e => e.silence
  | none => 0

/-- R46: the slot of the largest silence count of at least 1, the lowest of equals. -/
def State.victim (s : State) : Option (Fin Config.peerSlots) :=
  allSlots.find? fun k => 1 ≤ s.silenceAt k && allSlots.all fun j => s.silenceAt j ≤ s.silenceAt k

/-- R43. -/
def refreshPeer (k : Fin Config.peerSlots) (e : PeerEntry) (s : State) : State :=
  s.setSlot k (some { e with silence := 0, purge := false })

/-- R44, R51. -/
def updatePeer (k : Fin Config.peerSlots) (e : PeerEntry) (n : Notice) (s : State) : State :=
  let e1 := s.mp.cfg.entryOf n
  let s1 := s.setSlot k (some e1)
  if e.inView && !e1.inView then viewChange e.station e.set .left s1
  else if !e.inView && e1.inView then viewChange e1.station e1.set .joined s1
  else s1

/-- R45. -/
def storePeer (k : Fin Config.peerSlots) (n : Notice) (s : State) : State :=
  let e := s.mp.cfg.entryOf n
  let s1 := s.setSlot k (some e)
  if e.inView then viewChange e.station e.set .joined s1 else s1

/-- R45, R46: a new station. -/
def newPeer (n : Notice) (s : State) : State :=
  match s.emptySlot with
  | some k => storePeer k n s
  | none =>
    match s.victim with
    | some k => storePeer k n (removePeer k .replaced s)
    | none => raise .peerTableFull s

/-- The peer table takes a notice (section 3.2). -/
def takeNotice (n : Notice) (s : State) : State :=
  match s.findPeer n.station with
  | some k =>
    if n.leaving then removePeer k .left s
    else match s.slot k with
      | some e => if e.cycle = n.cycle then refreshPeer k e s else updatePeer k e n s
      | none => s
  | none => if n.leaving then s else newPeer n s

/-! ## Aging (R48) and purge (R53) -/

/-- R48 on one slot. -/
def agePeer (k : Fin Config.peerSlots) (s : State) : State :=
  match s.slot k with
  | none => s
  | some e =>
    if e.purge then removePeer k .purged s
    else if e.silence + 1 = e.limit then removePeer k .timedOut s
    else s.setSlot k (some { e with silence := e.silence + 1 })

/-- R48 slot by slot. -/
def agePeers : List (Fin Config.peerSlots) → State → State
  | [], s => s
  | k :: rest, s => agePeers rest (agePeer k s)

def PeerEntry.markPurge (e : PeerEntry) : PeerEntry := { e with silence := e.limit - 1, purge := true }

def mapSlots (f : PeerEntry → PeerEntry) (v : Vector (Option PeerEntry) Config.peerSlots) :
    Vector (Option PeerEntry) Config.peerSlots :=
  ⟨⟨v.toArray.toList.map (Option.map f)⟩, by simp⟩

/-- R53: every stored entry is marked. -/
def markAllPeers (s : State) : State := { s with pt := { s.pt with slots := mapSlots PeerEntry.markPurge s.pt.slots } }

/-- R53, R54: in LINE_FAULT an edge sets the pending edge marker instead. -/
def takeEdge (s : State) : State :=
  if s.li.station = .lineFault then { s with pt := { s.pt with pendingEdge := true } } else markAllPeers s

/-- R54: at restoration a pending edge is cleared and applied. -/
def applyPendingEdge (s : State) : State :=
  if s.pt.pendingEdge then markAllPeers { s with pt := { s.pt with pendingEdge := false } } else s

/-- Every slot empty, the pending edge marker clear (R58). -/
def emptyPeers (s : State) : State :=
  { s with pt := { s.pt with slots := Vector.replicate _ none, pendingEdge := false } }

/-! ## Own uplink capacity (section 3.7) -/

def uplinkAddress : Dir → BitVec 7
  | .up => 0x03
  | .down => 0x04

/-- R55. -/
def writeUplink (d : Dir) (v : Word) (s : State) : State :=
  if s.mp.cfg.gatewaySet then
    { s with pt := { s.pt with
        heldUplink := s.pt.heldUplink.set d (min 16383 v.toNat), staleCount := 0, stale := false } }
  else refuseWrite .notGateway (uplinkAddress d) s

/-- R56: an expiry at the uplink input of a gateway station. -/
def ageUplink (s : State) : State :=
  if s.mp.cfg.gatewaySet ∧ s.pt.staleCount < 16 then
    let s1 := { s with pt := { s.pt with staleCount := s.pt.staleCount + 1 } }
    if s1.pt.staleCount = 16 then raise .uplinkStale { s1 with pt := { s1.pt with stale := true } } else s1
  else s

/-! ## READ_PEER (R57, Table 12-3) -/

def Figures.words (f : Figures) : List Word := [word f.demand, word f.weight, word f.reserve, word f.uplink]

def PeerEntry.words (e : PeerEntry) : List Word :=
  [word (1 + 2 * bit e.gateway + 4 * bit e.stale + 8 * bit e.purge + 16 * bit e.inView + 256 * e.set.toNat +
      4096 * e.cycle.toNat),
   e.station, word e.epochLength, word (e.silence + 256 * e.limit)] ++ e.figures.up.words ++ e.figures.down.words

/-- R57. -/
def readPeerSlot (s : State) : State :=
  match slotOfArgument s.mp.taken0 with
  | none => endCommand .badArgument s
  | some k =>
    endCommand .done (setWindow (match s.slot k with
      | some e => e.words
      | none => []) s)

/-! ## Meanings -/

/-- COMPOSITION_EDGE (R52, R53): due when the settle count has reached 10. -/
def execCompositionEdge (s : State) : Answer :=
  .next (if s.started ∧ s.pt.settle = 10 then
    takeEdge { s with pt := { s.pt with debounced := s.composition, settle := 0 } }
  else s)

/-- UPLINK_WRITE (R55). -/
def execUplinkWrite (d : Dir) (v : Word) (s : State) : Answer := .next (outOfReset s (writeUplink d v s))

/-- READ_PEER (R57). -/
def execReadPeer (s : State) : Answer := .next (if s.commandRuns 12 then readPeerSlot s else s)

end Sys2Proof.Machine
end

