-- ==== Sys2Proof/Machine/Line.lean ====
section
/-! DEFINITION. The line interface: carrier sense and run length, the receiver, the transmitter, the station's
transitions on the line (chapters 4 and 5). -/

namespace Sys2Proof.Machine

/-- A change of the line interface alone. -/
def State.setLine (s : State) (l : LineInterface) : State := { s with li := l }

/-! ## Bits on the wire (R82) -/

/-- A logical 0 is sent as dominant, a logical 1 as recessive. -/
def bitLevel (one : Bool) : LineLevel := if one then .recessive else .dominant

/-- The ten bit times of a byte: start bit, data bits least significant first, stop bit. -/
def byteLevels (b : Byte) : List LineLevel :=
  .dominant :: (List.range 8).map (fun k => bitLevel (b.getLsbD k)) ++ [.recessive]

/-! ## The line monitor (R82, R83, R91, R93) -/

/-- A dominant bit time. Outside a byte and behind a recessive bit time it is the start bit of a byte. -/
def LineInterface.dominantBit (l : LineInterface) : LineInterface :=
  { l with
    carrierIdle := false, recessive := 0
    busyLength := satAdd 761 l.busyLength 1, runLength := satAdd 4095 l.runLength 1
    byteLeft := if l.byteLeft = 0 then (if l.afterRecessive then 9 else 0) else l.byteLeft - 1
    afterRecessive := false
    restoration := if l.station = .lineFault then 0 else l.restoration }

/-- A recessive bit time. Inside a byte, its stop bit included, it is not counted toward idle. On a line reported idle no
frame has begun with the own attempt: its first bit time has read recessive (R70, R87; log 20). -/
def LineInterface.recessiveBit (l : LineInterface) : LineInterface :=
  { l with
    recessive := if l.byteLeft = 0 then satAdd 16 l.recessive 1 else l.recessive
    busyLength := if l.busyLength = 0 then 0 else satAdd 761 l.busyLength 1
    runLength := 0
    byteLeft := l.byteLeft - 1
    afterRecessive := true
    readback := l.readback && !l.carrierIdle }

def LineInterface.bitTime (l : LineInterface) : LineLevel → LineInterface
  | .dominant => l.dominantBit
  | .recessive => l.recessiveBit

/-- R93: the restoration count has reached E, and the restoration is still to be taken (log 3). -/
def State.restorationDue (s : State) : Bool :=
  s.li.station == Station.lineFault && s.mp.cfg.epoch ≤ s.li.restoration

/-- The bit times that the line has shown. A restoration that is due stays due (log 3). The events of these bit times are
the rows': an idle report, a busy period's end, a stuck line or an overflow that no row takes is passed over (log 31). -/
def State.passLevels (line : List LineLevel) (s : State) : State :=
  let l := line.foldl LineInterface.bitTime s.li
  s.setLine (if s.restorationDue then { l with restoration := s.li.restoration } else l)

/-- R83: the recessive count has reached 16 and the line is still reported busy. -/
def LineInterface.idleDue (l : LineInterface) : Bool := l.recessive == 16 && !l.carrierIdle

/-! ## Receiver (R69, R71) -/

/-- The receiver ends what it is doing: WAIT_IDLE, or READY at once where carrier sense reports idle (R69). -/
def LineInterface.waitIdle (l : LineInterface) : LineInterface :=
  { l with rx := if l.carrierIdle then .ready else .waitIdle, rxBytes := [], rxExpected := 0, readback := false }

/-- The byte level reports a break: a frame in reception is discarded, and READY is left as well (R71). -/
def LineInterface.breakFrame (l : LineInterface) : LineInterface :=
  match l.rx with
  | .ready | .receiving => l.waitIdle
  | .off | .waitIdle => l

/-- The receiver turns OFF and discards a frame in reception (R69). -/
def LineInterface.rxOff (l : LineInterface) : LineInterface := 
  { l with rx := .off, rxBytes := [], rxExpected := 0, readback := false }

/-! ## Transmitter (R84 to R90) -/

/-- One step of the random generator (R85). -/
def stepRandom (r : BitVec 16) : BitVec 16 := if r.getLsbD 0 then (r >>> 1) ^^^ 0xB400 else r >>> 1

/-- The pending notice is discarded: IDLE, attempt count 0 (R84, R90). -/
def LineInterface.discardNotice (l : LineInterface) : LineInterface :=
  { l with tx := .idle, notice := none, attempts := 0, jitterLeft := 0, backoffSlots := 0 }

/-- R89: a notice that finds another pending supersedes it, which raises NOTICE_ABANDONED. -/
def supersede (s : State) : State :=
  match s.li.notice with
  | some _ => raise .noticeAbandoned { s with li := s.li.discardNotice }
  | none => s

/-- R86, R89: a regular notice is handed to the transmitter: a fresh jitter draw, 0 entering DEFER at once. -/
def LineInterface.handRegular (bytes : List Byte) (l : LineInterface) : LineInterface :=
  let r := stepRandom l.random
  let j := r.toNat % 16
  { l with notice := some bytes, attempts := 0, random := r, jitterLeft := j, tx := if j = 0 then .defer else .jitter }

/-- R86, R89: the LEAVING notice enters DEFER at once. -/
def LineInterface.handLeaving (bytes : List Byte) (l : LineInterface) : LineInterface :=
  { l with notice := some bytes, attempts := 0, tx := .defer }

/-- R64: the next cycle number. -/
def nextCycle (s : State) : State := { s with li := { s.li with cycle := s.li.cycle + 1 } }

/-- R64 to R67: a regular notice is built and handed to the transmitter. -/
def sendRegular (s : State) : State :=
  let s1 := nextCycle (supersede s)
  s1.setLine (s1.li.handRegular s1.regularNotice)

/-- R68: the LEAVING notice is built and handed to the transmitter. -/
def sendLeaving (s : State) : State :=
  let s1 := nextCycle (supersede s)
  s1.setLine (s1.li.handLeaving s1.leavingNotice)

/-- R65: the completion of a pass at the line interface. -/
def passCompleted (s : State) : State := if s.li.station = .active then sendRegular s else s

/-- R78: at the end of its LEAVING notice a LEAVING station becomes SILENT. -/
def LineInterface.endLeaving (l : LineInterface) : LineInterface :=
  if l.station = .leaving then { l with station := .silent } else l

/-- The frame an attempt drives: sync byte, body, CRC (R60, R87). -/
def State.drivenFrame (s : State) : Option (List Byte) :=
  if s.li.tx = .sending then s.li.notice.map (fun bytes => 0xD5 :: bytes) else none

/-- The levels an attempt drives on LINE_TX, one a bit time, the bytes back to back (R82, R87). -/
def State.drivenLevels (s : State) : Option (List LineLevel) :=
  s.drivenFrame.map fun bytes => bytes.flatMap byteLevels

/-- R88: attempt k has failed, k being the attempt count. -/
def failAttempt (s : State) : State :=
  if s.li.attempts < 8 then
    let r := stepRandom s.li.random
    let slots := r.toNat % 2 ^ min s.li.attempts 5
    s.setLine { s.li with random := r, backoffSlots := slots, tx := if slots = 0 then .defer else .backoff }
  else raise .noticeAbandoned (s.setLine s.li.discardNotice.endLeaving)

/-! ## ID conflict (R81) -/

def idConflict (s : State) : State :=
  let l := { s.li with conflict := true }
  raise .idConflict (s.setLine
    (match s.li.station with
      | .listening | .active | .leaving => { l.discardNotice with station := .silent }
      | .silent | .unconfigured | .lineFault => l))

/-! ## A frame's bytes (R70, R71, R74) -/

/-- R74: a valid, clamped frame is delivered, as an ID conflict where it carries the own station id. -/
def deliverNotice (n : Notice) (s : State) : State :=
  if n.station = s.mp.cfg.stationId then idConflict s else takeNotice n.clamp s

/-- R71: the second CRC byte. The frame is judged, the receiver waits for idle, and a valid frame is delivered. -/
def judgeReceived (check : Byte) (s : State) : State :=
  let body := s.li.rxBytes.dropLast
  let low := s.li.rxBytes.getLastD 0
  let s1 := s.setLine s.li.waitIdle
  match judgeFrame body (ofBytes low check) with
  | some n => deliverNotice n s1
  | none => s1

/-- The receiver expects the second CRC byte. -/
def LineInterface.expectsCheck (l : LineInterface) : Bool :=
  l.rx == .receiving && !l.rxBytes.isEmpty && l.rxExpected == 1

/-- R70: the frame that a first byte belongs to is the own station's readback, whether the attempt still drives the line or
has stopped (log 20). -/
def LineInterface.ownFrame (l : LineInterface) : Bool := l.readback || l.tx == .sending

/-- R70, R71: a byte at the receiver, before the last of a frame. -/
def LineInterface.takeByte (b : Byte) (l : LineInterface) : LineInterface :=
  match l.rx with
  | .off | .waitIdle => l
  | .ready =>
    if l.ownFrame ∨ b ≠ 0xD5 then l.waitIdle
    else { l with rx := .receiving, rxBytes := [], rxExpected := 1 }
  | .receiving =>
    if l.rxBytes.isEmpty then
      if 6 ≤ b.toNat ∧ b.toNat ≤ 60 then { l with rxBytes := [b], rxExpected := b.toNat + 2 } else l.waitIdle
    else { l with rxBytes := l.rxBytes ++ [b], rxExpected := l.rxExpected - 1 }

/-- A byte that the byte level delivers to the receiver (R82). -/
def receiveByte (b : Byte) (s : State) : State :=
  if s.li.expectsCheck then judgeReceived b s else s.setLine (s.li.takeByte b)

/-- R83, R71: carrier sense reports the line idle; a frame in reception breaks off, and the receiver becomes READY. -/
def LineInterface.reportIdle (l : LineInterface) : LineInterface :=
  let l1 : LineInterface := { l with carrierIdle := true, busyLength := 0 }
  if l.rx = .off then l1 else l1.waitIdle

/-! ## Supervision (R92, R93) -/

/-- R92: the state remembered at entry to LINE_FAULT. -/
def rememberedOf : Station → Station
  | .leaving => .silent
  | st => st

/-- R92: entry to LINE_FAULT. -/
def enterLineFault (s : State) : State :=
  raise .lineFault (s.setLine
    { s.li.rxOff.discardNotice with station := .lineFault, remembered := rememberedOf s.li.station, restoration := 0 })

/-- R93: the station is restored. The restoration count, for which Table 5-2 gives no value here, keeps the value it
reached until the next entry to LINE_FAULT (log 26). -/
def restoreStation (s : State) : State :=
  raise .lineRestored (applyPendingEdge (s.setLine
    { s.li.discardNotice.waitIdle with
      station := s.li.remembered, remembered := .unconfigured, overflow := false, runLength := 0 }))

/-! ## LEAVE and RESUME -/

/-- R78. -/
def leaveTrain (s : State) : State :=
  if s.li.station = .active then endCommand .done (sendLeaving (s.setLine { s.li with station := .leaving }))
  else endCommand .badState s

/-- R79. -/
def resumeStation (s : State) : State :=
  if s.li.station = .silent ∧ s.li.conflict = false then
    endCommand .done (s.setLine { s.li with station := .active })
  else endCommand .badState s

/-! ## Meanings. Before START the part does not look at the line (R76). -/

/-- LEAVE (R78). -/
def execLeave (s : State) : Answer := .next (if s.commandRuns 3 then leaveTrain s else s)

/-- RESUME (R79). -/
def execResume (s : State) : Answer := .next (if s.commandRuns 4 then resumeStation s else s)

/-- LINE_BYTE_RECEIVED (R71, R82). The second CRC byte of a frame is judged in the same instant (log 18). The byte is the
operand's, whatever the levels spell (log 30). -/
def execLineByteReceived (b : Byte) (s : State) (line : List LineLevel := []) : Answer :=
  .next (if s.started then receiveByte b (s.passLevels line) else s)

/-- The second CRC byte, where the receiver expects it. -/
def receiveCheck (check : Byte) (s : State) : State := if s.li.expectsCheck then judgeReceived check s else s

/-- FRAME_RECEIVED (R71), with the operand's byte, whatever the levels spell (log 30). -/
def execFrameReceived (check : Byte) (s : State) (line : List LineLevel := []) : Answer :=
  .next (if s.started then receiveCheck check (s.passLevels line) else s)

/-- CARRIER_IDLE (R83): due when the 16th recessive bit time has passed. -/
def execCarrierIdle (s : State) (line : List LineLevel := []) : Answer :=
  .next (if s.started then
    let s1 := s.passLevels line
    if s1.li.idleDue then s1.setLine s1.li.reportIdle else s1
  else s)

/-- BUSY_PERIOD_START (R83): a dominant bit time where no busy period runs. -/
def execBusyPeriodStart (s : State) (line : List LineLevel := []) : Answer :=
  .next (if s.started then
    let s1 := s.passLevels line
    if s1.li.busyLength = 0 then s1.passLevels [.dominant] else s1
  else s)

/-- BUSY_PERIOD_LIMIT (R83, R71): due when the busy period has reached its 761st bit time. -/
def execBusyPeriodLimit (s : State) (line : List LineLevel := []) : Answer :=
  .next (if s.started then
    let s1 := s.passLevels line
    if s1.li.busyLength = 761 then s1.setLine s1.li.breakFrame else s1
  else s)

/-- FRAMING_ERROR (R82, R71), whatever stop bit the levels show (log 30). -/
def execFramingError (line : List LineLevel) (s : State) : Answer :=
  .next (if s.started then
    let s1 := s.passLevels line
    s1.setLine s1.li.breakFrame
  else s)

/-- JITTER_EXPIRY (R86): due at the j-th tick. -/
def execJitterExpiry (s : State) : Answer :=
  .next (if s.li.tx = .jitter ∧ s.li.jitterLeft = 0 then s.setLine { s.li with tx := .defer } else s)

/-- ATTEMPT_START (R86, R87): in DEFER with the line idle. A frame that begins with the attempt's first bit time is the own
readback (R70; log 20). -/
def execAttemptStart (s : State) (line : List LineLevel := []) : Answer :=
  .next (if s.started then
    let s1 := s.passLevels line
    if s1.li.tx = .defer ∧ s1.li.carrierIdle then
      s1.setLine { s1.li with tx := .sending, attempts := s1.li.attempts + 1, readback := true }
    else s1
  else s)

/-- READBACK_MISMATCH (R87, R88), whatever levels the line shows: the comparison is the row's (log 30). -/
def execReadbackMismatch (s : State) : Answer := .next (if s.li.tx = .sending then failAttempt s else s)

/-- NOTICE_SENT (R87), whatever levels the line shows: the comparison is the row's (log 30). -/
def execNoticeSent (s : State) : Answer :=
  .next (if s.li.tx = .sending then s.setLine s.li.discardNotice.endLeaving else s)

/-- BACKOFF_EXPIRY (R88). -/
def execBackoffExpiry (s : State) : Answer :=
  .next (if s.li.tx = .backoff then s.setLine { s.li with tx := .defer, backoffSlots := 0 } else s)

/-- STUCK_LINE (R92): due when the run has reached 2,000; in LINE_FAULT it has no further effect. -/
def execStuckLine (s : State) (line : List LineLevel := []) : Answer :=
  .next (if s.started then
    let s1 := s.passLevels line
    if 2000 ≤ s1.li.runLength ∧ s1.li.station ≠ .lineFault then enterLineFault s1 else s1
  else s)

/-- RUN_LENGTH_OVERFLOW (R91): due when the run has reached 4,095, in every station state. -/
def execRunLengthOverflow (s : State) (line : List LineLevel := []) : Answer :=
  .next (if s.started then
    let s1 := s.passLevels line
    if s1.li.runLength = 4095 then s1.setLine { s1.li with overflow := true } else s1
  else s)

/-- LINE_RESTORATION (R93). -/
def execLineRestoration (s : State) : Answer := .next (if s.restorationDue then restoreStation s else s)

end Sys2Proof.Machine
end

