-- ==== Sys2Proof/Machine/Pass.lean ====
section
/-! DEFINITION. The publish of a direction and the completion of a pass (R29 to R31). -/

namespace Sys2Proof.Machine

/-- R31: own values stored, NO_PASS, the snapshot discarded, the cycle ended, SHARE_PUBLISHED raised, and the line
interface told. -/
def completePass (n : Snapshot) (s : State) : State :=
  let s1 := storeOwn .down n (storeOwn .up n s)
  let s2 := { s1 with se := { s1.se with pass := .noPass, snapshot := none } }
  passCompleted (raise .sharePublished (endCycle s2))

/-- R26, R29: the publish of the direction being computed. -/
def publishPass (n : Snapshot) (s : State) : State :=
  match s.se.pass with
  | .noPass => s
  | .passUp =>
    let s1 := publishDir .up n s
    { s1 with se := { s1.se with pass := .passDown } }
  | .passDown => completePass n (publishDir .down n s)

/-- PUBLISH (R29), while a pass is running. -/
def execPublish (s : State) : Answer :=
  .next (match s.se.snapshot with
    | some n => publishPass n s
    | none => s)

end Sys2Proof.Machine
end

