-- ==== Sys2Proof/Machine/Time.lean ====
section
/-! DEFINITION. The time base's events, and the events that set the whole part: START, RESTART, SYNC_EPOCH and device
reset (chapter 1, sections 12.3, 12.4 and 12.7). -/

namespace Sys2Proof.Machine

def State.setTb (s : State) (t : TimeBase) : State := { s with tb := t }

/-! ## Millisecond tick (R1, R2, R4, R6, R52, R86, R93) -/

/-- An event of this very tick is still to be taken: an expiry, a COMPOSITION edge, the end of a jitter delay, or a
restoration (log 3). -/
def State.tickDue (s : State) : Bool :=
  s.tb.epochTimer == 0 || s.pt.settle == 10 || (s.li.tx == TxState.jitter && s.li.jitterLeft == 0) ||
    s.restorationDue

/-- The time base at a tick. -/
def TimeBase.tick (t : TimeBase) : TimeBase :=
  { t with
    prescaler := 0, stamp := t.stamp + 1, epochTimer := t.epochTimer - 1
    windowLength := satAdd 65535 t.windowLength 1 }

/-- R52: the debounce at a tick that finds this input level. -/
def PeerTable.debounce (level : Bool) (p : PeerTable) : PeerTable :=
  { p with settle := if level == p.debounced then 0 else p.settle + 1 }

/-- The line interface at a tick: the jitter delay (R86) and the restoration count (R93). -/
def LineInterface.tick (l : LineInterface) : LineInterface :=
  { l with
    jitterLeft := if l.tx = .jitter then l.jitterLeft - 1 else l.jitterLeft
    restoration := if l.station = .lineFault then l.restoration + 1 else l.restoration }

/-- MILLISECOND_TICK (R1). In UNCONFIGURED there are no ticks, and a tick does not come before the events of the last
one have been taken. -/
def execMillisecondTick (composition : Bool) (line : List LineLevel) (s : State) : Answer :=
  .next (if s.started = true ∧ s.tickDue = false then
    { s with
      tb := s.tb.tick, pt := s.pt.debounce composition, li := (s.passLevels line).li.tick, composition := composition }
  else s)

/-! ## Epoch expiry (R4 to R8) -/

/-- R4, R5: the timer is reloaded and the epoch number increases. -/
def countExpiry (s : State) : State :=
  s.setTb { s.tb with epochTimer := s.mp.cfg.epoch, epoch := s.tb.epoch + 1 }

/-- R6, R7: with the cycle busy marker clear the expiry flips the windows; set, it is absorbed. -/
def flipOrAbsorb (s : State) : State :=
  if s.tb.cycleBusy then s
  else flipWindows s.tb.windowLength (s.setTb { s.tb with cycleBusy := true, windowLength := 0 })

/-- R48, R54: outside LINE_FAULT the peer table ages. -/
def ageTable (s : State) : State := if s.li.station = .lineFault then s else agePeers allSlots s

/-- R77. -/
def LineInterface.countExpiry (l : LineInterface) : LineInterface :=
  if l.station = .listening then
    (if l.expiryCount = 0 then { l with expiryCount := 1 } else { l with station := .active, expiryCount := 0 })
  else l

/-- The expiry at the time base, the client table, the peer table, the uplink input and the line interface (R7). -/
def takeExpiry (s : State) : State :=
  let s1 := ageUplink (ageTable (flipOrAbsorb (countExpiry s)))
  s1.setLine s1.li.countExpiry

/-- EPOCH_EXPIRY (R7): due when a tick has brought the timer to 0. -/
def execEpochExpiry (s : State) : Answer :=
  .next (if s.started ∧ s.tb.epochTimer = 0 then takeExpiry s else s)

/-! ## SYNC_EPOCH (R9) and RESTART (R80) -/

def syncEpoch (s : State) : State :=
  if s.li.station = .active ∨ s.li.station = .silent ∨ s.li.station = .listening then
    endCommand .done (s.setTb { s.tb with epochTimer := s.mp.cfg.epoch })
  else endCommand .badState s

/-- SYNC_EPOCH (R9). -/
def execSyncEpoch (s : State) : Answer := .next (if s.commandRuns 5 then syncEpoch s else s)

/-- R80 at the line interface. -/
def LineInterface.restart (l : LineInterface) : LineInterface :=
  let l1 : LineInterface := { l.discardNotice with expiryCount := 0, conflict := false }
  if l.station = .lineFault then { l1 with remembered := .listening } else { l1 with station := .listening }

/-- R10, R8: the timer reloaded; a running pass, and with it the cycle, ended. -/
def restartTime (s : State) : State :=
  s.setTb { s.tb with
    epochTimer := s.mp.cfg.epoch, cycleBusy := if s.se.pass = .noPass then s.tb.cycleBusy else false }

def ClientDir.zeroGrant (x : ClientDir) : ClientDir := { x with grant := 0 }

/-- R118: every grant 0. -/
def ClientEntry.zeroGrants (e : ClientEntry) : ClientEntry := { e with dirs := e.dirs.map ClientDir.zeroGrant }

/-- R39, R118: the share engine's RESTART values, every client's grants among them. -/
def restartShares (s : State) : State :=
  { s with
    se := ShareEngine.reset
    ct := { s.ct with entries := mapEntries ClientEntry.zeroGrants s.ct.entries } }

/-- RESTART at every block it acts on. -/
def restartPart (s : State) : State :=
  let s1 := emptyPeers (restartShares (restartTime s))
  s1.setLine s1.li.restart

/-- RESTART (R80). -/
def execRestart (s : State) : Answer :=
  .next (if s.commandRuns 2 then
    (if s.started then endCommand .done (restartPart s) else endCommand .badState s)
  else s)

/-! ## START (R186, R187) -/

def inRange (low high : Nat) (w : Word) : Bool := low ≤ w.toNat && w.toNat ≤ high

/-- Check 15: the capacities of groups 0 to group_count − 1. -/
def ConfigWords.capacitiesValid (c : ConfigWords) : Bool :=
  allGroups.all fun g =>
    !c.groupExists g || (c.groupCapacity .up g ≤ 16383 && c.groupCapacity .down g ≤ 16383)

/-- The checks of Table 12-2 in the order of their numbers. -/
def ConfigWords.checks (c : ConfigWords) : List (Nat × Bool) :=
  [(1, inRange 1 65534 c.stationId), (2, inRange 0 15 c.setId), (3, inRange 0 1 c.scope), (4, inRange 0 1 c.gateway),
   (5, inRange 50 1000 c.epochLength && c.epochLength.toNat % 10 == 0), (6, inRange 2 8 c.peerTimeout),
   (7, inRange 1 255 c.idleLimit), (8, inRange 10 500 c.burstMs), (9, inRange 1 1023 c.joinRate),
   (10, inRange 1 1023 c.cappedRate), (11, inRange 1 15 c.standardWeight), (12, inRange 1 15 c.premiumWeight),
   (13, true), (14, inRange 1 8 c.groupCount), (15, c.capacitiesValid),
   (16, c.logBase.toNat ≤ c.logLimit.toNat),
   (17, inRange 1 16 c.setup && inRange 1 64 c.strobe && inRange 1 16 c.hold && inRange 0 15 c.turnaround &&
      inRange 0 1 c.waitEnable && inRange 0 63 c.waitLimit),
   (18, inRange 0 3 c.recordEnables)]

/-- The number of the first check that fails (R186). -/
def ConfigWords.firstInvalid (c : ConfigWords) : Option Nat := (c.checks.find? fun p => !p.2).map Prod.fst

/-- R3. -/
def TimeBase.start (epoch : Nat) (t : TimeBase) : TimeBase :=
  { t with prescaler := 0, epochTimer := epoch, epoch := 0, windowLength := 0, cycleBusy := false }

/-- R76, R75: LISTENING, the generator loaded, the line monitor started with the line reported busy, the receiver on. -/
def LineInterface.start (stationId : Word) (l : LineInterface) : LineInterface :=
  { l.discardNotice with
    station := .listening, remembered := .unconfigured, expiryCount := 0, conflict := false, random := stationId
    rx := .waitIdle, rxBytes := [], rxExpected := 0, readback := false, byteLeft := 0, afterRecessive := false, carrierIdle := false
    recessive := 0, busyLength := 0, runLength := 0, overflow := false, restoration := 0 }

/-- R52, R58. -/
def PeerTable.start (level : Bool) (p : PeerTable) : PeerTable :=
  { p with debounced := level, settle := 0, staleCount := 0, stale := false }

/-- R172. -/
def LogWriter.start (c : ConfigWords) (l : LogWriter) : LogWriter :=
  { l with index := c.base, threshold := c.limit, lost := 0 }

/-- R137: no request queued. A NOT_READY made before START is still the answer of its request (R121; log 27). -/
def MeterEngine.start (m : MeterEngine) : MeterEngine := { m with queue := [] }

/-- A START that passes every check (R187). -/
def startPart (composition : Bool) (s : State) : State :=
  { s with
    tb := s.tb.start s.mp.cfg.epoch, li := s.li.start s.mp.cfg.stationId, pt := s.pt.start composition
    me := s.me.start, lw := s.lw.start s.mp.cfg, composition := composition }

/-- START is taken (R186, R187). -/
def takeStart (composition : Bool) (s : State) : State :=
  if s.started then endCommand .badState s
  else match s.mp.cfg.firstInvalid with
    | some n =>
      let s1 := endCommand .configInvalid s
      { s1 with mp := { s1.mp with check := n } }
    | none => endCommand .done (startPart composition s)

/-- START (R187). -/
def execStart (composition : Bool) (s : State) : Answer :=
  .next (if s.commandRuns 1 then takeStart composition s else s)

/-! ## Device reset (R193) -/

/-- R182: a write whose strobe was active may or may not have placed its word: a free value (log 9). -/
def cutMemory (s : State) : Memory :=
  match s.mc.phase, s.busAccess with
  | .strobe, some (.write, a, v) => if Config.cutWriteLands s.freeDraws then s.mem.write a v else s.mem
  | _, _ => s.mem

/-- The serial port at device reset: no transaction counts, and the select input is as the host holds it (R193). -/
def SerialPort.cut (p : SerialPort) : SerialPort := { SerialPort.reset with selected := p.selected }

/-- DEVICE_RESET (R193): every block in its reset state; RESET_N is low afterwards where it is still held. Record memory,
the COMPOSITION and select inputs, the commands that wait and the model's counter of free values lie outside the blocks. -/
def execDeviceReset (s : State) (held : Bool := false) : Answer :=
  .next { State.reset with
    mp := { MaintPort.reset with serial := s.mp.serial.cut }
    mem := cutMemory s, composition := s.composition, resetLow := held, freeDraws := s.freeDraws + 1, pending := s.pending }

end Sys2Proof.Machine
end

