-- ==== Sys2Proof/Machine/Window.lean ====
section
/-! DEFINITION. The maintenance window's words (section 11.4). -/

namespace Sys2Proof.Machine

/-- R178, R181: the window address is set from the holding, TIMEOUT cleared, and a read request placed. -/
def writeMemAddrLow (v : Word) (s : State) : State :=
  if !s.started then refuseWrite .notStarted 0x11 s
  else
    let a : BitVec 20 := s.mc.addressHolding ++ v
    placeWindowRequest (.read a) { s with mc := { s.mc with address := a, timeout := false } }

/-- R178, R181. -/
def writeMemAddrHigh (v : Word) (s : State) : State :=
  if !s.started then refuseWrite .notStarted 0x12 s
  else { s with mc := { s.mc with addressHolding := v.extractLsb' 0 4 } }

/-- R180, R181: a write request at the window address in force, which then advances. -/
def writeMemData (v : Word) (s : State) : State :=
  if !s.started then refuseWrite .notStarted 0x13 s
  else
    placeWindowRequest (.write s.mc.address v) { s with mc := { s.mc with address := s.mc.address + 1 } }

/-- R179: what a read of MEM_DATA does beside giving the data word: with READY set (and the station started, R181) it
starts the fetch of the next word. -/
def fetchNext (s : State) : State :=
  if s.started && s.mc.ready then
    placeWindowRequest (.read (s.mc.address + 1)) { s with mc := { s.mc with address := s.mc.address + 1 } }
  else s

/-- MEM_ADDR_LOW_WRITE (R178). -/
def execMemAddrLowWrite (v : Word) (s : State) : Answer := .next (outOfReset s (writeMemAddrLow v s))

/-- MEM_DATA_READ (R179). -/
def execMemDataRead (s : State) : Answer := .next (outOfReset s (fetchNext (setDataOut s.mc.data s)))

/-- MEM_DATA_WRITE (R180). -/
def execMemDataWrite (v : Word) (s : State) : Answer := .next (outOfReset s (writeMemData v s))

end Sys2Proof.Machine
end

