-- ==== Sys2Proof/WellFormed.lean ====
section
/-! DEFINITION. The checks on a command's operands that its type does not make. -/

namespace Sys2Proof

/-- The command codes of Table 12-5. -/
def commandCodeListed (code : Word) : Bool := 1 ≤ code.toNat && code.toNat ≤ 12

/-- The addresses of the configuration words (Table 12-2). -/
def isConfigAddress (address : BitVec 7) : Bool := 0x40 ≤ address.toNat && address.toNat ≤ 0x66

/-- The addresses, other than configuration, whose writes have a row of their own: uplink UP and DOWN, command code,
interrupt flags and enables, refused-write status, log index low, threshold low, lost count, MEM_ADDR low, MEM_DATA,
watch status, and each watch's mode and count low words (Table 12-1). -/
def ownRowAddresses : List (BitVec 7) :=
  [0x03, 0x04, 0x05, 0x09, 0x0A, 0x0B, 0x0C, 0x0E, 0x10, 0x11, 0x13, 0x17,
   0x18, 0x1A, 0x1E, 0x20, 0x24, 0x26, 0x2A, 0x2C]

/-- The last level the line has shown. -/
def endsWith (line : List LineLevel) (level : LineLevel) : Bool := line.getLast? == some level

/-- A command is well-formed when it names what its row is about: an unlisted code (R188), a configuration word (R185), a
word without a row of its own (R184), a wait count within its range (R175), levels that end with the bit time of its
event (R82, R83, R91), a record in progress short of its sixth byte (R119). Every other command has no check. -/
def Instr.wellFormed : Instr → Bool
  | .unknownCommand code => !commandCodeListed code
  | .configWrite address _ => isConfigAddress address
  | .registerWrite address _ => !isConfigAddress address && !ownRowAddresses.contains address
  | .strobeEnd waited => waited ≤ 1024
  | .frameReceived _ line | .carrierIdle line | .lineByteReceived _ line => endsWith line .recessive
  | .framingError line | .stuckLine line | .runLengthOverflow line => endsWith line .dominant
  | .busyPeriodLimit line => !line.isEmpty
  | .recordStartStrobe _ more => more.length ≤ 4
  | .deviceReset _ | .millisecondTick _ _ | .epochExpiry | .start _ | .restart | .leave | .resume | .syncEpoch
  | .block | .unblock | .setTier | .setAllowance | .evict | .readClient | .readPeer
  | .closureStep | .publish | .compositionEdge | .uplinkWrite _ _ | .jitterExpiry | .attemptStart _ | .readbackMismatch | .noticeSent
  | .backoffExpiry | .lineRestoration | .refusalSent | .meter | .attach | .move | .detach | .unknownRequest | .watchModeWrite _ _
  | .watchCountLowWrite _ _ | .watchCountLowRead _ | .watchStatusWrite _ | .logIndexLowWrite _
  | .logIndexLowRead | .thresholdLowWrite _ | .thresholdLowRead | .lostCountWrite _ | .memAddrLowWrite _
  | .memDataRead | .memDataWrite _ | .turnaroundEnd | .setupEnd | .waitTimeout | .accessEnd
  | .interruptFlagsWrite _ | .interruptEnablesWrite _ | .refusedStatusWrite _ | .commandCodeWrite _
  | .busyPeriodStart _ | .requestPresented _ _ _ _ => true

end Sys2Proof
end

