-- ==== Sys2Proof/Machine/Port.lean ====
section
/-! DEFINITION. The maintenance port: word map, configuration words, command channel, interrupt words, transactions
(chapter 12). -/

namespace Sys2Proof.Machine

/-! ## Configuration words (Table 12-2) -/

/-- The word at an offset from 0x40; 0 where the table assigns none. -/
def ConfigWords.word (c : ConfigWords) (offset : Nat) : Word :=
  if 0x0E ≤ offset ∧ offset < 0x1E then
    let cap := if (offset - 0x0E) % 2 = 0 then c.capacity.up else c.capacity.down
    cap.toList.getD ((offset - 0x0E) / 2) 0
  else match offset with
    | 0x00 => c.stationId | 0x01 => c.setId | 0x02 => c.scope | 0x03 => c.gateway
    | 0x04 => c.epochLength | 0x05 => c.peerTimeout | 0x06 => c.idleLimit | 0x07 => c.burstMs
    | 0x08 => c.joinRate | 0x09 => c.cappedRate | 0x0A => c.standardWeight | 0x0B => c.premiumWeight
    | 0x0C => c.defaultAllowance | 0x0D => c.groupCount
    | 0x1E => c.logBase | 0x1F => c.logLimit
    | 0x20 => c.setup | 0x21 => c.strobe | 0x22 => c.hold | 0x23 => c.turnaround
    | 0x24 => c.waitEnable | 0x25 => c.waitLimit | 0x26 => c.recordEnables
    | _ => 0

/-- A value stored as written, in full (section 12.3). -/
def ConfigWords.setWord (c : ConfigWords) (offset : Nat) (v : Word) : ConfigWords :=
  if 0x0E ≤ offset ∧ offset < 0x1E then
    let g := (offset - 0x0E) / 2
    if (offset - 0x0E) % 2 = 0 then { c with capacity := { c.capacity with up := c.capacity.up.setIfInBounds g v } }
    else { c with capacity := { c.capacity with down := c.capacity.down.setIfInBounds g v } }
  else match offset with
    | 0x00 => { c with stationId := v } | 0x01 => { c with setId := v } | 0x02 => { c with scope := v }
    | 0x03 => { c with gateway := v } | 0x04 => { c with epochLength := v } | 0x05 => { c with peerTimeout := v }
    | 0x06 => { c with idleLimit := v } | 0x07 => { c with burstMs := v } | 0x08 => { c with joinRate := v }
    | 0x09 => { c with cappedRate := v } | 0x0A => { c with standardWeight := v }
    | 0x0B => { c with premiumWeight := v } | 0x0C => { c with defaultAllowance := v }
    | 0x0D => { c with groupCount := v } | 0x1E => { c with logBase := v } | 0x1F => { c with logLimit := v }
    | 0x20 => { c with setup := v } | 0x21 => { c with strobe := v } | 0x22 => { c with hold := v }
    | 0x23 => { c with turnaround := v } | 0x24 => { c with waitEnable := v } | 0x25 => { c with waitLimit := v }
    | 0x26 => { c with recordEnables := v }
    | _ => c

def State.setMp (s : State) (m : MaintPort) : State := { s with mp := m }

/-- R185. -/
def writeConfig (address : BitVec 7) (v : Word) (s : State) : State :=
  if s.started then refuseWrite .locked address s
  else s.setMp { s.mp with cfg := s.mp.cfg.setWord (address.toNat - 0x40) v }

/-! ## Command channel (R188) -/

/-- Steps 1 and 2 of R188: an accepted write of the command code. -/
def acceptCommand (code : Word) (s : State) : State :=
  s.setMp { s.mp with
    code := code, running := true, busy := false, outcome := .none, check := 0
    started := if commandCodeListed code then code.toNat else 0
    taken0 := s.mp.arg0, taken1 := s.mp.arg1 }

/-- R188: a write of the command code. Refused while a command runs: the busy marker is set and the word keeps its
value (log 13). An unlisted code ends at once with BAD_ARGUMENT (log 12). -/
def writeCommandCode (code : Word) (s : State) : State :=
  if s.mp.running then s.setMp { s.mp with busy := true }
  else if commandCodeListed code then acceptCommand code s
  else endCommand .badArgument (acceptCommand code s)

/-! ## Reads of the word map (Table 12-1) -/

/-- Station state word (R94). -/
def State.stationWord (s : State) : Word :=
  let l := s.li
  word (l.station.code + 8 * l.remembered.code + 64 * bit l.conflict + 128 * l.expiryCount + 512 * l.tx.code +
    4096 * l.attempts)

/-- Line monitor word (R94). -/
def State.monitorWord (s : State) : Word := word (s.li.runLength + 4096 * bit s.li.overflow)

/-- Command status word (R188). -/
def State.statusWord (s : State) : Word :=
  let m := s.mp
  word (bit m.running + 2 * bit m.busy + 4 * m.outcome.code + 64 * m.check + 4096 * m.started)

/-- Refused-write status word (R184). -/
def State.refusedWord (s : State) : Word :=
  match s.mp.refused with
  | some (cause, address) => word (32768 + 256 * cause.code + address.toNat)
  | none => 0

/-- A word of a watch, by its place among the six (Table 12-1). -/
def Watch.word (w : Watch) (place : Nat) : Word :=
  match place with
  | 0 => w.mode
  | 1 => Machine.word (w.scopeIndex.toNat + 32768 * bit w.scopeAll)
  | 2 => w.count.extractLsb' 0 16
  | 3 => w.latch
  | 4 => w.reload.extractLsb' 0 16
  | _ => w.reload.extractLsb' 16 16

/-- The watch whose words stand at this offset from 0x18. -/
def watchOfOffset (offset : Nat) : Fin Config.watchCount := Fin.ofNat 4 (offset / 6)

/-- The value of the word at an address, at the instant it is read; 0 where the map assigns none (R184). -/
def State.readWord (s : State) (address : BitVec 7) : Word :=
  let a := address.toNat
  if 0x40 ≤ a then (if isConfigAddress address then s.mp.cfg.word (a - 0x40) else 0)
  else if 0x30 ≤ a then s.mp.window.toList.getD (a - 0x30) 0
  else if 0x18 ≤ a then (s.watch (watchOfOffset (a - 0x18))).word ((a - 0x18) % 6)
  else match a with
    | 0x00 => 0x2430
    | 0x01 => s.stationWord
    | 0x02 => s.monitorWord
    | 0x03 => word s.pt.heldUplink.up
    | 0x04 => word s.pt.heldUplink.down
    | 0x05 => s.mp.code
    | 0x06 => s.mp.arg0
    | 0x07 => s.mp.arg1
    | 0x08 => s.statusWord
    | 0x09 => s.mp.flags
    | 0x0A => s.mp.enables
    | 0x0B => s.refusedWord
    | 0x0C => part s.lw.index 0
    | 0x0D => s.lw.indexLatch.setWidth 16
    | 0x0E => part s.lw.threshold 0
    | 0x0F => s.lw.thresholdLatch.setWidth 16
    | 0x10 => word s.lw.lost
    | 0x11 => s.mc.address.extractLsb' 0 16
    | 0x12 => (s.mc.address.extractLsb' 16 4).setWidth 16
    | 0x13 => s.mc.data
    | 0x14 => word (bit s.mc.ready + 2 * bit s.mc.timeout)
    | 0x17 => s.watchStatus
    | _ => 0

/-- R183: a read is taken: the word is given for shifting out, and the read does what a read of that word does. -/
def takeRead (address : BitVec 7) (s : State) : State :=
  let s1 := setDataOut (s.readWord address) s
  if address = 0x0C then latchIndex s1
  else if address = 0x0E then latchThreshold s1
  else if address = 0x13 then fetchNext s1
  else if address = 0x1A then latchWatchCount 0 s1
  else if address = 0x20 then latchWatchCount 1 s1
  else if address = 0x26 then latchWatchCount 2 s1
  else if address = 0x2C then latchWatchCount 3 s1
  else s1

/-! ## Writes of the word map -/

/-- A write of one of a watch's six words. -/
def writeWatchWord (k : Fin Config.watchCount) (place : Nat) (v : Word) (s : State) : State :=
  match place with
  | 0 => writeWatchMode k v s
  | 1 => writeWatchScope k v s
  | 2 => writeWatchCountLow k v s
  | 3 => writeWatchCountHigh k v s
  | 4 => writeWatchReloadLow k v s
  | _ => writeWatchReloadHigh k v s

def writeEnables (v : Word) (s : State) : State := s.setMp { s.mp with enables := v }

/-- R184: any value clears marker, cause and address. -/
def clearRefused (s : State) : State := s.setMp { s.mp with refused := none }

/-- A write of a value to the word at an address, as its owning block takes it (Table 12-1, R184). -/
def writeWord (address : BitVec 7) (v : Word) (s : State) : State :=
  let a := address.toNat
  if 0x40 ≤ a then (if isConfigAddress address then writeConfig address v s else refuseWrite .readOnly address s)
  else if 0x30 ≤ a then refuseWrite .readOnly address s
  else if 0x18 ≤ a then writeWatchWord (watchOfOffset (a - 0x18)) ((a - 0x18) % 6) v s
  else match a with
    | 0x03 => writeUplink .up v s
    | 0x04 => writeUplink .down v s
    | 0x05 => writeCommandCode v s
    | 0x06 => s.setMp { s.mp with arg0 := v }
    | 0x07 => s.setMp { s.mp with arg1 := v }
    | 0x09 => clearFlags v s
    | 0x0A => writeEnables v s
    | 0x0B => clearRefused s
    | 0x0C => writeLogIndexLow v s
    | 0x0D => { s with lw := { s.lw with indexHolding := v.extractLsb' 0 5 } }
    | 0x0E => writeThresholdLow v s
    | 0x0F => { s with lw := { s.lw with thresholdHolding := v.extractLsb' 0 5 } }
    | 0x10 => zeroLostCount s
    | 0x11 => writeMemAddrLow v s
    | 0x12 => writeMemAddrHigh v s
    | 0x13 => writeMemData v s
    | 0x17 => writeWatchStatus v s
    | _ => refuseWrite .readOnly address s

/-! ## Transactions (R183) -/

/-- The summary byte: IRQ pending, command running, station state. -/
def State.summaryByte (s : State) : Byte :=
  BitVec.ofNat 8 (128 * bit s.irqLow + 64 * bit s.mp.running + s.li.station.code)

def State.setSerial (s : State) (p : SerialPort) : State := { s with mp := { s.mp with serial := p } }

/-- Select goes active: a transaction begins, with nothing to shift out yet. While RESET_N is held low none begins, and one
that device reset has cut off goes on no more until select has been inactive and active again (R193). -/
def beginTransaction (s : State) : State :=
  if s.mp.serial.selected then s
  else if s.resetLow then s.setSerial { s.mp.serial with selected := true }
  else s.setMp { s.mp with serial := { SerialPort.reset with selected := true, active := true }, dataOut := 0 }

/-- A bit is taken at a rising edge, most significant first. -/
def SerialPort.shift (b : Bool) (p : SerialPort) : SerialPort :=
  { p with edges := p.edges + 1, bits := (p.bits <<< 1) ||| BitVec.ofNat 32 (bit b) }

/-- A rising clock edge with this data input: the summary is captured at the 8th, and a read is taken at the 16th. -/
def clockEdge (b : Bool) (s : State) : State :=
  if s.mp.serial.active then
    let p := s.mp.serial.shift b
    let s1 := s.setSerial p
    if p.edges = 8 then s1.setSerial { p with summary := s1.summaryByte }
    else if p.edges = 16 ∧ p.bits.getLsbD 15 then takeRead (p.bits.extractLsb' 8 7) s1
    else s1
  else s

/-- The four bytes of the part in a transaction, as far as they are known: 0, the summary, and the word of a read, which is 0
in a write. -/
def MaintPort.outputBytes (m : MaintPort) : BitVec 32 := (0 : Byte) ++ m.serial.summary ++ m.dataOut

/-- A falling clock edge: the data output changes to the next bit, most significant first. Behind the 32nd it is a free value
(log 33). -/
def clockFall (s : State) : State :=
  let p := s.mp.serial
  if p.active then
    if p.edges < 32 then s.setSerial { p with output := s.mp.outputBytes.getMsbD p.edges }
    else { s.setSerial { p with output := Config.bitPastTheWord s.freeDraws } with freeDraws := s.freeDraws + 1 }
  else s

/-- A clock pulse with this data input; the clock idles low. -/
def clockPulse (b : Bool) (s : State) : State := clockFall (clockEdge b s)

/-- Select goes inactive: a write is taken, after exactly 32 edges, and what has not been shifted out is lost. -/
def endTransaction (s : State) : State :=
  let p := s.mp.serial
  if p.active then
    let s1 := s.setMp { s.mp with serial := { p with selected := false, active := false, output := false }, dataOut := 0 }
    if p.edges = 32 ∧ p.bits.getLsbD 31 = false then writeWord (p.bits.extractLsb' 24 7) (p.bits.extractLsb' 0 16) s1 else s1
  else s.setSerial { p with selected := false }

/-- A whole transaction with these bits on the data input, one a clock pulse. -/
def State.transact (bits : List Bool) (s : State) : State :=
  endTransaction (bits.foldl (fun s b => clockPulse b s) (beginTransaction s))

/-- The level on the data output MDO; none is high impedance, while the select input is inactive (section 12.9). While RESET_N is
held low it is 0 (R193). -/
def State.dataOutput (s : State) : Option Bool :=
  if s.mp.serial.selected then some (!s.resetLow && s.mp.serial.output) else none

/-- The data output as the host samples it, at the rising edge of each clock pulse. -/
def State.sampled (s : State) : List Bool → List (Option Bool)
  | [] => []
  | b :: rest => s.dataOutput :: (clockPulse b s).sampled rest

/-- What the host receives in a transaction with these bits on the data input: one bit a rising edge, and no more (R183). -/
def State.shiftedOut (bits : List Bool) (s : State) : List (Option Bool) := (beginTransaction s).sampled bits

/-! ## Meanings -/

/-- COMMAND_CODE_WRITE (R188). -/
def execCommandCodeWrite (v : Word) (s : State) : Answer := .next (outOfReset s (writeCommandCode v s))

/-- UNKNOWN_COMMAND (R188): the write of a code that Table 12-5 does not list, which ends at once (log 12). -/
def execUnknownCommand (code : Word) (s : State) : Answer :=
  .next (outOfReset s (if commandCodeListed code then s else writeCommandCode code s))

/-- CONFIG_WRITE (R185). -/
def execConfigWrite (address : BitVec 7) (v : Word) (s : State) : Answer :=
  .next (outOfReset s (if isConfigAddress address then writeConfig address v s else s))

/-- INTERRUPT_FLAGS_WRITE (R191). -/
def execInterruptFlagsWrite (v : Word) (s : State) : Answer := .next (outOfReset s (clearFlags v s))

/-- INTERRUPT_ENABLES_WRITE (R192). -/
def execInterruptEnablesWrite (v : Word) (s : State) : Answer := .next (outOfReset s (writeEnables v s))

/-- REFUSED_STATUS_WRITE (R184): any value. -/
def execRefusedStatusWrite (_v : Word) (s : State) : Answer := .next (outOfReset s (clearRefused s))

/-- REGISTER_WRITE (R184): a word without a row of its own; a word that has one is written as its row writes it. -/
def execRegisterWrite (address : BitVec 7) (v : Word) (s : State) : Answer :=
  .next (outOfReset s (writeWord address v s))

end Sys2Proof.Machine
end

