-- ==== Sys2Proof/Machine/Dispatch.lean ====
section
/-! DEFINITION. One arm per command: each a direct call of its meaning. -/

namespace Sys2Proof.Machine

/-- A command's effect on everything but the queue. -/
def exec (i : Instr) (s : State) : Host.Outcome State Fault Refusal :=
  match i with
  | .deviceReset held => Sys2Proof.Machine.execDeviceReset s held
  | .millisecondTick composition line => Sys2Proof.Machine.execMillisecondTick composition line s
  | .epochExpiry => Sys2Proof.Machine.execEpochExpiry s
  | .start composition => Sys2Proof.Machine.execStart composition s
  | .restart => Sys2Proof.Machine.execRestart s
  | .leave => Sys2Proof.Machine.execLeave s
  | .resume => Sys2Proof.Machine.execResume s
  | .syncEpoch => Sys2Proof.Machine.execSyncEpoch s
  | .block => Sys2Proof.Machine.execBlock s
  | .unblock => Sys2Proof.Machine.execUnblock s
  | .setTier => Sys2Proof.Machine.execSetTier s
  | .setAllowance => Sys2Proof.Machine.execSetAllowance s
  | .evict => Sys2Proof.Machine.execEvict s
  | .readClient => Sys2Proof.Machine.execReadClient s
  | .readPeer => Sys2Proof.Machine.execReadPeer s
  | .unknownCommand code => Sys2Proof.Machine.execUnknownCommand code s
  | .closureStep => Sys2Proof.Machine.execClosureStep s
  | .publish => Sys2Proof.Machine.execPublish s
  | .compositionEdge => Sys2Proof.Machine.execCompositionEdge s
  | .uplinkWrite dir value => Sys2Proof.Machine.execUplinkWrite dir value s
  | .frameReceived check line => Sys2Proof.Machine.execFrameReceived check s line
  | .carrierIdle line => Sys2Proof.Machine.execCarrierIdle s line
  | .busyPeriodLimit line => Sys2Proof.Machine.execBusyPeriodLimit s line
  | .framingError line => Sys2Proof.Machine.execFramingError line s
  | .jitterExpiry => Sys2Proof.Machine.execJitterExpiry s
  | .attemptStart line => Sys2Proof.Machine.execAttemptStart s line
  | .readbackMismatch => Sys2Proof.Machine.execReadbackMismatch s
  | .noticeSent => Sys2Proof.Machine.execNoticeSent s
  | .backoffExpiry => Sys2Proof.Machine.execBackoffExpiry s
  | .stuckLine line => Sys2Proof.Machine.execStuckLine s line
  | .runLengthOverflow line => Sys2Proof.Machine.execRunLengthOverflow s line
  | .lineRestoration => Sys2Proof.Machine.execLineRestoration s
  | .requestPresented tag code client argument => Sys2Proof.Machine.execRequestPresented tag code client argument s
  | .refusalSent => Sys2Proof.Machine.execRefusalSent s
  | .meter => Sys2Proof.Machine.execMeter s
  | .attach => Sys2Proof.Machine.execAttach s
  | .move => Sys2Proof.Machine.execMove s
  | .detach => Sys2Proof.Machine.execDetach s
  | .unknownRequest => Sys2Proof.Machine.execUnknownRequest s
  | .watchModeWrite watch value => Sys2Proof.Machine.execWatchModeWrite watch value s
  | .watchCountLowWrite watch value => Sys2Proof.Machine.execWatchCountLowWrite watch value s
  | .watchCountLowRead watch => Sys2Proof.Machine.execWatchCountLowRead watch s
  | .watchStatusWrite value => Sys2Proof.Machine.execWatchStatusWrite value s
  | .logIndexLowWrite value => Sys2Proof.Machine.execLogIndexLowWrite value s
  | .logIndexLowRead => Sys2Proof.Machine.execLogIndexLowRead s
  | .thresholdLowWrite value => Sys2Proof.Machine.execThresholdLowWrite value s
  | .thresholdLowRead => Sys2Proof.Machine.execThresholdLowRead s
  | .lostCountWrite value => Sys2Proof.Machine.execLostCountWrite value s
  | .memAddrLowWrite value => Sys2Proof.Machine.execMemAddrLowWrite value s
  | .memDataRead => Sys2Proof.Machine.execMemDataRead s
  | .memDataWrite value => Sys2Proof.Machine.execMemDataWrite value s
  | .turnaroundEnd => Sys2Proof.Machine.execTurnaroundEnd s
  | .setupEnd => Sys2Proof.Machine.execSetupEnd s
  | .strobeEnd waited => Sys2Proof.Machine.execStrobeEnd waited s
  | .waitTimeout => Sys2Proof.Machine.execWaitTimeout s
  | .accessEnd => Sys2Proof.Machine.execAccessEnd s
  | .configWrite address value => Sys2Proof.Machine.execConfigWrite address value s
  | .interruptFlagsWrite value => Sys2Proof.Machine.execInterruptFlagsWrite value s
  | .interruptEnablesWrite value => Sys2Proof.Machine.execInterruptEnablesWrite value s
  | .refusedStatusWrite value => Sys2Proof.Machine.execRefusedStatusWrite value s
  | .registerWrite address value => Sys2Proof.Machine.execRegisterWrite address value s
  | .commandCodeWrite value => Sys2Proof.Machine.execCommandCodeWrite value s
  | .lineByteReceived byte line => Sys2Proof.Machine.execLineByteReceived byte s line
  | .busyPeriodStart line => Sys2Proof.Machine.execBusyPeriodStart s line
  | .recordStartStrobe byte more => Sys2Proof.Machine.execRecordStartStrobe byte s more

end Sys2Proof.Machine
end

