-- ==== Sys2Proof/Safety.lean ====
section
/-! DEFINITION. What the claims speak of: completion, the invariants of the part, frames, and item lists. -/

namespace Sys2Proof.Machine

/-! ## Completion -/

/-- The command answers the state `t`. -/
abbrev Answers (c : Instr) (s t : State) : Prop := exec c s = .next t

/-- Every command from `s` goes on, and leaves the queue of waiting commands alone. -/
def State.Goes (s : State) : Prop := ∀ c : Instr, ∃ t, Answers c s t ∧ t.pending = s.pending

/-- A property that every step keeps. -/
def Kept (inv : State → Prop) : Prop := ∀ s t : State, inv s → step s = .next t → inv t

/-! ## Station and transmitter (chapter 5) -/

/-- The states in which the part is on the line. -/
def Station.onLine (st : Station) : Prop :=
  st = .listening ∨ st = .active ∨ st = .leaving ∨ st = .silent

/-- R69, R76, R84, R85, R92, R94: the remembered state is one to return to in LINE_FAULT and UNCONFIGURED elsewhere; the
transmitter holds a notice exactly when it is not IDLE, and only in ACTIVE or LEAVING; the receiver is OFF exactly in
UNCONFIGURED and LINE_FAULT; from START on the generator is not 0. -/
structure LineOk (l : LineInterface) : Prop where
  remembered_fault : l.station = .lineFault →
    l.remembered = .listening ∨ l.remembered = .active ∨ l.remembered = .silent
  remembered_else : l.station ≠ .lineFault → l.remembered = .unconfigured
  tx_state : l.tx ≠ .idle → l.station = .active ∨ l.station = .leaving
  tx_notice : l.tx = .idle ↔ l.notice = none
  tx_idle : l.tx = .idle → l.attempts = 0
  tx_sending : l.tx = .sending → 1 ≤ l.attempts ∧ l.attempts ≤ 8
  tx_waiting : l.tx = .jitter ∨ l.tx = .defer ∨ l.tx = .backoff → l.attempts ≤ 7
  rx_off : l.rx = .off ↔ ¬ l.station.onLine
  random : l.random ≠ 0
  expiry : l.expiryCount ≤ 1

/-- R82, R83, R91: the counts of the line monitor stay in range; a line reported idle has shown 16 recessive bit times and
no busy period; behind a dominant bit time no recessive one counts and a busy period runs. -/
structure MonitorOk (l : LineInterface) : Prop where
  recessive : l.recessive ≤ 16
  busy : l.busyLength ≤ 761
  run : l.runLength ≤ 4095
  byte : l.byteLeft ≤ 9
  idle : l.carrierIdle = true → l.recessive = 16 ∧ l.busyLength = 0
  dominant : 0 < l.runLength → l.recessive = 0 ∧ 0 < l.busyLength ∧ l.afterRecessive = false

/-! ## The part before START -/

/-- R10, R38, R58, R117, R121, R172, R173: in UNCONFIGURED nothing is queued, stored, walked, computed or on the bus. -/
structure AtRest (s : State) : Prop where
  timer : s.tb.epochTimer = 0
  slots : ∀ k, s.slot k = none
  entries : ∀ i, s.client i = ClientEntry.free
  walk : s.ct.walk = none
  pass : s.se = ShareEngine.reset
  requests : s.me.queue = []
  records : s.lw.queue = []
  writer : s.lw.writer = .idle
  pendingIndex : s.lw.pendingIndex = none
  bus : s.mc.phase = .idle
  logRequest : s.mc.logRequest = none
  slot : s.mc.slot = none

/-- The line interface is in order, and before START the part is at rest. -/
structure PartOk (s : State) : Prop where
  line : LineOk s.li
  rest : s.started = false → AtRest s

/-- R193: while RESET_N is held low the part is unconfigured, runs no command, and counts no transaction. -/
structure HeldOk (s : State) : Prop where
  station : s.resetLow = true → s.started = false
  command : s.resetLow = true → s.mp.running = false
  serial : s.resetLow = true → s.mp.serial.active = false

/-- R8, R15, R26: the cycle busy marker is set exactly while a walk or a pass runs, never both; a snapshot stands exactly
while a pass runs. -/
structure CycleOk (s : State) : Prop where
  busy : s.tb.cycleBusy = true ↔ s.ct.walk.isSome = true ∨ s.se.pass ≠ .noPass
  snapshot : s.se.pass = .noPass ↔ s.se.snapshot = none
  walk : s.ct.walk.isSome = true → s.se.pass = .noPass

/-! ## Shares and grants (chapter 2) -/

/-- The sum of all clients' grants in a direction. -/
def State.grantTotal (s : State) (d : Dir) : Nat := (s.ct.entries.toList.map fun e => (e.dir d).grant).sum

/-- R33: the sum of the grants and the remainder equal the carriage share, which is 0 until the first publish. -/
structure GrantLaw (s : State) : Prop where
  sum : ∀ d, s.grantTotal d + (s.shareDir d).remainder = (s.shareDir d).share
  before : ∀ d, (s.shareDir d).sharesValid = false → (s.shareDir d).share = 0

/-- R28, R95, R96: only sharing clients hold grants, a FREE entry has every field 0, and a running pass's membership list
names sharing clients of its snapshot, each once. -/
structure SharesOk (s : State) : Prop where
  law : GrantLaw s
  holders : ∀ i d, (s.client i).sharing = false → s.grant d i = 0
  free : ∀ i, (s.client i).state = .free → s.client i = ClientEntry.free
  members : ∀ n, s.se.snapshot = some n →
    (n.members.map Member.index).Nodup ∧ n.membership.Nodup ∧
      ∀ i ∈ n.membership, i ∈ n.members.map Member.index ∧ (s.client i).sharing = true

/-- R36: the grants of a capped client are at most the capped rate. -/
def CappedOk (s : State) : Prop :=
  ∀ i d, (s.client i).capped = true → s.grant d i ≤ s.mp.cfg.cappedRate.toNat

/-! ## Buckets (R129) -/

/-- Every level lies within its depth in force. -/
def BucketsOk (s : State) : Prop :=
  ∀ i d, ((s.client i).dir d).committed ≤ ((s.client i).dir d).committedDepth ∧
    ((s.client i).dir d).excess ≤ ((s.client i).dir d).excessDepth

/-! ## Queues (R121, R162) -/

def QueuesOk (s : State) : Prop :=
  s.me.queue.length ≤ Config.requestDepth ∧ s.lw.queue.length ≤ Config.recordDepth

/-! ## Peer table (R41) -/

/-- A stored entry: not the own station, and weight zero exactly when demand is zero, in each direction. -/
def PeerOk (s : State) (e : PeerEntry) : Prop :=
  e.station ≠ s.mp.cfg.stationId ∧ (∀ d, (e.figures.get d).weight = 0 ↔ (e.figures.get d).demand = 0) ∧
    (e.gateway = false → ∀ d, (e.figures.get d).uplink = 0)

structure PeersOk (s : State) : Prop where
  entries : ∀ k e, s.slot k = some e → PeerOk s e
  distinct : ∀ j k e f, s.slot j = some e → s.slot k = some f → e.station = f.station → j = k

/-! ## Log and bus (chapters 10 and 11) -/

/-- A word address of the log region in steps of 16 from its base (R166). -/
def ConfigWords.LogAddress (c : ConfigWords) (v : Nat) : Prop := c.base ≤ v ∧ v ≤ c.limit ∧ (v - c.base) % 16 = 0

/-- R166, R167, R168: index, threshold and a pending index write are word addresses of the log. -/
structure LogOk (s : State) : Prop where
  index : s.started = true → s.mp.cfg.LogAddress s.lw.index
  threshold : s.started = true → s.mp.cfg.LogAddress s.lw.threshold
  pendingIndex : s.started = true → ∀ v, s.lw.pendingIndex = some v → s.mp.cfg.LogAddress v
  room : s.lw.writer = .writing → s.started = true ∧ s.lw.index < s.mp.cfg.limit

/-- R164, R176, R177, R181: the writer writes exactly while a record is in flight and a log request stands; an IDLE writer
leaves no record queued; a free bus leaves no request waiting; READY shows that the window has nothing waiting or running. -/
structure BusOk (s : State) : Prop where
  writing : s.lw.writer = .writing ↔ s.mc.logRequest.isSome = true
  inFlight : s.lw.writer = .writing ↔ s.lw.inFlight.isSome = true
  queue : s.lw.writer = .idle → s.lw.queue = []
  free : s.mc.phase = .idle ↔ s.mc.owner = .none
  idle : s.mc.phase = .idle → s.mc.logRequest = none ∧ s.mc.slot = none
  log : s.mc.owner = .log → s.mc.logRequest.isSome = true
  window : s.mc.owner = .window ↔ s.mc.granted.isSome = true
  ready : s.mc.ready = true ↔ s.mc.slot = none ∧ s.mc.owner ≠ .window

/-! ## Uplink input and debounce (R52, R56) -/

/-- The stale marker is set exactly at a count of 16, and the settle count does not pass 10. -/
def InputsOk (s : State) : Prop :=
  s.pt.staleCount ≤ 16 ∧ (s.pt.stale = true ↔ s.pt.staleCount = 16) ∧ s.pt.settle ≤ 10

/-! ## The end of a command, as claims speak of it (R188) -/

/-- The command has ended with this outcome, and the port is otherwise as it was but for flags raised. -/
structure Ended (o : CommandOutcome) (s t : State) : Prop where
  port : t.mp = { s.mp with running := false, outcome := o, flags := t.mp.flags }
  raised : t.flag .commandDone = true
  kept : ∀ f, s.flag f = true → t.flag f = true

/-- The command has ended with this outcome and no other effect. -/
def EndedOnly (o : CommandOutcome) (s t : State) : Prop :=
  t = { s with mp := { s.mp with running := false, outcome := o, flags := s.mp.flags ||| BitVec.twoPow 16 14 } }

/-! ## Frames of the client table, as claims speak of them -/

/-- Every other entry, and the walk, as before. -/
def OthersKept (i : Fin Config.clientCount) (s t : State) : Prop :=
  t.ct.walk = s.ct.walk ∧ ∀ j, j ≠ i → t.client j = s.client j

/-- The share engine as before but for remainders and the membership list. -/
def SharesKept (s t : State) : Prop :=
  t.se.pass = s.se.pass ∧
    ∀ d, t.shareDir d = { s.shareDir d with remainder := (t.shareDir d).remainder }

/-- R28: the pass snapshot as before, but that the client is off the membership list. -/
def Struck (i : Fin Config.clientCount) (s t : State) : Prop :=
  t.se.snapshot = s.se.snapshot.map fun n => { n with membership := n.membership.filter fun j => j ≠ i }

/-! ## Item lists, as claims speak of them (R62, R72) -/

/-- An item of Table 4-2 other than END. -/
inductive ListItem where
  | dir (dir : Dir)
  | load (demand weight : Word)
  | reserve (value : Word)
  | uplink (value : Word)
deriving DecidableEq, Repr

/-- Code byte and payload, 16-bit values low byte first (Table 4-2). -/
def ListItem.bytes : ListItem → List Byte
  | .dir .up => [0x01, 0x00]
  | .dir .down => [0x01, 0x01]
  | .load demand weight => 0x02 :: wordBytes demand ++ wordBytes weight
  | .reserve value => 0x03 :: wordBytes value
  | .uplink value => 0x04 :: wordBytes value

/-- The value that an item gives for each figure. -/
def ListItem.demand : ListItem → Option Word
  | .load demand _ => some demand
  | _ => none

def ListItem.weight : ListItem → Option Word
  | .load _ weight => some weight
  | _ => none

def ListItem.reserved : ListItem → Option Word
  | .reserve value => some value
  | _ => none

def ListItem.uplinked : ListItem → Option Word
  | .uplink value => some value
  | _ => none

/-- The items that stand for a direction: from a context on, as the last DIR item before them says. -/
def itemsOf (d : Dir) : Dir → List ListItem → List ListItem
  | _, [] => []
  | _, .dir context :: rest => itemsOf d context rest
  | context, item :: rest => if context = d then item :: itemsOf d context rest else itemsOf d context rest

/-- The last value that the items give for a figure, or 0. -/
def lastGiven (figure : ListItem → Option Word) (items : List ListItem) : Nat :=
  ((items.filterMap figure).getLastD 0).toNat

/-- R62: the figures that an item list gives for a direction, UP being the context at its start. -/
def listedFigures (items : List ListItem) (d : Dir) : Figures :=
  let its := itemsOf d .up items
  { demand := lastGiven ListItem.demand its, weight := lastGiven ListItem.weight its
    reserve := lastGiven ListItem.reserved its, uplink := lastGiven ListItem.uplinked its }

end Sys2Proof.Machine
end

