-- ==== Sys2Proof/Certificates/Slice0/Obligations.lean ====
section
/-! DEFINITION. The statements about the part, for the provers. -/

open Sys2Proof Sys2Proof.Machine

/-! ## The step and the whole part -/

/-- The step runs the command at the front of the queue on the state with the queue's rest (95: each step is whole). -/
def Obligations.StepTakesTheFrontCommand : Prop :=
  ∀ (c : Instr) (rest : List Instr) (s : State),
    step { s with pending := c :: rest } = exec c { s with pending := rest }

/-- Every command goes on from every state and leaves the queue alone, and with nothing waiting the block idles. That a
command whose event is not due has no effect, and that the block idles, are the model's choices (log 1, log 2). -/
def Obligations.NoCommandStopsThePart : Prop :=
  (∀ s : State, s.Goes) ∧ ∀ s : State, s.pending = [] → step s = .next s

/-- R10, R38, R58, R76, R117, R137, R159, R172, R182, R193: device reset puts every block into its reset state; record memory
keeps its words but for the word of a write in its strobe, and the bus lines are released. While RESET_N is held low,
what reaches the ports has no effect, a transaction shifts out 0, and the part stays unconfigured. A transaction in progress is
cut off: its further clocks and its end have no effect. What lies outside the
blocks, the values log 11 names, the read/write line after reset, the operand that says whether RESET_N is still low, and
the 0 on the data output behind a cut are the model's choices (log 19, log 11, log 29, log 28). -/
def Obligations.DeviceResetRestoresEveryBlock : Prop :=
  (∀ (held : Bool) (s : State), Memory.wf s.mem → ∃ t, Answers (.deviceReset held) s t ∧
    t = { State.reset with
      mp := { MaintPort.reset with serial := { SerialPort.reset with selected := s.mp.serial.selected } }
      mem := t.mem, composition := s.composition, resetLow := held, freeDraws := t.freeDraws, pending := s.pending } ∧
    t.busLines = { address := none, data := none, strobe := false, write := false } ∧
    ∀ a, t.mem.read a = s.mem.read a ∨
      (s.mc.phase = .strobe ∧ ∃ v, s.busAccess = some (.write, a, v) ∧ t.mem.read a = v)) ∧
  (∀ (s : State) (d : Dir) (k : Fin 4) (a : BitVec 7) (v : Word) (b e : Byte) (p q : Byte × Byte) (more : List Byte),
    s.resetLow = true →
    ∀ c ∈ ([.uplinkWrite d v, .watchModeWrite k v, .watchCountLowWrite k v, .watchCountLowRead k, .watchStatusWrite v,
        .logIndexLowWrite v, .logIndexLowRead, .thresholdLowWrite v, .thresholdLowRead, .lostCountWrite v,
        .memAddrLowWrite v, .memDataRead, .memDataWrite v, .configWrite a v, .interruptFlagsWrite v,
        .interruptEnablesWrite v, .refusedStatusWrite v, .registerWrite a v, .commandCodeWrite v, .unknownCommand v,
        .requestPresented b e p q, .recordStartStrobe b more] : List Instr), Answers c s s) ∧
  (∀ (s : State) (bits : List Bool), HeldOk s → s.resetLow = true →
    s.transact bits = { s with mp := { s.mp with serial := { s.mp.serial with selected := false } } } ∧
    s.shiftedOut bits = bits.map fun _ => some false) ∧
  (∀ (held : Bool) (s t : State) (bits : List Bool), Answers (.deviceReset held) s t → s.mp.serial.selected = true →
    t.transact bits = { t with mp := { t.mp with serial := { t.mp.serial with selected := false } } } ∧
    t.shiftedOut bits = bits.map fun _ => some false) ∧
  Kept HeldOk

/-- R10, R38, R58, R76, R117, R137, R159, R172, R182, R193: every invariant of the part holds in the state after
device reset. MonitorOk rests on reset values of the line monitor that no rule states (log 11), Memory.wf on the form of record
memory, with nothing listed (log 7), and HeldOk on RESET_N being released there (log 28): these are the model's choices. -/
def Obligations.InvariantsHoldAtReset : Prop :=
  (PartOk State.reset ∧ HeldOk State.reset ∧ CycleOk State.reset ∧ MonitorOk State.reset.li) ∧
  SharesOk State.reset ∧ CappedOk State.reset ∧ BucketsOk State.reset ∧ QueuesOk State.reset ∧ PeersOk State.reset ∧
    LogOk State.reset ∧ BusOk State.reset ∧ InputsOk State.reset ∧ Memory.wf State.reset.mem

/-! ## Invariants that every step keeps -/

/-- R69, R76, R84, R92: station, receiver and transmitter agree, and before START the part is at rest: epoch timer (R10),
shares and pass (R38), peer table (R58), client table (R117), request queue (R121), log writer (R172) and record memory
bus (R173). -/
def Obligations.LineAndRestAreKept : Prop := Kept PartOk

/-- R33: for each direction the grants of all clients and the remainder add up to the carriage share from device reset
on, both are 0 until the first publish, a join grant and a return move an amount between the remainder and one grant,
RESTART and device reset set all of them to 0, and the remainder is at most the share; with it R28 and R95 of the
entries that hold grants. R36: a capped client's grants stay within the capped rate. R8, R15, R26: cycle busy marker,
closure walk, pass state and snapshot agree after every step. -/
def Obligations.GrantLawIsKept : Prop :=
  SharesOk State.reset ∧
  (∀ s t : State, SharesOk s → step s = .next t →
    SharesOk t ∧ ∀ d, (t.shareDir d).remainder ≤ (t.shareDir d).share) ∧
  (∀ (s : State) (d : Dir) (i : Fin Config.clientCount), s.grant d i = 0 →
    (takeJoinGrant d i s).grant d i + ((takeJoinGrant d i s).shareDir d).remainder = (s.shareDir d).remainder ∧
    ∀ j, j ≠ i → (takeJoinGrant d i s).grant d j = s.grant d j) ∧
  (∀ (keep : Nat) (s : State) (d : Dir) (i : Fin Config.clientCount),
    (returnGrant keep d i s).grant d i + ((returnGrant keep d i s).shareDir d).remainder =
      s.grant d i + (s.shareDir d).remainder ∧
    ∀ j, j ≠ i → (returnGrant keep d i s).grant d j = s.grant d j) ∧
  (∀ (c : Instr) (s t : State),
    (∃ held, c = .deviceReset held) ∨ (c = .restart ∧ s.commandRuns 2 = true ∧ s.started = true) →
    Answers c s t → ∀ d, (t.shareDir d).share = 0 ∧ (t.shareDir d).remainder = 0 ∧ ∀ i, t.grant d i = 0) ∧
  (∀ s t : State, PartOk s → CappedOk s → step s = .next t → CappedOk t) ∧
  ∀ s t : State, PartOk s → CycleOk s → step s = .next t → CycleOk t

/-- R129: every client's levels lie within its depths in force. R121, R162: the request queue holds at most 32 requests, the
pending queue at most 8 records. R52, R56: the stale marker is set exactly at a staleness count of 16, and the settle
count does not pass 10. R83, R91: the counts of the line monitor stay in range and agree with its idle report. That the
recessive count is held up to 16 and the busy-period measure up to 761 is the model's choice (log 5). -/
def Obligations.LevelsQueuesAndCountsStayInRange : Prop :=
  Kept BucketsOk ∧ Kept QueuesOk ∧ Kept InputsOk ∧ Kept fun s => MonitorOk s.li

/-- R41: no entry carries the own station id, no two the same, and a weight is zero exactly when its demand is. -/
def Obligations.PeerTableIsKept : Prop :=
  ∀ s t : State, PartOk s → PeersOk s → step s = .next t → PeersOk t

/-- R166: from START on the log index lies between base and limit, a multiple of 16 words from the base; so do threshold
(R168) and a pending index write (R167). -/
def Obligations.LogIndexStaysInTheLog : Prop :=
  ∀ s t : State, PartOk s → BusOk s → LogOk s → step s = .next t → LogOk t

/-- R164, R176, R177, R178 to R181: writer, log request, bus owner, window slot and READY agree. -/
def Obligations.BusStaysInOrder : Prop := Kept BusOk

/-- Record memory keeps its one canonical form, and (R173) a word of it changes at the end of a strobe alone, or where
device reset cuts one off. The form, in which a word that nothing has written reads 0, is the model's choice (log 7). -/
def Obligations.RecordMemoryStaysCanonicalAndChangesAtStrobes : Prop :=
  (Kept fun s => Memory.wf s.mem) ∧
  ∀ (c : Instr) (s t : State), Answers c s t → t.mem ≠ s.mem →
    s.mc.phase = .strobe ∧ ((∃ held, c = .deviceReset held) ∨ c = .waitTimeout ∨ ∃ n, c = .strobeEnd n)

/-! ## Rules over all commands -/

/-- R185: from START on, no command but device reset changes a configuration word. R2, R5: the epoch number changes at an
expiry, START and device reset alone, the stamp at a tick and device reset. -/
def Obligations.ConfigurationAndClocksChangeAtTheirEvents : Prop :=
  ∀ (c : Instr) (s t : State), Answers c s t →
    (s.started = true → (∀ held, c ≠ .deviceReset held) → t.mp.cfg = s.mp.cfg) ∧
    (t.tb.epoch ≠ s.tb.epoch → c = .epochExpiry ∨ (∃ held, c = .deviceReset held) ∨ ∃ b, c = .start b) ∧
    (t.tb.stamp ≠ s.tb.stamp → (∃ held, c = .deviceReset held) ∨ ∃ b l, c = .millisecondTick b l)

/-- R191: a raised flag stays raised until a write of the interrupt flags word clears it, or device reset. -/
def Obligations.FlagsStayRaisedUntilCleared : Prop :=
  ∀ (c : Instr) (s t : State) (f : IrqFlag), Answers c s t → s.flag f = true →
    t.flag f = true ∨ (∃ held, c = .deviceReset held) ∨
      ∃ v, (c = .interruptFlagsWrite v ∨ c = .registerWrite 0x09 v) ∧ v.getLsbD f.bit = true

/-! ## Time base (chapter 1) -/

/-- R1, R2, R4, R6, R52, R86, R93: what a tick counts, and that before START there are no ticks. The restoration count starts
again at a dominant bit time. That a tick waits for the events of the last one, and that it brings the levels that
the line has shown, are the model's reading (log 3, log 5). -/
def Obligations.TickAdvancesTheTimers : Prop :=
  (∀ (composition : Bool) (line : List LineLevel) (s : State), s.started = true → s.tickDue = false →
    ∃ t, Answers (.millisecondTick composition line) s t ∧
      t.tb = { s.tb with
        prescaler := 0, stamp := s.tb.stamp + 1, epochTimer := s.tb.epochTimer - 1,
        windowLength := min 65535 (s.tb.windowLength + 1) } ∧
      t.pt = { s.pt with settle := if composition = s.pt.debounced then 0 else s.pt.settle + 1 } ∧
      t.li = { (s.passLevels line).li with
        jitterLeft := if s.li.tx = .jitter then s.li.jitterLeft - 1 else s.li.jitterLeft
        restoration := if s.li.station = .lineFault then
            (if LineLevel.dominant ∈ line then 1 else s.li.restoration + 1)
          else s.li.restoration } ∧
      t = { s with tb := t.tb, pt := t.pt, li := t.li, composition := composition }) ∧
  ∀ (composition : Bool) (line : List LineLevel) (s : State), s.started = false →
    Answers (.millisecondTick composition line) s s

/-- R4 to R7, R77, R102: an expiry, due when a tick has brought the timer to 0 (log 3), reloads the timer and counts; it
flips the windows and starts a walk with the window's length, or is absorbed; a LISTENING station counts it and becomes ACTIVE at the second.
R48, R51, R54, R56: an expiry ages every peer outside LINE_FAULT, and on a gateway the staleness count; each entry that it
removes from the view offers a VIEW record where enabled, in ascending slot order, with the view size after its removal. -/
def Obligations.ExpiryIsTakenByEveryBlock : Prop :=
  ∀ s : State, s.started = true → s.tb.epochTimer = 0 → InputsOk s → ∃ t, Answers .epochExpiry s t ∧
    t.tb = { s.tb with
      epochTimer := s.mp.cfg.epochLength.toNat, epoch := s.tb.epoch + 1, cycleBusy := true,
      windowLength := if s.tb.cycleBusy = true then s.tb.windowLength else 0 } ∧
    (s.tb.cycleBusy = true → t.ct = s.ct) ∧
    (s.tb.cycleBusy = false → t.ct.walk = some ⟨0, s.tb.windowLength⟩ ∧
      ∀ i, t.client i = { s.client i with
        selector := if (s.client i).state = .free then (s.client i).selector else !(s.client i).selector }) ∧
    t.li = (if s.li.station = .listening then
        (if s.li.expiryCount = 0 then { s.li with expiryCount := 1 }
          else { s.li with station := .active, expiryCount := 0 })
      else s.li) ∧
    t.mp = { s.mp with flags := t.mp.flags } ∧
    t = { s with tb := t.tb, ct := t.ct, li := t.li, pt := t.pt, lw := t.lw, mc := t.mc, mp := t.mp } ∧
    (s.li.station = .lineFault → t.pt.slots = s.pt.slots ∧ t.lw = s.lw ∧ t.mc = s.mc) ∧
    (s.li.station ≠ .lineFault → ∀ k,
      (s.slot k = none → t.slot k = none) ∧
      ∀ e, s.slot k = some e →
        t.slot k = (if e.purge = true ∨ e.silence + 1 = e.limit then none else some { e with silence := e.silence + 1 }) ∧
        (t.slot k = none → e.inView = true → t.flag .viewChanged = true)) ∧
    (s.li.station ≠ .lineFault →
      let inView := (List.finRange Config.peerSlots).filterMap fun k => (s.slot k).filter fun e => e.inView
      let gone := inView.filter fun e => e.purge = true ∨ e.silence + 1 = e.limit
      let records := gone.zipIdx.map fun p =>
        Record.view p.1.station p.1.set (if p.1.purge = true then .purged else .timedOut) (s.tb.epoch + 1)
          (inView.length - (p.2 + 1))
      let offered := if s.mp.cfg.recordEnables.getLsbD 1 = true then records.foldl (fun u r => offerRecord r u) s else s
      t.lw = offered.lw ∧ t.mc = offered.mc) ∧
    t.pt.staleCount = (if s.mp.cfg.gateway = 1 then min 16 (s.pt.staleCount + 1) else s.pt.staleCount) ∧
    (s.mp.cfg.gateway = 1 → (t.pt.stale = true ↔ t.pt.staleCount = 16)) ∧
    (s.mp.cfg.gateway = 1 → s.pt.staleCount = 15 → t.flag .uplinkStale = true) ∧
    t.pt = { s.pt with slots := t.pt.slots, staleCount := t.pt.staleCount, stale := t.pt.stale }

/-! ## Station commands (R9, R78 to R80, R186, R187) -/

/-- R186: a START ends with CONFIG_INVALID and the number of the first check that fails, and changes nothing else; one
taken after START ends with BAD_STATE. The checks are those of Table 12-2, written out. -/
def Obligations.StartJudgesTheConfiguration : Prop :=
  (∀ c : ConfigWords,
    let valid : Nat → Prop
      | 1 => 1 ≤ c.stationId.toNat ∧ c.stationId.toNat ≤ 65534
      | 2 => c.setId.toNat ≤ 15
      | 3 => c.scope = 0 ∨ c.scope = 1
      | 4 => c.gateway = 0 ∨ c.gateway = 1
      | 5 => 50 ≤ c.epochLength.toNat ∧ c.epochLength.toNat ≤ 1000 ∧ 10 ∣ c.epochLength.toNat
      | 6 => 2 ≤ c.peerTimeout.toNat ∧ c.peerTimeout.toNat ≤ 8
      | 7 => 1 ≤ c.idleLimit.toNat ∧ c.idleLimit.toNat ≤ 255
      | 8 => 10 ≤ c.burstMs.toNat ∧ c.burstMs.toNat ≤ 500
      | 9 => 1 ≤ c.joinRate.toNat ∧ c.joinRate.toNat ≤ 1023
      | 10 => 1 ≤ c.cappedRate.toNat ∧ c.cappedRate.toNat ≤ 1023
      | 11 => 1 ≤ c.standardWeight.toNat ∧ c.standardWeight.toNat ≤ 15
      | 12 => 1 ≤ c.premiumWeight.toNat ∧ c.premiumWeight.toNat ≤ 15
      | 14 => 1 ≤ c.groupCount.toNat ∧ c.groupCount.toNat ≤ 8
      | 15 => ∀ g : Fin Config.groupCount, g.val < c.groupCount.toNat →
          (c.capacity.up[g.val]).toNat ≤ 16383 ∧ (c.capacity.down[g.val]).toNat ≤ 16383
      | 16 => c.logBase.toNat ≤ c.logLimit.toNat
      | 17 => (1 ≤ c.setup.toNat ∧ c.setup.toNat ≤ 16) ∧ (1 ≤ c.strobe.toNat ∧ c.strobe.toNat ≤ 64) ∧
          (1 ≤ c.hold.toNat ∧ c.hold.toNat ≤ 16) ∧ c.turnaround.toNat ≤ 15 ∧ (c.waitEnable = 0 ∨ c.waitEnable = 1) ∧
          c.waitLimit.toNat ≤ 63
      | 18 => c.recordEnables.toNat ≤ 3
      | _ => True
    (c.firstInvalid = none ↔ ∀ n, valid n) ∧
    ∀ n, c.firstInvalid = some n ↔ ¬ valid n ∧ ∀ m, m < n → valid m) ∧
  (∀ (level : Bool) (s : State) (n : Nat), s.commandRuns 1 = true → s.started = false →
    s.mp.cfg.firstInvalid = some n → ∃ t, Answers (.start level) s t ∧
      t = { s with mp := { s.mp with
        running := false, outcome := .configInvalid, check := n, flags := s.mp.flags ||| BitVec.twoPow 16 14 } }) ∧
  ∀ (level : Bool) (s : State), s.commandRuns 1 = true → s.started = true →
    ∃ t, Answers (.start level) s t ∧ EndedOnly .badState s t

/-- R3, R52, R58, R69, R76, R137, R172, R187: a START whose checks all pass, with what it leaves at the line interface and the
metering engine. R121: a request that was presented just before is still answered: that START keeps a refusal that waits, beside
R137's table, is the model's reading (log 27). That the byte level starts outside a byte, awaiting a recessive bit time, is
its choice (log 5). -/
def Obligations.StartSetsThePartGoing : Prop :=
  ∀ (level : Bool) (s : State), s.commandRuns 1 = true → s.started = false → s.mp.cfg.firstInvalid = none →
    ∃ t, Answers (.start level) s t ∧
      t.li = { s.li with
        station := .listening, remembered := .unconfigured, expiryCount := 0, conflict := false
        tx := .idle, notice := none, attempts := 0, jitterLeft := t.li.jitterLeft, backoffSlots := t.li.backoffSlots
        random := s.mp.cfg.stationId, rx := .waitIdle, rxBytes := [], rxExpected := t.li.rxExpected, readback := false
        byteLeft := 0, afterRecessive := false, carrierIdle := false, recessive := 0, busyLength := 0
        runLength := 0, overflow := false, restoration := 0 } ∧
      t = { s with
        tb := { s.tb with
          prescaler := 0, epochTimer := s.mp.cfg.epochLength.toNat, epoch := 0, windowLength := 0, cycleBusy := false }
        pt := { s.pt with debounced := level, settle := 0, staleCount := 0, stale := false }
        me := { s.me with queue := [] }
        lw := { s.lw with
          index := 16 * s.mp.cfg.logBase.toNat, threshold := 16 * s.mp.cfg.logLimit.toNat + 16, lost := 0 }
        li := t.li, composition := level, mp := t.mp } ∧
      Ended .done s t

/-- R8, R10, R32, R39, R54, R58, R80, R90, R118: RESTART, in LINE_FAULT and elsewhere, and its refusal before START. -/
def Obligations.RestartReturnsToListening : Prop :=
  (∀ s : State, s.commandRuns 2 = true → s.started = false → ∃ t, Answers .restart s t ∧ EndedOnly .badState s t) ∧
  ∀ s : State, s.commandRuns 2 = true → s.started = true → ∃ t, Answers .restart s t ∧
    (s.li.station = .lineFault → t.li.station = .lineFault ∧ t.li.remembered = .listening) ∧
    (s.li.station ≠ .lineFault → t.li.station = .listening ∧ t.li.remembered = s.li.remembered) ∧
    t.li.expiryCount = 0 ∧ t.li.conflict = false ∧ t.li.tx = .idle ∧ t.li.notice = none ∧ t.li.attempts = 0 ∧
    t.li = { s.li with
      station := t.li.station, remembered := t.li.remembered, expiryCount := 0, conflict := false, tx := .idle,
      notice := none, attempts := 0, jitterLeft := t.li.jitterLeft, backoffSlots := t.li.backoffSlots } ∧
    t.tb = { s.tb with
      epochTimer := s.mp.cfg.epochLength.toNat,
      cycleBusy := if s.se.pass = .noPass then s.tb.cycleBusy else false } ∧
    t.se = ShareEngine.reset ∧ t.ct.walk = s.ct.walk ∧
    (∀ i, t.client i = { s.client i with
      dirs := ⟨{ (s.client i).dirs.up with grant := 0 }, { (s.client i).dirs.down with grant := 0 }⟩ }) ∧
    (∀ k, t.slot k = none) ∧ t.pt = { s.pt with slots := t.pt.slots, pendingEdge := false } ∧
    Ended .done s t ∧
    t = { s with tb := t.tb, se := t.se, ct := t.ct, pt := t.pt, li := t.li, mp := t.mp }

/-- R64, R68, R78, R89: LEAVE in ACTIVE makes the station LEAVING, with the LEAVING notice of the next cycle number
pending in DEFER in place of any other notice; elsewhere it is refused.
R79: RESUME in SILENT with the conflict marker clear; refused in SILENT with the marker set and in every other state. -/
def Obligations.LeaveAndResumeChangeTheStation : Prop :=
  ((∀ s : State, s.commandRuns 3 = true → s.li.station = .active → ∃ t, Answers .leave s t ∧
    t.li = { s.li with
      station := .leaving, notice := some t.leavingNotice, tx := .defer, attempts := 0, cycle := s.li.cycle + 1
      jitterLeft := t.li.jitterLeft, backoffSlots := t.li.backoffSlots } ∧
    (s.li.notice.isSome = true → t.flag .noticeAbandoned = true) ∧
    (s.li.notice = none → EndedOnly .done { s with li := t.li } t) ∧
    Ended .done s t ∧ t = { s with li := t.li, mp := t.mp }) ∧
  ∀ s : State, s.commandRuns 3 = true → s.li.station ≠ .active → ∃ t, Answers .leave s t ∧ EndedOnly .badState s t) ∧
  (∀ s : State, s.commandRuns 4 = true → s.li.station = .silent → s.li.conflict = false → ∃ t, Answers .resume s t ∧
    t.li = { s.li with station := .active } ∧ Ended .done s t ∧ t = { s with li := t.li, mp := t.mp }) ∧
  ∀ s : State, s.commandRuns 4 = true → (s.li.station ≠ .silent ∨ s.li.conflict = true) →
    ∃ t, Answers .resume s t ∧ EndedOnly .badState s t

/-- R9: SYNC_EPOCH reloads the epoch timer and keeps every other value, in three states; elsewhere it is refused. -/
def Obligations.SyncEpochReloadsTheTimer : Prop :=
  ∀ s : State, s.commandRuns 5 = true → ∃ t, Answers .syncEpoch s t ∧
    (s.li.station = .active ∨ s.li.station = .silent ∨ s.li.station = .listening →
      t.tb = { s.tb with epochTimer := s.mp.cfg.epochLength.toNat } ∧ Ended .done s t ∧
      t = { s with tb := t.tb, mp := t.mp }) ∧
    (s.li.station = .unconfigured ∨ s.li.station = .leaving ∨ s.li.station = .lineFault → EndedOnly .badState s t)

/-! ## Level search (R11, R14) -/

/-- R11: the apportioned level is the largest level whose fill does not exceed the amount; no allocation exceeds its
demand, together they do not exceed the amount, and the order of the items does not matter. -/
def Obligations.LevelSearchFindsTheLargestLevel : Prop :=
  ∀ (items : List Item) (amount : Nat),
    (∀ level, fill items level = (items.map fun i => min i.demand (i.weight * level / 64)).sum) ∧
    fill items 0 = 0 ∧ (∀ a b, a ≤ b → fill items a ≤ fill items b) ∧
    levelSearch items amount ≤ 4194303 ∧
    (∀ level, level ≤ 4194303 → (fill items level ≤ amount ↔ level ≤ levelSearch items amount)) ∧
    (∀ i ∈ items, i.allocation (levelSearch items amount) = min i.demand (i.weight * levelSearch items amount / 64) ∧
      i.allocation (levelSearch items amount) ≤ i.demand) ∧
    (items.map fun i => i.allocation (levelSearch items amount)).sum ≤ amount ∧
    ∀ items', items.Perm items' → levelSearch items' amount = levelSearch items amount

/-- R14: the results of the level search at its limits. -/
def Obligations.LevelSearchAtItsLimits : Prop :=
  ∀ (items : List Item) (amount : Nat), (∀ i ∈ items, i.demand ≤ 65535 ∧ i.weight ≤ 8191) →
    let top := levelSearch items amount
    let given := (items.map fun i => i.allocation top).sum
    (amount = 0 →
      (∀ level, level ≤ 4194303 → (level ≤ top ↔ ∀ i ∈ items, 0 < i.demand → i.weight * level < 64)) ∧
      (∀ i ∈ items, i.allocation top = 0) ∧ amount - given = 0) ∧
    ((∀ i ∈ items, i.demand = 0 ∨ i.weight = 0) →
      top = 4194303 ∧ (∀ i ∈ items, i.allocation top = 0) ∧ amount - given = amount) ∧
    (fill items 4194303 ≤ amount →
      top = 4194303 ∧ (∀ i ∈ items, 1 ≤ i.weight → i.allocation top = i.demand) ∧
      amount - given = amount - ((items.filter fun i => 1 ≤ i.weight).map Item.demand).sum) ∧
    (∀ i ∈ items, i.weight = 0 → i.allocation top = 0) ∧
    ∀ more amount', (∀ i ∈ more, i.weight = 0) → levelSearch (items ++ more) amount' = levelSearch items amount'

/-! ## Passes and grants (chapter 2) -/

/-- R22, R29, R33: the publish of a direction. `d` is the direction being computed.
R30: the joiners are redrawn in ascending index, each from what the members and the joiners before it have left.
R20, R21, R23, R24: the stages, from the snapshot; a computed grant is at most its member's demand, a group's grants at most
the group's allocation, and all of them at most the carriage share. -/
def Obligations.PublishGivesShareAndGrants : Prop :=
  (∀ (s : State) (n : Snapshot) (d : Dir), SharesOk s → s.se.snapshot = some n →
    (d = .up ∧ s.se.pass = .passUp ∨ d = .down ∧ s.se.pass = .passDown) → ∃ t, Answers .publish s t ∧
    (t.shareDir d).share = (if n.held = true then (s.shareDir d).held else trainShare s.mp.cfg n d) ∧
    (t.shareDir d).held = (if n.held = true then (s.shareDir d).held else (t.shareDir d).share) ∧
    (t.shareDir d).sharesValid = true ∧
    (∀ i g, i ∈ n.membership → (i, g) ∈ computedGrants s.mp.cfg n d (t.shareDir d).share →
      t.grant d i = if (s.client i).capped = true then min s.mp.cfg.cappedRate.toNat g else g) ∧
    (∀ i, i ∉ n.membership → (s.client i).sharing = false → t.grant d i = 0) ∧
    t.grantTotal d + (t.shareDir d).remainder = (t.shareDir d).share ∧
    (∀ d', d' ≠ d → (∀ i, t.grant d' i = s.grant d' i) ∧ (t.shareDir d').share = (s.shareDir d').share ∧
      (t.shareDir d').remainder = (s.shareDir d').remainder ∧ (t.shareDir d').held = (s.shareDir d').held ∧
      (t.shareDir d').sharesValid = (s.shareDir d').sharesValid) ∧
    t.ct.walk = s.ct.walk ∧
    (∀ i, t.client i = { s.client i with
      dirs := ⟨{ (s.client i).dirs.up with grant := t.grant .up i },
        { (s.client i).dirs.down with grant := t.grant .down i }⟩ }) ∧
    t = { s with tb := t.tb, se := t.se, ct := t.ct, li := t.li, mp := t.mp } ∧
    ∀ i, (s.client i).sharing = true → i ∉ n.membership →
      let taken := (((List.finRange Config.clientCount).filter fun j => j ∈ n.membership ∨ j < i).map (t.grant d)).sum
      let free := min s.mp.cfg.joinRate.toNat ((t.shareDir d).share - taken)
      t.grant d i = if (s.client i).capped = true then min s.mp.cfg.cappedRate.toNat free else free) ∧
  ∀ (c : ConfigWords) (n : Snapshot) (d : Dir) (share : Nat),
    let own := ownItem c n d
    let uplink := n.uplink.get d + (n.view.map fun p => (p.get d).uplink).sum
    let reserve := ownReserve n d + (n.view.map fun p => (p.get d).reserve).sum
    let train := levelSearch (own :: n.view.map fun p => ⟨(p.get d).demand, (p.get d).weight⟩) (uplink - reserve)
    let groups := levelSearch (n.heldGroups.map (groupItem c n d)) share
    let amount (g : BitVec 3) := min (groupItem c n d g).demand ((groupItem c n d g).weight * groups / 64)
    let grant (m : Member) : Nat :=
      let level := levelSearch ((n.members.filter fun x => x.group = m.group).map (clientItem c d)) (amount m.group)
      min (clientItem c d m).demand ((clientItem c d m).weight * level / 64)
    trainShare c n d = min own.demand (own.weight * train / 64) ∧
    (∀ i a, (i, a) ∈ computedGrants c n d share ↔ ∃ m ∈ n.members, m.index = i ∧ a = grant m) ∧
    ((computedGrants c n d share).map Prod.fst).Perm (n.members.map Member.index) ∧
    (∀ m, grant m ≤ (clientItem c d m).demand ∧ (m.capped = true → grant m ≤ c.cappedRate.toNat)) ∧
    (∀ g, amount g ≤ (groupItem c n d g).demand ∧
      ((n.members.filter fun m => m.group = g).map grant).sum ≤ amount g) ∧
    (n.heldGroups.map amount).sum ≤ share ∧ ((computedGrants c n d share).map Prod.snd).sum ≤ share

/-- R8, R19, R26, R31, R65, R85, R86: the publish of UP leads to DOWN; the publish of DOWN completes the pass, stores the
own announced values, ends the cycle, raises SHARE_PUBLISHED, and in ACTIVE a notice is built and handed over.
R16 to R18: the items of the clients and groups and the own announced values, from the snapshot. -/
def Obligations.PublishOfDownCompletesThePass : Prop :=
  (∀ (s : State) (n : Snapshot), s.se.snapshot = some n → s.se.pass = .passUp → ∃ t, Answers .publish s t ∧
    t.se.pass = .passDown ∧ t.se.snapshot = some n ∧ t = { s with se := t.se, ct := t.ct }) ∧
  (∀ (s : State) (n : Snapshot), s.se.snapshot = some n → s.se.pass = .passDown → ∃ t, Answers .publish s t ∧
    t.se.pass = .noPass ∧ t.se.snapshot = none ∧ t.tb = { s.tb with cycleBusy := false } ∧
    t.flag .sharePublished = true ∧ t.mp = { s.mp with flags := t.mp.flags } ∧
    (∀ d, (t.shareDir d).ownDemand = (ownItem s.mp.cfg n d).demand ∧
      (t.shareDir d).ownWeight = (ownItem s.mp.cfg n d).weight ∧ (t.shareDir d).ownReserve = ownReserve n d) ∧
    (s.li.station ≠ .active → t.li = s.li) ∧
    (s.li.station = .active →
      t.li = { s.li with
        notice := some t.regularNotice, cycle := s.li.cycle + 1, random := stepRandom s.li.random, attempts := 0
        tx := if t.li.random.toNat % 16 = 0 then .defer else .jitter
        jitterLeft := t.li.random.toNat % 16, backoffSlots := t.li.backoffSlots } ∧
      (s.li.notice.isSome = true → t.flag .noticeAbandoned = true)) ∧
    t = { s with tb := t.tb, se := t.se, ct := t.ct, li := t.li, mp := t.mp }) ∧
  ∀ (c : ConfigWords) (n : Snapshot) (d : Dir),
    (∀ m : Member,
      (clientItem c d m).demand = (if m.capped = true then min c.cappedRate.toNat (m.estimate.get d) else m.estimate.get d) ∧
      (m.capped = true → (clientItem c d m).weight = 1) ∧
      (m.capped = false → m.tier = .standard → (clientItem c d m).weight = c.standardWeight.toNat) ∧
      (m.capped = false → m.tier = .premium → (clientItem c d m).weight = c.premiumWeight.toNat)) ∧
    (∀ g, g ∈ n.heldGroups ↔ ∃ m ∈ n.members, m.group = g) ∧ n.heldGroups.Nodup ∧
    (∀ g : BitVec 3,
      let members := n.members.filter fun m => m.group = g
      let ops := ((n.ops.filter fun o => o.group = g).map fun o => o.estimate.get d).sum
      groupItem c n d g = {
        demand := min (((c.capacity.get d).toList.getD g.toNat 0).toNat - ops)
          (members.map fun m => (clientItem c d m).demand).sum
        weight := (members.map fun m => (clientItem c d m).weight).sum }) ∧
    (let demand := min 65535 (n.heldGroups.map fun g => (groupItem c n d g).demand).sum
     let weight := (n.heldGroups.map fun g => (groupItem c n d g).weight).sum
     ownItem c n d = if demand = 0 ∨ weight = 0 then ⟨0, 0⟩ else ⟨demand, weight⟩) ∧
    ownReserve n d = min 16383 (n.ops.map fun o => o.estimate.get d).sum

/-- R28, R103 to R105: the closure step of an entry that is not FREE, with the IDLE record where enabled. The rates and the
quarter are written out. Shares stay, and unless the walk ends here in a pass, so do pass and snapshot, but that an entry
that becomes IDLE is struck. -/
def Obligations.ClosureStepEstimatesAndAges : Prop :=
  ∀ (s : State) (w : Walk), s.ct.walk = some w → (s.client w.next).state ≠ .free → ∃ t, Answers .closureStep s t ∧
    let e := s.client w.next
    let e' := t.client w.next
    let quiet := e.state = .active ∧ e.closedBytes .up = 0 ∧ e.closedBytes .down = 0
    let idles := quiet ∧ s.mp.cfg.idleLimit.toNat ≤ e.idleCount + 1
    e'.idleCount = (if quiet then e.idleCount + 1 else 0) ∧
    e'.state = (if idles then .idle else e.state) ∧
    (∀ d,
      let r := min 65535 ((e.closedBytes d + 2 * w.length - 1) / (2 * w.length))
      e'.closedBytes d = 0 ∧ e'.activeBytes d = e.activeBytes d ∧
      t.grant d w.next = (if idles then 0 else s.grant d w.next) ∧
      (t.shareDir d).remainder = (s.shareDir d).remainder + (s.grant d w.next - t.grant d w.next) ∧
      (e'.dir d).estimate =
        (if idles ∨ e.blocked = true ∨ e.state ≠ .active then 0
          else if e.tier = .operations then min 16383 (r + (r + 3) / 4)
          else if e.capped = true then min s.mp.cfg.cappedRate.toNat (r + (r + 3) / 4 + 4)
          else min 65535 (r + (r + 3) / 4 + 4)) ∧
      (e'.dir d).committed = (e.dir d).committed ∧ (e'.dir d).excess = (e.dir d).excess ∧
      (e'.dir d).committedDepth = (e.dir d).committedDepth ∧ (e'.dir d).excessDepth = (e.dir d).excessDepth ∧
      (e'.dir d).refillStamp = (e.dir d).refillStamp) ∧
    e' = { e with idleCount := e'.idleCount, state := e'.state, dirs := e'.dirs } ∧
    (∀ j, j ≠ w.next → t.client j = s.client j) ∧
    (∀ d, t.shareDir d = { s.shareDir d with remainder := (t.shareDir d).remainder }) ∧
    (w.next.val ≠ 383 ∨ s.li.station = .listening ∨ s.li.station = .leaving →
      t.se.pass = s.se.pass ∧ (idles → Struck w.next s t) ∧ (¬ idles → t.se.snapshot = s.se.snapshot)) ∧
    (let recorded := if idles ∧ s.mp.cfg.recordEnables.getLsbD 0 = true then
        offerRecord (.idle w.next s.tb.epoch e.admitted) s else s
     t = { recorded with tb := t.tb, se := t.se, ct := t.ct })

/-- R8, R15, R26, R103, R106: the walk goes from entry to entry, a FREE one unchanged; after entry 383 a pass starts
with exactly the sharing clients as its members, the estimates of every ACTIVE OPERATIONS entry that is not blocked and the
figures of every peer in view, or the cycle ends. -/
def Obligations.WalkEndsInAPassOrEndsTheCycle : Prop :=
  (∀ (s : State) (w : Walk), s.ct.walk = some w → ∃ t, Answers .closureStep s t ∧
    ((s.client w.next).state = .free → t.ct.entries = s.ct.entries) ∧
    (∀ h : w.next.val + 1 < Config.clientCount,
      t.ct.walk = some ⟨⟨w.next.val + 1, h⟩, w.length⟩ ∧ t.se.pass = s.se.pass ∧ t.tb = s.tb)) ∧
  ∀ (s : State) (w : Walk), s.ct.walk = some w → w.next.val = 383 → ∃ t, Answers .closureStep s t ∧
    t.ct.walk = none ∧
    (s.li.station = .active ∨ s.li.station = .silent ∨ s.li.station = .lineFault →
      t.tb = s.tb ∧ t.se.pass = .passUp ∧ ∃ n, t.se.snapshot = some n ∧
        let estimates (i : Fin Config.clientCount) : PerDir Nat :=
          ⟨((t.client i).dir .up).estimate, ((t.client i).dir .down).estimate⟩
        (n.held = true ↔ s.li.station = .lineFault) ∧
        (∀ d, n.uplink.get d = if s.mp.cfg.gateway = 1 then
            (if s.pt.stale = true then s.pt.heldUplink.get d / 2 else s.pt.heldUplink.get d) else 0) ∧
        n.members.Perm (((List.finRange Config.clientCount).filter fun i => (t.client i).state = .active ∧
            (t.client i).blocked = false ∧ (t.client i).tier ≠ .operations).map fun i =>
          { index := i, group := (t.client i).group, capped := (t.client i).capped, tier := (t.client i).tier
            estimate := estimates i }) ∧
        n.membership.Perm (n.members.map Member.index) ∧
        n.ops.Perm (((List.finRange Config.clientCount).filter fun i => (t.client i).state = .active ∧
            (t.client i).blocked = false ∧ (t.client i).tier = .operations).map fun i =>
          { group := (t.client i).group, estimate := estimates i }) ∧
        n.view.Perm ((List.finRange Config.peerSlots).filterMap fun k =>
          ((s.slot k).filter fun e => e.inView).map PeerEntry.figures)) ∧
    (s.li.station = .listening ∨ s.li.station = .leaving →
      t.se.pass = s.se.pass ∧ t.tb = { s.tb with cycleBusy := false })

/-! ## Host commands on clients (chapter 6, R146) -/

/-- R108: BAD_STATE before START, BAD_ARGUMENT for an index above 383 or a tier code above 2, NOT_ATTACHED on a FREE
entry; SET_ALLOWANCE ends with BAD_ARGUMENT on an OPERATIONS entry (R146). None of these changes anything else. -/
def Obligations.ClientCommandsAreJudged : Prop :=
  (∀ p ∈ ([(.block, 6), (.unblock, 7), (.setTier, 8), (.setAllowance, 9), (.evict, 10)] : List (Instr × Nat)),
    ∀ s : State, s.commandRuns p.2 = true → ∃ t, Answers p.1 s t ∧
      (s.started = false → EndedOnly .badState s t) ∧
      (s.started = true → 383 < s.mp.taken0.toNat → EndedOnly .badArgument s t) ∧
      (s.started = true → p.1 = .setTier → 2 < s.mp.taken1.toNat → EndedOnly .badArgument s t) ∧
      (∀ i, s.started = true → s.mp.taken0.toNat = i.val → (s.client i).state = .free →
        (p.1 = .setTier → s.mp.taken1.toNat ≤ 2) → EndedOnly .notAttached s t)) ∧
  ∀ (s : State) (i : Fin Config.clientCount), s.commandRuns 9 = true → s.started = true →
    s.mp.taken0.toNat = i.val → (s.client i).state ≠ .free → (s.client i).tier = .operations →
    ∃ t, Answers .setAllowance s t ∧ EndedOnly .badArgument s t

/-- R28, R35, R109: BLOCK sets the flag, returns the grants of an entry that was not blocked, and strikes it.
R34, R110: UNBLOCK clears the flag and the idle count of a blocked entry, and gives an ACTIVE STANDARD or PREMIUM one
join grants. -/
def Obligations.BlockReturnsAndUnblockDrawsGrants : Prop :=
  (∀ (s : State) (i : Fin Config.clientCount), s.commandRuns 6 = true → s.started = true →
    s.mp.taken0.toNat = i.val → (s.client i).state ≠ .free → ∃ t, Answers .block s t ∧
    ((s.client i).blocked = true → t.ct = s.ct ∧ t.se = s.se) ∧
    ((s.client i).blocked = false → Struck i s t ∧
      ∀ d, t.grant d i = 0 ∧ (t.shareDir d).remainder = (s.shareDir d).remainder + s.grant d i) ∧
    t.client i = { s.client i with
      blocked := true
      dirs := ⟨{ (s.client i).dirs.up with grant := t.grant .up i },
        { (s.client i).dirs.down with grant := t.grant .down i }⟩ } ∧
    OthersKept i s t ∧ SharesKept s t ∧ Ended .done s t ∧ t = { s with se := t.se, ct := t.ct, mp := t.mp }) ∧
  ∀ (s : State) (i : Fin Config.clientCount), s.commandRuns 7 = true → s.started = true →
    s.mp.taken0.toNat = i.val → (s.client i).state ≠ .free → ∃ t, Answers .unblock s t ∧
    ((s.client i).blocked = false → t.ct = s.ct ∧ t.se = s.se) ∧
    ((s.client i).blocked = true →
      t.client i = { s.client i with
        blocked := false, idleCount := 0
        dirs := ⟨{ (s.client i).dirs.up with grant := t.grant .up i },
          { (s.client i).dirs.down with grant := t.grant .down i }⟩ } ∧
      ∀ d,
        let join := min s.mp.cfg.joinRate.toNat (s.shareDir d).remainder
        if (s.client i).state = .active ∧ (s.client i).tier ≠ .operations then
          t.grant d i = (if (s.client i).capped = true then min s.mp.cfg.cappedRate.toNat join else join) ∧
            (t.shareDir d).remainder = (s.shareDir d).remainder - t.grant d i
        else t.grant d i = s.grant d i ∧ (t.shareDir d).remainder = (s.shareDir d).remainder) ∧
    t.se.snapshot = s.se.snapshot ∧ OthersKept i s t ∧ SharesKept s t ∧ Ended .done s t ∧
    t = { s with se := t.se, ct := t.ct, mp := t.mp }

/-- R28, R111: SET_TIER in its four cases. -/
def Obligations.SetTierMovesGrants : Prop :=
  ∀ (s : State) (i : Fin Config.clientCount) (tier : Tier), s.commandRuns 8 = true → s.started = true →
    s.mp.taken0.toNat = i.val → s.mp.taken1.toNat = tier.code → (s.client i).state ≠ .free →
    ∃ t, Answers .setTier s t ∧
    let e := s.client i
    (e.tier = tier → t.ct = s.ct ∧ t.se = s.se) ∧
    (e.tier ≠ .operations → tier ≠ .operations → t.client i = { e with tier := tier } ∧ t.se = s.se) ∧
    (e.tier ≠ .operations → tier = .operations → Struck i s t ∧
      ∀ d, t.grant d i = 0 ∧ (t.shareDir d).remainder = (s.shareDir d).remainder + s.grant d i) ∧
    (e.tier = .operations → tier ≠ .operations → t.se.snapshot = s.se.snapshot ∧ ∀ d,
      let join := min s.mp.cfg.joinRate.toNat (s.shareDir d).remainder
      if e.state = .active ∧ e.blocked = false then
        t.grant d i = (if e.capped = true then min s.mp.cfg.cappedRate.toNat join else join) ∧
          (t.shareDir d).remainder = (s.shareDir d).remainder - t.grant d i
      else t.grant d i = s.grant d i ∧ (t.shareDir d).remainder = (s.shareDir d).remainder) ∧
    ((e.tier = .operations ∧ tier ≠ .operations ∨ e.tier ≠ .operations ∧ tier = .operations) →
      t.client i = { e with
        tier := tier
        dirs := ⟨{ e.dirs.up with grant := t.grant .up i, estimate := 0 },
          { e.dirs.down with grant := t.grant .down i, estimate := 0 }⟩ }) ∧
    OthersKept i s t ∧ SharesKept s t ∧ Ended .done s t ∧ t = { s with se := t.se, ct := t.ct, mp := t.mp }

/-- R138, R146: SET_ALLOWANCE on a STANDARD or PREMIUM entry loads the counter and clears CAPPED. -/
def Obligations.SetAllowanceLoadsTheCounter : Prop :=
  ∀ (s : State) (i : Fin Config.clientCount), s.commandRuns 9 = true → s.started = true →
    s.mp.taken0.toNat = i.val → (s.client i).state ≠ .free → (s.client i).tier ≠ .operations →
    ∃ t, Answers .setAllowance s t ∧
    t.client i = { s.client i with
      capped := false, allowance := s.mp.taken1
      volume := if s.mp.taken1 = 0 then 0 else BitVec.ofNat 40 (2 ^ 40 - s.mp.taken1.toNat * 1048576) } ∧
    OthersKept i s t ∧ Ended .done s t ∧ t = { s with ct := t.ct, mp := t.mp }

/-- R57, R112, R190: READ_CLIENT and READ_PEER copy into the snapshot window in every station state, and change nothing
else; what does not exist is refused. The words of Table 12-3 are written out, and those it does not assign are 0. What
page 0 shows of a FREE entry is the model's reading (log 21). -/
def Obligations.ReadCommandsCopyIntoTheWindow : Prop :=
  let word (t : State) (k : Nat) : Nat := (t.mp.window.toList.getD k 0).toNat
  let long (t : State) (k : Nat) : Nat := word t k + 65536 * word t (k + 1)
  let readDone (s t : State) : Prop := t = { s with mp := { s.mp with
    running := false, outcome := .done, window := t.mp.window, flags := s.mp.flags ||| BitVec.twoPow 16 14 } }
  (∀ (s : State) (i : Fin Config.clientCount), s.commandRuns 11 = true → s.mp.taken0.toNat = i.val →
    s.mp.taken1 = 0 → ∃ t, Answers .readClient s t ∧ readDone s t ∧
      let e := s.client i
      word t 0 % 4 = (match e.state with
        | .free => 0
        | .active => 1
        | .idle => 2) ∧
      word t 0 / 4 % 4 = (match e.tier with
        | .standard => 0
        | .premium => 1
        | .operations => 2) ∧
      (word t 0).testBit 4 = e.blocked ∧ (word t 0).testBit 5 = e.capped ∧
      (word t 0).testBit 6 = decide (e.state ≠ .free) ∧ (word t 0).testBit 7 = e.selector ∧
      (word t 0).testBit 8 = decide (e.allowance = 0) ∧ word t 0 < 512 ∧ word t 1 = i.val ∧
      word t 2 = e.port.toNat + 4096 * e.group.toNat ∧ long t 3 = e.attachEpoch.toNat ∧
      word t 5 = e.idleCount % 65536 ∧ long t 6 + 2 ^ 32 * word t 8 = e.volume.toNat ∧
      word t 9 = e.allowance.toNat ∧ long t 10 = e.dropped % 2 ^ 32 ∧ ∀ k, 12 ≤ k → word t k = 0) ∧
  (∀ (s : State) (i : Fin Config.clientCount) (d : Dir), s.commandRuns 11 = true → s.mp.taken0.toNat = i.val →
    s.mp.taken1 = (match d with
      | .up => 1
      | .down => 2) → ∃ t, Answers .readClient s t ∧ readDone s t ∧
      let e := s.client i
      let x := e.dir d
      word t 0 = x.grant % 65536 ∧ long t 1 = x.committed % 2 ^ 32 ∧ long t 3 = x.excess % 2 ^ 32 ∧
      long t 5 = x.committedDepth % 2 ^ 32 ∧ long t 7 = x.excessDepth % 2 ^ 32 ∧ word t 9 = x.estimate % 65536 ∧
      long t 10 = e.activeBytes d % 2 ^ 32 ∧ long t 12 + 2 ^ 32 * (word t 14 % 256) = (e.admitted.get d).toNat ∧
      word t 15 + 65536 * (word t 14 / 256) = x.refillStamp.toNat) ∧
  (∀ s : State, s.commandRuns 11 = true → (383 < s.mp.taken0.toNat ∨ 2 < s.mp.taken1.toNat) →
    ∃ t, Answers .readClient s t ∧ EndedOnly .badArgument s t) ∧
  (∀ (s : State) (k : Fin Config.peerSlots), s.commandRuns 12 = true → s.mp.taken0.toNat = k.val →
    ∃ t, Answers .readPeer s t ∧ readDone s t ∧
      (s.slot k = none → ∀ j, word t j = 0) ∧
      ∀ e, s.slot k = some e →
        (word t 0).testBit 0 = true ∧ (word t 0).testBit 1 = e.gateway ∧ (word t 0).testBit 2 = e.stale ∧
        (word t 0).testBit 3 = e.purge ∧ (word t 0).testBit 4 = e.inView ∧ word t 0 / 32 % 8 = 0 ∧
        word t 0 / 256 % 16 = e.set.toNat ∧ word t 0 / 4096 = e.cycle.toNat ∧ word t 1 = e.station.toNat ∧
        word t 2 = e.epochLength % 65536 ∧
        (e.silence < 256 → e.limit < 256 → word t 3 % 256 = e.silence ∧ word t 3 / 256 = e.limit) ∧
        (∀ p ∈ ([(4, e.figures.up), (8, e.figures.down)] : List (Nat × Figures)),
          word t p.1 = p.2.demand % 65536 ∧ word t (p.1 + 1) = p.2.weight % 65536 ∧
          word t (p.1 + 2) = p.2.reserve % 65536 ∧ word t (p.1 + 3) = p.2.uplink % 65536) ∧
        ∀ j, 12 ≤ j → word t j = 0) ∧
  ∀ s : State, s.commandRuns 12 = true → 29 < s.mp.taken0.toNat →
    ∃ t, Answers .readPeer s t ∧ EndedOnly .badArgument s t

/-! ## Peer table (chapter 3) -/

/-- R52 to R54: a COMPOSITION edge marks every entry for purge, or in LINE_FAULT sets the pending edge marker.
R55: an uplink write on a gateway station, and its refusal elsewhere, out of reset. -/
def Obligations.CompositionEdgesAndUplinkWrites : Prop :=
  (∀ s : State, s.started = true → s.pt.settle = 10 → ∃ t, Answers .compositionEdge s t ∧
    (s.li.station ≠ .lineFault → t.pt.pendingEdge = s.pt.pendingEdge ∧
      ∀ k, t.slot k = (s.slot k).map fun e => { e with silence := e.limit - 1, purge := true }) ∧
    (s.li.station = .lineFault → t.pt.slots = s.pt.slots ∧ t.pt.pendingEdge = true) ∧
    t.pt = { s.pt with
      slots := t.pt.slots, pendingEdge := t.pt.pendingEdge, debounced := s.composition, settle := 0 } ∧
    t = { s with pt := t.pt }) ∧
  (∀ (d : Dir) (v : Word) (s : State), s.resetLow = false → s.mp.cfg.gateway = 1 →
    ∃ t, Answers (.uplinkWrite d v) s t ∧
    t.pt.heldUplink.get d = min 16383 v.toNat ∧
    (∀ d', d' ≠ d → t.pt.heldUplink.get d' = s.pt.heldUplink.get d') ∧
    t = { s with pt := { s.pt with heldUplink := t.pt.heldUplink, staleCount := 0, stale := false } }) ∧
  ∀ (d : Dir) (v : Word) (s : State), s.resetLow = false → s.mp.cfg.gateway ≠ 1 →
    ∃ t, Answers (.uplinkWrite d v) s t ∧
    t = { s with mp := { s.mp with
      refused := some (.notGateway, if d = .up then 0x03 else 0x04), flags := s.mp.flags ||| BitVec.twoPow 16 15 } }

/-- R42 to R47, R50, R51: what the peer table makes of a notice: duplicate, update, new station, replacement, a full table,
and a leaving station. Each case gives the whole entry stored and its view changes: VIEW_CHANGED, and the VIEW record
where enabled, with the view size after the change. -/
def Obligations.PeerTableTakesNotices : Prop :=
  ∀ (n : Notice) (s : State), PeersOk s →
    let entry : PeerEntry :=
      { station := n.station, set := n.set, cycle := n.cycle, epochLength := n.epochLength, gateway := n.gateway
        stale := n.stale, figures := n.figures, silence := 0, purge := false
        limit := s.mp.cfg.peerTimeout.toNat *
          ((n.epochLength + s.mp.cfg.epochLength.toNat - 1) / s.mp.cfg.epochLength.toNat)
        inView := decide (s.mp.cfg.scope = 0 ∨ n.set.toNat = s.mp.cfg.setId.toNat) }
    let size := ((List.finRange Config.peerSlots).filterMap fun k => (s.slot k).filter fun e => e.inView).length
    let changed (station : Word) (set : BitVec 4) (change : ViewChange) (size : Nat) (u : State) : State :=
      let v := raise .viewChanged u
      if s.mp.cfg.recordEnables.getLsbD 1 = true then offerRecord (.view station set change s.tb.epoch size) v else v
    let without (k : Fin Config.peerSlots) (e : PeerEntry) (change : ViewChange) : State :=
      if e.inView = true then changed e.station e.set change (size - 1) (s.setSlot k none) else s.setSlot k none
    let stored (k : Fin Config.peerSlots) (size : Nat) (u : State) : State :=
      if entry.inView = true then changed n.station n.set .joined (size + 1) (u.setSlot k (some entry))
      else u.setSlot k (some entry)
    let t := takeNotice n s
    (∀ k e, s.slot k = some e → e.station = n.station → n.leaving = false → e.cycle = n.cycle →
      t = s.setSlot k (some { e with silence := 0, purge := false })) ∧
    (∀ k e, s.slot k = some e → e.station = n.station → n.leaving = false → e.cycle ≠ n.cycle →
      t = (if e.inView = true ∧ entry.inView = false then
          changed e.station e.set .left (size - 1) (s.setSlot k (some entry))
        else if e.inView = false ∧ entry.inView = true then
          changed n.station n.set .joined (size + 1) (s.setSlot k (some entry))
        else s.setSlot k (some entry))) ∧
    (∀ k e, s.slot k = some e → e.station = n.station → n.leaving = true → t = without k e .left) ∧
    ((∀ k e, s.slot k = some e → e.station ≠ n.station) → n.leaving = true → t = s) ∧
    ((∀ k e, s.slot k = some e → e.station ≠ n.station) → n.leaving = false →
      (∀ k, s.slot k = none → (∀ j, j < k → s.slot j ≠ none) → t = stored k size s) ∧
      ((∀ k, ∃ e, s.slot k = some e ∧ e.silence = 0) → t = raise .peerTableFull s) ∧
      (∀ k e, (∀ j, s.slot j ≠ none) → s.slot k = some e → 1 ≤ e.silence →
        (∀ j f, s.slot j = some f → f.silence ≤ e.silence ∧ (j < k → f.silence < e.silence)) →
        t = stored k (if e.inView = true then size - 1 else size) (without k e .replaced)))

/-! ## Notices and frames (chapter 4) -/

/-- R60 to R63, R66, R68, R71: the receiver's judgement of the part's own notices gives back what they announce. -/
def Obligations.OwnNoticesReadBack : Prop :=
  ∀ s : State, s.mp.cfg.firstInvalid = none →
    (∀ d, (s.shareDir d).ownDemand ≤ 65535 ∧ (s.shareDir d).ownWeight ≤ 65535 ∧ (s.shareDir d).ownReserve ≤ 65535 ∧
      s.uplinkInForce d ≤ 65535) →
    let read (bytes : List Byte) :=
      judgeFrame (bytes.take (bytes.length - 2))
        (ofBytes (bytes.getD (bytes.length - 2) 0) (bytes.getD (bytes.length - 1) 0))
    let figures (d : Dir) : Figures :=
      { demand := (s.shareDir d).ownDemand, weight := (s.shareDir d).ownWeight, reserve := (s.shareDir d).ownReserve,
        uplink := s.uplinkInForce d }
    let header : Notice :=
      { station := s.mp.cfg.stationId, set := BitVec.ofNat 4 s.mp.cfg.setId.toNat, cycle := s.li.cycle,
        epochLength := s.mp.cfg.epochLength.toNat, gateway := s.mp.cfg.gateway == 1, leaving := false,
        stale := s.mp.cfg.gateway == 1 && s.pt.stale, figures := ⟨figures .up, figures .down⟩ }
    read s.regularNotice = some header ∧
    read s.leavingNotice = some { header with leaving := true, stale := false, figures := ⟨Figures.zero, Figures.zero⟩ } ∧
    s.regularNotice.length ≤ 35 ∧ s.leavingNotice.length = 9

/-- R73: the clamps on a notice, which is delivered clamped. -/
def Obligations.ReceivedFiguresAreClamped : Prop :=
  ∀ (n : Notice) (d : Dir),
    let f := n.figures.get d
    let g := n.clamp.figures.get d
    g.demand = f.demand ∧ g.reserve = min 16383 f.reserve ∧
    g.weight = (if f.demand = 0 then 0 else if f.weight = 0 then 1 else min 8191 f.weight) ∧
    g.uplink = (if n.gateway = true then min 16383 f.uplink else 0) ∧
    n.clamp.stale = (n.gateway && n.stale) ∧ (g.weight = 0 ↔ g.demand = 0) ∧
    n.clamp = { n with figures := n.clamp.figures, stale := n.clamp.stale } ∧
    ∀ s : State, n.station ≠ s.mp.cfg.stationId → deliverNotice n s = takeNotice n.clamp s

/-- R71, R74, R81: the second CRC byte, as a row of its own or as a byte received (log 18). A discarded frame leaves no trace
outside the receiver and the line monitor; a valid one goes to the peer table, or is an ID conflict. The line interface is
otherwise as the levels with the byte leave it; they are not compared with the byte (log 30).
R61 to R63, R71, R72: when a frame is valid and what it says. Its check is the CRC, the register of which is written out;
station id and epoch length are in range; its list is items of Table 4-2 and END behind them. Each invalid list of R72 is
named as well. -/
def Obligations.FrameIsJudgedAtItsLastByte : Prop :=
  (∀ (check : Byte) (line : List LineLevel) (s : State), s.started = true → s.li.expectsCheck = true →
    ∃ t, Answers (.frameReceived check line) s t ∧ Answers (.lineByteReceived check line) s t ∧
    let frame := judgeFrame s.li.rxBytes.dropLast (ofBytes (s.li.rxBytes.getLastD 0) check)
    let l := (s.passLevels line).li
    let waiting : LineInterface :=
      { l with
        rx := if l.carrierIdle = true then .ready else .waitIdle, rxBytes := [], rxExpected := t.li.rxExpected
        readback := false }
    (frame = none → t = { s with li := waiting }) ∧
    (∀ n, frame = some n → n.station ≠ s.mp.cfg.stationId → t = { takeNotice n.clamp s with li := waiting }) ∧
    (∀ n, frame = some n → n.station = s.mp.cfg.stationId →
      t = { s with li := t.li, mp := { s.mp with flags := s.mp.flags ||| BitVec.twoPow 16 2 } } ∧
      (s.li.station = .listening ∨ s.li.station = .active ∨ s.li.station = .leaving →
        t.li = { waiting with
          conflict := true, station := .silent, tx := .idle, notice := none, attempts := 0
          jitterLeft := t.li.jitterLeft, backoffSlots := t.li.backoffSlots }) ∧
      (s.li.station = .silent → t.li = { waiting with conflict := true }))) ∧
  (let step (r : Word) : Word := if r.getLsbD 15 = true then (r <<< 1) ^^^ 0x1021 else r <<< 1
   crc [] = 0xFFFF ∧
   (∀ (body : List Byte) (b : Byte),
    crc (body ++ [b]) = (List.range 8).foldl (fun r _ => step r) (crc body ^^^ (b.setWidth 16 <<< 8))) ∧
   crc [0x31, 0x32, 0x33, 0x34, 0x35, 0x36, 0x37, 0x38, 0x39] = 0x29B1) ∧
  (∀ (length idLow idHigh setCycle flags epoch : Byte) (list : List Byte) (check : Word) (n : Notice),
    let body := [length, idLow, idHigh, setCycle, flags, epoch] ++ list
    let station := idLow.toNat + 256 * idHigh.toNat
    judgeFrame body check = some n ↔
      check = crc body ∧ 1 ≤ station ∧ station ≤ 65534 ∧ 5 ≤ epoch.toNat ∧ epoch.toNat ≤ 100 ∧
      ∃ items, list = items.flatMap ListItem.bytes ++ [0x00] ∧
        n = { station := BitVec.ofNat 16 station, set := BitVec.ofNat 4 (setCycle.toNat / 16)
              cycle := BitVec.ofNat 4 setCycle.toNat, epochLength := 10 * epoch.toNat, gateway := flags.getLsbD 0
              leaving := flags.getLsbD 1, stale := flags.getLsbD 2
              figures := ⟨listedFigures items .up, listedFigures items .down⟩ }) ∧
  ∀ (header rest : List Byte) (check : Word) (items : List ListItem), header.length = 6 →
    let discarded (tail : List Byte) : Prop :=
      judgeFrame (header ++ items.flatMap ListItem.bytes ++ tail) check = none
    (∀ code : Byte, 4 < code.toNat → discarded (code :: rest)) ∧
    (discarded [0x01] ∧ (rest.length < 4 → discarded (0x02 :: rest)) ∧
      (rest.length < 2 → discarded (0x03 :: rest) ∧ discarded (0x04 :: rest))) ∧
    (∀ dir : Byte, 1 < dir.toNat → discarded (0x01 :: dir :: rest)) ∧
    discarded [] ∧
    (rest ≠ [] → discarded (0x00 :: rest))

/-- R69 to R71: a byte at the receiver, other than the last of a frame. The frame that begins with an attempt is the own
readback, whether or not the attempt still drives the line; where the attempt's first bit time has read recessive none has
begun, and the next frame is taken. That the readback is told by a marker, which the attempt sets, and which that bit time or the
end of the frame at the receiver clears, is the model's reading (log 20); that the byte is the row's, whatever the levels
spell, is its choice (log 30). -/
def Obligations.BytesBuildTheFrame : Prop :=
  ∀ (b : Byte) (line : List LineLevel) (s : State), s.started = true → s.li.expectsCheck = false →
    ∃ t, Answers (.lineByteReceived b line) s t ∧
    let l := (s.passLevels line).li
    let waiting : RxState := if l.carrierIdle = true then .ready else .waitIdle
    let readback : Prop := s.li.readback = true ∧ ¬ (s.li.carrierIdle = true ∧ line.head? = some .recessive)
    (l.readback = true ↔ readback) ∧
    (s.li.rx = .off ∨ s.li.rx = .waitIdle → t.li = l) ∧
    (s.li.rx = .ready → ¬ readback → s.li.tx ≠ .sending → b = 0xD5 →
      t.li.rx = .receiving ∧ t.li.rxBytes = [] ∧ t.li.readback = false) ∧
    (s.li.rx = .ready → (readback ∨ s.li.tx = .sending ∨ b ≠ 0xD5) →
      t.li.rx = waiting ∧ t.li.rxBytes = [] ∧ t.li.readback = false) ∧
    (s.li.rx = .receiving → s.li.rxBytes = [] → 6 ≤ b.toNat → b.toNat ≤ 60 →
      t.li.rx = .receiving ∧ t.li.rxBytes = [b] ∧ t.li.rxExpected = b.toNat + 2 ∧ t.li.readback = l.readback) ∧
    (s.li.rx = .receiving → s.li.rxBytes = [] → (b.toNat < 6 ∨ 60 < b.toNat) →
      t.li.rx = waiting ∧ t.li.rxBytes = [] ∧ t.li.readback = false) ∧
    (s.li.rx = .receiving → s.li.rxBytes ≠ [] →
      t.li.rx = .receiving ∧ t.li.rxBytes = s.li.rxBytes ++ [b] ∧ t.li.rxExpected = s.li.rxExpected - 1 ∧
        t.li.readback = l.readback) ∧
    t = { s with li := { l with
      rx := t.li.rx, rxBytes := t.li.rxBytes, rxExpected := t.li.rxExpected, readback := t.li.readback } }

/-! ## Line access and supervision (chapter 5) -/

/-- R82, R83, R91, R93: what each bit time of the line counts. R71, R83: idle reports, busy periods and framing errors at the
receiver, each row when it is due; one that is not due counts its levels alone (log 1), and an event that no row takes while
it is due is passed over (log 31). That the levels come with the rows,
and that a byte's start bit needs a recessive bit time before it since START, are the model's (log 5), and so is that a
framing error's row acts whatever its levels show (log 30), and that the readback marker goes where an idle line shows a
recessive bit time behind an attempt's start (log 20). A dominant bit time sets the restoration count to 0, but where
that count has reached E: a restoration that is due stays due, which is the model's choice (log 3). -/
def Obligations.CarrierSenseDrivesTheReceiver : Prop :=
  ((∀ s : State, s.passLevels [] = s) ∧
  (∀ (line : List LineLevel) (b : LineLevel) (s : State), s.passLevels (line ++ [b]) = (s.passLevels line).passLevels [b]) ∧
  (∀ s : State, s.passLevels [.dominant] = { s with li := { s.li with
    carrierIdle := false, recessive := 0, busyLength := min 761 (s.li.busyLength + 1)
    runLength := min 4095 (s.li.runLength + 1)
    byteLeft := if s.li.byteLeft ≠ 0 then s.li.byteLeft - 1 else if s.li.afterRecessive = true then 9 else 0
    afterRecessive := false
    restoration := if s.li.station = .lineFault ∧ s.li.restoration < s.mp.cfg.epochLength.toNat then 0
      else s.li.restoration } }) ∧
  ∀ s : State, s.passLevels [.recessive] = { s with li := { s.li with
    recessive := if s.li.byteLeft = 0 then min 16 (s.li.recessive + 1) else s.li.recessive
    busyLength := if s.li.busyLength = 0 then 0 else min 761 (s.li.busyLength + 1)
    runLength := 0, byteLeft := s.li.byteLeft - 1, afterRecessive := true
    readback := s.li.readback && !s.li.carrierIdle } }) ∧
  (∀ (line : List LineLevel) (s : State), s.started = true → ∃ t, Answers (.carrierIdle line) s t ∧
    let l := (s.passLevels line).li
    (l.recessive = 16 → l.carrierIdle = false →
      t.li.rx = (if l.rx = .off then .off else .ready) ∧ (l.rx ≠ .off → t.li.rxBytes = []) ∧
      t = { s with li := { l with
        carrierIdle := true, busyLength := 0, rx := t.li.rx, rxBytes := t.li.rxBytes, rxExpected := t.li.rxExpected
        readback := if l.rx = .off then l.readback else false } }) ∧
    ((l.recessive ≠ 16 ∨ l.carrierIdle = true) → t = s.passLevels line)) ∧
  (∀ (line : List LineLevel) (s : State), s.started = true → ∃ t, Answers (.busyPeriodStart line) s t ∧
    ((s.passLevels line).li.busyLength = 0 → t = s.passLevels (line ++ [.dominant]) ∧ t.li.carrierIdle = false ∧
      t.li.busyLength = 1) ∧
    ((s.passLevels line).li.busyLength ≠ 0 → t = s.passLevels line)) ∧
  ∀ (line : List LineLevel) (s : State), s.started = true →
    ∀ c ∈ ([.busyPeriodLimit line, .framingError line] : List Instr), ∃ t, Answers c s t ∧
    let l := (s.passLevels line).li
    (c = .framingError line ∨ l.busyLength = 761 →
      t.li.rx = (if l.rx = .ready ∨ l.rx = .receiving then (if l.carrierIdle = true then .ready else .waitIdle) else l.rx) ∧
      (l.rx = .receiving → t.li.rxBytes = []) ∧
      t = { s with li := { l with
        rx := t.li.rx, rxBytes := t.li.rxBytes, rxExpected := t.li.rxExpected
        readback := if l.rx = .ready ∨ l.rx = .receiving then false else l.readback } }) ∧
    (c = .busyPeriodLimit line → l.busyLength ≠ 761 → t = s.passLevels line)

/-- R86 to R88: the ends of jitter and backoff, the start of an attempt, whose frame is the own readback (R70; the marker is
log 20's), and a notice sent. That a mismatch or a sent notice is what its row says, whatever levels the line shows, is the
model's choice (log 30), and so is what an attempt's row does that is not due (log 1). R82, R87: the levels that an
attempt drives, ten bit times a byte.
R78, R85, R88: a failed attempt draws its backoff from the low min(k, 5) bits of the next value of the generator; the
eighth abandons the notice. -/
def Obligations.TransmitterSendsOrBacksOff : Prop :=
  ((∀ s : State, s.li.tx = .jitter → s.li.jitterLeft = 0 → ∃ t, Answers .jitterExpiry s t ∧
    t = { s with li := { s.li with tx := .defer } }) ∧
  (∀ (line : List LineLevel) (s : State), s.started = true → s.li.tx = .defer →
    (s.passLevels line).li.carrierIdle = true → ∃ t, Answers (.attemptStart line) s t ∧
    t.drivenFrame = s.li.notice.map (fun bytes => 0xD5 :: bytes) ∧
    t.drivenLevels = s.li.notice.map (fun bytes => (0xD5 :: bytes).flatMap fun b : Byte =>
      .dominant :: (List.ofFn fun k : Fin 8 => if b.getLsbD k.val = true then .recessive else .dominant) ++ [.recessive]) ∧
    t = { s with li := { (s.passLevels line).li with
      tx := .sending, attempts := s.li.attempts + 1, readback := true } }) ∧
  (∀ (line : List LineLevel) (s : State), s.started = true →
    s.li.tx ≠ .defer ∨ (s.passLevels line).li.carrierIdle = false → Answers (.attemptStart line) s (s.passLevels line)) ∧
  (∀ s : State, s.li.tx ≠ .sending → s.drivenLevels = none) ∧
  (∀ s : State, s.li.tx = .backoff → ∃ t, Answers .backoffExpiry s t ∧
    t = { s with li := { s.li with tx := .defer, backoffSlots := t.li.backoffSlots } }) ∧
  ∀ s : State, s.li.tx = .sending → ∃ t, Answers .noticeSent s t ∧
    t = { s with li := { s.li with
      tx := .idle, notice := none, attempts := 0, jitterLeft := t.li.jitterLeft, backoffSlots := t.li.backoffSlots
      station := if s.li.station = .leaving then .silent else s.li.station } }) ∧
  (∀ s : State, s.li.tx = .sending → s.li.attempts ≤ 7 → ∃ t, Answers .readbackMismatch s t ∧
    t.li.random = stepRandom s.li.random ∧ t.li.backoffSlots = t.li.random.toNat % 2 ^ min s.li.attempts 5 ∧
    t.li.tx = (if t.li.backoffSlots = 0 then .defer else .backoff) ∧
    t = { s with li := { s.li with random := t.li.random, backoffSlots := t.li.backoffSlots, tx := t.li.tx } }) ∧
  (∀ s : State, s.li.tx = .sending → s.li.attempts = 8 → ∃ t, Answers .readbackMismatch s t ∧
    t.li = { s.li with
      tx := .idle, notice := none, attempts := 0, jitterLeft := t.li.jitterLeft, backoffSlots := t.li.backoffSlots
      station := if s.li.station = .leaving then .silent else s.li.station } ∧
    t = { s with li := t.li, mp := { s.mp with flags := s.mp.flags ||| BitVec.twoPow 16 5 } }) ∧
  ∀ r : BitVec 16, r ≠ 0 →
    stepRandom r = (if r.getLsbD 0 = true then (r >>> 1) ^^^ 0xB400 else r >>> 1) ∧ stepRandom r ≠ 0

/-- R54, R69, R90 to R92: a stuck line puts the station in LINE_FAULT; a longer run sets the overflow marker, in every station
state from START on. Each row acts when it is due, on the counts of the levels it brings; one that is not due counts its
levels alone (log 1, log 5), and a run whose length no row takes while it lasts is passed over (log 31).
R54, R93: restoration. What the restoration count holds after it is the model's choice (log 26) and not stated. -/
def Obligations.LineFaultIsEnteredAndRestored : Prop :=
  ((∀ (line : List LineLevel) (s : State), s.started = true → ∃ t, Answers (.stuckLine line) s t ∧
    let l := (s.passLevels line).li
    (2000 ≤ l.runLength → s.li.station ≠ .lineFault →
      t.li = { l with
        station := .lineFault, remembered := if s.li.station = .leaving then .silent else s.li.station
        rx := .off, rxBytes := [], rxExpected := t.li.rxExpected, readback := false, tx := .idle, notice := none, attempts := 0
        jitterLeft := t.li.jitterLeft, backoffSlots := t.li.backoffSlots, restoration := 0 } ∧
      t = { s with li := t.li, mp := { s.mp with flags := s.mp.flags ||| BitVec.twoPow 16 3 } }) ∧
    ((l.runLength < 2000 ∨ s.li.station = .lineFault) → t = s.passLevels line)) ∧
  ∀ (line : List LineLevel) (s : State), s.started = true → ∃ t, Answers (.runLengthOverflow line) s t ∧
    let l := (s.passLevels line).li
    (l.runLength = 4095 → t = { s with li := { l with overflow := true } }) ∧
    (l.runLength ≠ 4095 → t = s.passLevels line)) ∧
  ∀ s : State, s.li.station = .lineFault → s.mp.cfg.epochLength.toNat ≤ s.li.restoration →
    ∃ t, Answers .lineRestoration s t ∧
    t.li = { s.li with
      station := s.li.remembered, remembered := .unconfigured
      rx := if s.li.carrierIdle = true then .ready else .waitIdle, rxBytes := [], rxExpected := t.li.rxExpected
      readback := false, tx := .idle, notice := none, attempts := 0, jitterLeft := t.li.jitterLeft, backoffSlots := t.li.backoffSlots
      overflow := false, runLength := 0, restoration := t.li.restoration } ∧
    t.pt.pendingEdge = false ∧
    (∀ k, t.slot k = if s.pt.pendingEdge = true then
        (s.slot k).map fun e => { e with silence := e.limit - 1, purge := true }
      else s.slot k) ∧
    t.pt = { s.pt with slots := t.pt.slots, pendingEdge := false } ∧
    t = { s with li := t.li, pt := t.pt, mp := { s.mp with flags := s.mp.flags ||| BitVec.twoPow 16 4 } }

/-! ## Metering port (chapter 7) -/

/-- R119, R121, R122: a record that its strobe starts and its sixth byte completes, low byte first, is accepted or refused;
bytes without a strobe are ignored; the fields and kinds of Tables 7-1 and 7-2; and a refusal sent. That the bytes of a
record reach the part with two rows, the second of no effect on the beginning of another record, and out of reset, is the
model's choice (log 15, log 28). -/
def Obligations.RequestsAreAcceptedOrRefused : Prop :=
  (∀ (b : Byte) (more : List Byte) (s : State), s.resetLow = false → more.length ≤ 4 →
    ∃ t, Answers (.recordStartStrobe b more) s t ∧ t = { s with me := { s.me with partialRecord := b :: more } }) ∧
  (∀ (tag code c0 c1 a0 a1 : Byte) (rest : List Byte) (s : State), s.resetLow = false → rest ≠ [] →
    s.me.partialRecord ++ rest = [tag, code, c0, c1, a0, a1] → s.me.partialRecord ≠ [] →
    (s.started = true → s.me.queue.length < 32 → ∃ t, Answers (.requestPresented tag code (c0, c1) (a0, a1)) s t ∧
      t = { s with me := { s.me with partialRecord := [], queue := s.me.queue ++ [⟨tag, code, c1 ++ c0, a1 ++ a0⟩] } }) ∧
    ((s.started = false ∨ 32 ≤ s.me.queue.length) → s.me.refusal = none →
      ∃ t, Answers (.requestPresented tag code (c0, c1) (a0, a1)) s t ∧ t = { s with me := { s.me with
        partialRecord := []
        refusal := some ⟨tag, if s.started = false then .notReady else .busy, .none, code⟩ } })) ∧
  (∀ (tag code c0 c1 a0 a1 : Byte) (s : State),
    (s.me.partialRecord = [] ∨ ∀ rest, rest ≠ [] → s.me.partialRecord ++ rest ≠ [tag, code, c0, c1, a0, a1]) →
    Answers (.requestPresented tag code (c0, c1) (a0, a1)) s s) ∧
  (∀ r : Request, r.index = r.client.toNat % 512 ∧ r.length = r.argument.toNat % 16384 ∧
    r.port.toNat = r.argument.toNat % 4096 ∧ r.group.toNat = r.argument.toNat / 4096 % 8) ∧
  (∀ code : Byte, requestKind code = (match code.toNat with
    | 1 => .meter .up
    | 2 => .meter .down
    | 3 => .attach .standard
    | 4 => .attach .premium
    | 5 => .attach .operations
    | 6 => .move
    | 7 => .detach
    | _ => .unknown)) ∧
  ∀ (s : State) (p : Response), s.me.refusal = some p → ∃ t, Answers .refusalSent s t ∧
    t = { s with me := { s.me with refusal := none, lane := some p } }

/-- R120, R122, R124: a request that fails a check is answered REFUSED and touches nothing but the queue and the lane. R120:
the four bytes of a response record, with the codes of Table 7-3. -/
def Obligations.ChecksRefuseRequests : Prop :=
  (∀ p : Response, p.bytes = [
    p.tag,
    (match p.outcome with
      | .pass => 1
      | .mark => 2
      | .drop => 3
      | .done => 4
      | .refused => 5
      | .busy => 6
      | .notReady => 7),
    (match p.reason with
      | .none => 0
      | .metered => 1
      | .exempt => 2
      | .unshared => 3
      | .blocked => 4
      | .same => 5
      | .inUse => 6
      | .badPoint => 7
      | .badIndex => 8
      | .badLength => 9
      | .notAttached => 10
      | .badKind => 11),
    p.code]) ∧
  ∀ (s : State) (r : Request), s.turnHead = some r →
    (requestKind r.code = .unknown → ∃ t, Answers .unknownRequest s t ∧
      t = { s with me := { s.me with
        queue := s.me.queue.tail, lane := some ⟨r.tag, .refused, .badKind, r.code⟩ } }) ∧
    (∀ p ∈ ([(.meter .up, .meter), (.meter .down, .meter), (.attach .standard, .attach), (.attach .premium, .attach),
        (.attach .operations, .attach), (.move, .move), (.detach, .detach)] : List (RequestKind × Instr)),
      requestKind r.code = p.1 → 384 ≤ r.index → ∃ t, Answers p.2 s t ∧
        t = { s with me := { s.me with
          queue := s.me.queue.tail, lane := some ⟨r.tag, .refused, .badIndex, r.code⟩ } }) ∧
    (∀ d, requestKind r.code = .meter d → r.index < 384 → r.length = 0 → ∃ t, Answers .meter s t ∧
      t = { s with me := { s.me with
        queue := s.me.queue.tail, lane := some ⟨r.tag, .refused, .badLength, r.code⟩ } })

/-- R97, R129, R134, R138: ATTACH on a FREE entry. -/
def Obligations.AttachMakesAFreeEntryActive : Prop :=
  ∀ (s : State) (r : Request) (tier : Tier) (i : Fin Config.clientCount), s.turnHead = some r →
    requestKind r.code = .attach tier → r.index = i.val → (s.client i).state = .free →
    r.group.toNat < s.mp.cfg.groupCount.toNat → ∃ t, Answers .attach s t ∧
    t.me = { s.me with queue := s.me.queue.tail, lane := some ⟨r.tag, .done, .none, r.code⟩ } ∧
    t.client i = { ClientEntry.free with
      state := .active, tier := tier, group := r.group, port := r.port, attachEpoch := s.tb.epoch
      allowance := s.mp.cfg.defaultAllowance, volume := (t.client i).volume, dirs := (t.client i).dirs } ∧
    (t.client i).volume = (if s.mp.cfg.defaultAllowance = 0 then 0
      else BitVec.ofNat 40 (2 ^ 40 - s.mp.cfg.defaultAllowance.toNat * 1048576)) ∧
    (∀ d,
      let join := if tier = .operations then 0 else min s.mp.cfg.joinRate.toNat (s.shareDir d).remainder
      let depth := if tier = .operations then 0 else max 2048 (2 * join * s.mp.cfg.burstMs.toNat)
      (t.client i).dir d = { ClientDir.zero with
        grant := join, committed := depth, excess := depth, committedDepth := depth, excessDepth := depth
        refillStamp := s.tb.stamp } ∧
      (t.shareDir d).remainder = (s.shareDir d).remainder - join) ∧
    t.se.snapshot = s.se.snapshot ∧ OthersKept i s t ∧ SharesKept s t ∧ t = { s with me := t.me, se := t.se, ct := t.ct }

/-- R97 to R100: ATTACH and MOVE on an attached entry, MOVE and DETACH on a FREE one, and groups that do not exist. -/
def Obligations.AttachmentAnswers : Prop :=
  ∀ (s : State) (r : Request) (i : Fin Config.clientCount), s.turnHead = some r → r.index = i.val →
    let answered (o : RspOutcome) (why : Reason) : State :=
      { s with me := { s.me with queue := s.me.queue.tail, lane := some ⟨r.tag, o, why, r.code⟩ } }
    let here := (s.client i).group = r.group ∧ (s.client i).port = r.port
    let exists' := r.group.toNat < s.mp.cfg.groupCount.toNat
    (∀ tier, requestKind r.code = .attach tier → ¬ exists' → Answers .attach s (answered .refused .badPoint)) ∧
    (∀ tier, requestKind r.code = .attach tier → exists' → (s.client i).state ≠ .free → here →
      Answers .attach s (answered .done .same)) ∧
    (∀ tier, requestKind r.code = .attach tier → exists' → (s.client i).state ≠ .free → ¬ here →
      Answers .attach s (answered .refused .inUse)) ∧
    (requestKind r.code = .move → ¬ exists' → Answers .move s (answered .refused .badPoint)) ∧
    (requestKind r.code = .move → exists' → (s.client i).state = .free → Answers .move s (answered .refused .notAttached)) ∧
    (requestKind r.code = .move → exists' → (s.client i).state ≠ .free → here → Answers .move s (answered .done .same)) ∧
    (requestKind r.code = .move → exists' → (s.client i).state ≠ .free → ¬ here → ∃ t, Answers .move s t ∧
      t.client i = { s.client i with group := r.group, port := r.port } ∧ OthersKept i s t ∧
      t = { answered .done .none with ct := t.ct }) ∧
    (requestKind r.code = .detach → (s.client i).state = .free → Answers .detach s (answered .refused .notAttached))

/-- R28, R35, R100: DETACH of an attached client frees the entry, returns its grants and strikes it.
R35, R100: EVICT frees the entry, returns its grants and strikes it. In both a FINAL record is offered first: what the log
writer and the bus make of it is what they make of any offered record, and with the writer IDLE, the log not full and the
queue empty it is the record in flight. -/
def Obligations.DetachAndEvictFreeTheEntry : Prop :=
  (∀ (s : State) (i : Fin Config.clientCount), s.commandRuns 10 = true → s.started = true →
    s.mp.taken0.toNat = i.val → (s.client i).state ≠ .free → ∃ t, Answers .evict s t ∧
    t.client i = ClientEntry.free ∧ Struck i s t ∧
    (∀ d, (t.shareDir d).remainder = (s.shareDir d).remainder + s.grant d i) ∧
    (let record : Record := .final i .evicted (s.client i).attachEpoch s.tb.epoch (s.client i).admitted
        (s.client i).dropped (s.client i).group (s.client i).port
     t.lw = (offerRecord record s).lw ∧ t.mc = (offerRecord record s).mc ∧
     (s.lw.writer = .idle → s.lw.queue = [] → s.lw.index ≠ s.mp.cfg.limit → t.lw.inFlight = some record) ∧
     ∀ f, (offerRecord record s).flag f = true → t.flag f = true) ∧
    OthersKept i s t ∧ SharesKept s t ∧ Ended .done s t ∧
    t = { s with se := t.se, ct := t.ct, lw := t.lw, mc := t.mc, mp := t.mp }) ∧
  ∀ (s : State) (r : Request) (i : Fin Config.clientCount), s.turnHead = some r → r.index = i.val →
    requestKind r.code = .detach → (s.client i).state ≠ .free → ∃ t, Answers .detach s t ∧
    t.client i = ClientEntry.free ∧ Struck i s t ∧
    (∀ d, (t.shareDir d).remainder = (s.shareDir d).remainder + s.grant d i) ∧
    t.me = { s.me with queue := s.me.queue.tail, lane := some ⟨r.tag, .done, .none, r.code⟩ } ∧
    (let record : Record := .final i .detached (s.client i).attachEpoch s.tb.epoch (s.client i).admitted
        (s.client i).dropped (s.client i).group (s.client i).port
     t.lw = (offerRecord record s).lw ∧ t.mc = (offerRecord record s).mc ∧ t.mp = (offerRecord record s).mp ∧
     (s.lw.writer = .idle → s.lw.queue = [] → s.lw.index ≠ s.mp.cfg.limit → t.lw.inFlight = some record)) ∧
    OthersKept i s t ∧ SharesKept s t ∧ t.mp = { s.mp with flags := t.mp.flags } ∧
    t = { s with me := t.me, se := t.se, ct := t.ct, lw := t.lw, mc := t.mc, mp := t.mp }

/-- R126, R127, R136: METER on a FREE, a blocked, and an ACTIVE OPERATIONS entry, with the delivery to the watch unit. -/
def Obligations.MeterOutsideTheBuckets : Prop :=
  ∀ (s : State) (r : Request) (d : Dir) (i : Fin Config.clientCount), s.turnHead = some r →
    requestKind r.code = .meter d → r.index = i.val → r.length ≠ 0 →
    let e := s.client i
    let delivery (v : Verdict) (why : Reason) (grant : Nat) : Delivery :=
      { client := i, dir := d, length := r.length, verdict := v, reason := why, committed := (e.dir d).committed
        excess := (e.dir d).excess, grant := grant }
    let answered (o : RspOutcome) (why : Reason) : MeterEngine :=
      { s.me with queue := s.me.queue.tail, lane := some ⟨r.tag, o, why, r.code⟩ }
    (e.state = .free → Answers .meter s { s with me := answered .refused .notAttached }) ∧
    (e.state ≠ .free → e.blocked = true → ∃ t, Answers .meter s t ∧
      t.client i = { e with dropped := min 4294967295 (e.dropped + 1) } ∧ OthersKept i s t ∧
      t = { deliverVerdict (delivery .drop .blocked (e.dir d).grant) s with me := answered .drop .blocked, ct := t.ct }) ∧
    (e.state = .active → e.blocked = false → e.tier = .operations → ∃ t, Answers .meter s t ∧
      (t.client i).activeBytes d = min 4294967295 (e.activeBytes d + r.length) ∧
      (t.client i).closedBytes d = e.closedBytes d ∧
      (t.client i).admitted.get d = e.admitted.get d + BitVec.ofNat 40 r.length ∧
      (∀ d', d' ≠ d → (t.client i).dir d' = e.dir d' ∧ (t.client i).admitted.get d' = e.admitted.get d') ∧
      (t.client i).dir d = { e.dir d with
        window0 := ((t.client i).dir d).window0, window1 := ((t.client i).dir d).window1 } ∧
      t.client i = { e with dirs := (t.client i).dirs, admitted := (t.client i).admitted } ∧ OthersKept i s t ∧
      t = { deliverVerdict (delivery .pass .exempt 0) s with me := answered .pass .exempt, ct := t.ct })

/-- R126, R128, R130, R132, R135, R136: METER on an ACTIVE sharing client. The refill, the decision and the counting are
written out; an unshared direction passes without a draw; then the volume counter counts, and the watch unit takes the
delivery, with levels and grant from before any capping. Where the allowance is not crossed the entry is written out. -/
def Obligations.MeterRefillsAndDecides : Prop :=
  ∀ (s : State) (r : Request) (d : Dir) (i : Fin Config.clientCount), s.turnHead = some r →
    requestKind r.code = .meter d → r.index = i.val → r.length ≠ 0 → (s.client i).sharing = true →
    ∃ t, Answers .meter s t ∧
    let e := s.client i
    let x := e.dir d
    let add := 2 * x.grant * (s.tb.stamp - x.refillStamp).toNat
    let cbs := max 2048 (2 * x.grant * s.mp.cfg.burstMs.toNat)
    let ebs := if e.capped = true then 0 else cbs
    let committed := min cbs (x.committed + add)
    let excess := min ebs (x.excess + (x.committed + add - cbs))
    let valid := (s.shareDir d).sharesValid
    let verdict : Verdict :=
      if valid = false ∨ r.length ≤ committed then .pass else if r.length ≤ excess then .mark else .drop
    let why : Reason := if valid = false then .unshared else .metered
    let left : ClientDir := { x with
      refillStamp := s.tb.stamp, committedDepth := cbs, excessDepth := ebs
      committed := if valid = true ∧ verdict = .pass then committed - r.length else committed
      excess := if verdict = .mark then excess - r.length else excess }
    let counted : ClientEntry := { e with
      dirs := e.dirs.set d { left with
        window0 := if e.selector = true then x.window0 else min 4294967295 (x.window0 + r.length)
        window1 := if e.selector = true then min 4294967295 (x.window1 + r.length) else x.window1 }
      admitted := if verdict = .drop then e.admitted
        else e.admitted.set d (e.admitted.get d + BitVec.ofNat 40 r.length)
      dropped := if verdict = .drop then min 4294967295 (e.dropped + 1) else e.dropped }
    let delivery : Delivery :=
      { client := i, dir := d, length := r.length, verdict := verdict, reason := why, committed := left.committed
        excess := left.excess, grant := if valid = true then x.grant else 0 }
    t = { deliverVerdict delivery (countVolume i r.length verdict why (s.setClient i counted)) with
      me := { s.me with
        queue := s.me.queue.tail
        lane := some ⟨r.tag, (match verdict with
          | .pass => .pass
          | .mark => .mark
          | .drop => .drop), why, r.code⟩ } } ∧
    (verdict = .drop ∨ e.allowance = 0 ∨ e.volume.toNat + r.length < 2 ^ 40 →
      t.client i = { counted with
        volume := if verdict ≠ .drop ∧ e.allowance ≠ 0 then e.volume + BitVec.ofNat 40 r.length else e.volume } ∧
      OthersKept i s t ∧ t.se = s.se ∧ t.wu = (deliverVerdict delivery s).wu ∧ t.lw = (deliverVerdict delivery s).lw)

/-- R132: the decision on the levels a refill has left, answered with reason METERED; the excess level of a capped entry is
0 after every refill, and with an excess level of 0 a frame is never marked. -/
def Obligations.DecisionDrawsFromOneBucket : Prop :=
  ∀ (length : Nat) (x : ClientDir),
    (length ≤ x.committed → decideDir length x = (.pass, { x with committed := x.committed - length })) ∧
    (x.committed < length → length ≤ x.excess → decideDir length x = (.mark, { x with excess := x.excess - length })) ∧
    (x.committed < length → x.excess < length → decideDir length x = (.drop, x)) ∧
    (1 ≤ length → x.excess = 0 → (decideDir length x).1 ≠ .mark) ∧
    (∀ (c : ConfigWords) (now : BitVec 20), (refillDir c true now x).excess = 0) ∧
    ∀ (r : Request) (d : Dir) (i : Fin Config.clientCount) (s : State),
      (meterShared r d i s).me.lane =
        some ⟨r.tag, (decideDir r.length (((refill d i s).client i).dir d)).1.outcome, .metered, r.code⟩

/-- R34, R107, R134: a METER of an IDLE entry that is not blocked wakes it: the service goes on as for the ACTIVE entry
that the wake has made, with join grants and full buckets. The wake leaves the rest of the entry, the shares, the pass and its
snapshot. -/
def Obligations.MeterWakesAnIdleEntry : Prop :=
  (∀ (s : State) (r : Request) (d : Dir) (i : Fin Config.clientCount), s.turnHead = some r →
    requestKind r.code = .meter d → r.index = i.val → r.length ≠ 0 → (s.client i).state = .idle →
    (s.client i).blocked = false → ∃ t, Answers .meter s t ∧ Answers .meter (wakeClient i s) t ∧
      (t.client i).state = .active ∧ (t.client i).idleCount = 0) ∧
  ∀ (s : State) (i : Fin Config.clientCount),
    let t := wakeClient i s
    let e := s.client i
    (e.tier = .operations → t.client i = { e with state := .active, idleCount := 0 } ∧ t.se = s.se) ∧
    t.client i = { e with state := .active, idleCount := 0, dirs := (t.client i).dirs } ∧
    (e.tier ≠ .operations → ∀ d,
      let free := min s.mp.cfg.joinRate.toNat (s.shareDir d).remainder
      let join := if e.capped = true then min s.mp.cfg.cappedRate.toNat free else free
      let depth := max 2048 (2 * join * s.mp.cfg.burstMs.toNat)
      (t.client i).dir d = { e.dir d with
        grant := join, committed := depth, committedDepth := depth, excess := if e.capped = true then 0 else depth
        excessDepth := if e.capped = true then 0 else depth, refillStamp := s.tb.stamp } ∧
      (t.shareDir d).remainder = (s.shareDir d).remainder - join) ∧
    t.se.snapshot = s.se.snapshot ∧ SharesKept s t ∧ OthersKept i s t ∧ t = { s with se := t.se, ct := t.ct }

/-! ## Allowances (chapter 8) -/

/-- R141 to R145: what the counting of a frame that is counted does at and below the end of the allowance.
R136, R141 to R143: a METER whose admitted frame takes an uncapped entry across its allowance keeps its verdict, caps the
entry and offers the CAP record, with the frame among the admitted bytes, before the watch unit takes the delivery and with it
any TRACE record. -/
def Obligations.CrossingCapsTheClient : Prop :=
  (∀ (s : State) (i : Fin Config.clientCount) (length : Nat) (v : Verdict) (why : Reason), length ≤ 16383 →
    (s.client i).volumeCounts v why = true →
    let e := s.client i
    let t := countVolume i length v why s
    let crosses := 2 ^ 40 ≤ e.volume.toNat + length
    (t.client i).volume.toNat = (if crosses then e.volume.toNat + length - 2 ^ 40 else e.volume.toNat + length) ∧
    ((¬ crosses ∨ e.capped = true) → t = s.setClient i { e with volume := (t.client i).volume }) ∧
    (crosses → e.capped = false →
      (t.client i).capped = true ∧ t.flag .clientCapped = true ∧
      (∀ d, t.grant d i = min (s.grant d i) s.mp.cfg.cappedRate.toNat ∧
        (t.shareDir d).remainder = (s.shareDir d).remainder + (s.grant d i - t.grant d i) ∧
        ((t.client i).dir d).excess = 0 ∧ ((t.client i).dir d).excessDepth = 0 ∧
        ((t.client i).dir d).committed = (e.dir d).committed ∧
        ((t.client i).dir d).committedDepth = (e.dir d).committedDepth ∧
        ((t.client i).dir d).refillStamp = (e.dir d).refillStamp) ∧
      let record : Record := .cap i s.tb.epoch e.allowance e.admitted
      t.lw = (offerRecord record s).lw ∧ t.mc = (offerRecord record s).mc ∧
      (s.lw.writer = .idle → s.lw.queue = [] → s.lw.index ≠ s.mp.cfg.limit → t.lw.inFlight = some record)) ∧
    t.se.snapshot = s.se.snapshot ∧ SharesKept s t ∧ OthersKept i s t) ∧
  ∀ (s : State) (r : Request) (d : Dir) (i : Fin Config.clientCount), s.turnHead = some r →
    requestKind r.code = .meter d → r.index = i.val → r.length ≠ 0 → (s.client i).sharing = true →
    let e := s.client i
    let x := e.dir d
    let add := 2 * x.grant * (s.tb.stamp - x.refillStamp).toNat
    let cbs := max 2048 (2 * x.grant * s.mp.cfg.burstMs.toNat)
    let committed := min cbs (x.committed + add)
    let excess := min cbs (x.excess + (x.committed + add - cbs))
    let valid := (s.shareDir d).sharesValid
    e.capped = false → e.allowance ≠ 0 → 2 ^ 40 ≤ e.volume.toNat + r.length →
    (valid = false ∨ r.length ≤ committed ∨ r.length ≤ excess) → ∃ t, Answers .meter s t ∧
    let admitted := e.admitted.set d (e.admitted.get d + BitVec.ofNat 40 r.length)
    t.me = { s.me with
      queue := s.me.queue.tail
      lane := some
        (if valid = false then ⟨r.tag, .pass, .unshared, r.code⟩
        else if r.length ≤ committed then ⟨r.tag, .pass, .metered, r.code⟩
        else ⟨r.tag, .mark, .metered, r.code⟩) } ∧
    (t.client i).capped = true ∧ (t.client i).volume.toNat = e.volume.toNat + r.length - 2 ^ 40 ∧
    (t.client i).admitted = admitted ∧ (t.client i).state = .active ∧ t.flag .clientCapped = true ∧
    (∀ d', t.grant d' i = min (s.grant d' i) s.mp.cfg.cappedRate.toNat ∧
      (t.shareDir d').remainder = (s.shareDir d').remainder + (s.grant d' i - t.grant d' i) ∧
      ((t.client i).dir d').excess = 0 ∧ ((t.client i).dir d').excessDepth = 0) ∧
    (let record : Record := .cap i s.tb.epoch e.allowance admitted
     let delivery : Delivery :=
      { client := i, dir := d, length := r.length
        verdict := if valid = false ∨ r.length ≤ committed then .pass else .mark
        reason := if valid = false then .unshared else .metered
        committed := if valid = true ∧ r.length ≤ committed then committed - r.length else committed
        excess := if valid = true ∧ committed < r.length then excess - r.length else excess
        grant := if valid = true then x.grant else 0 }
     let u := deliverVerdict delivery (offerRecord record s)
     t.wu = u.wu ∧ t.lw = u.lw ∧ t.mc = u.mc ∧
     (s.lw.writer = .idle → s.lw.queue = [] → s.lw.index ≠ s.mp.cfg.limit → t.lw.inFlight = some record)) ∧
    t.se.snapshot = s.se.snapshot ∧ SharesKept s t ∧ OthersKept i s t ∧
    t.mp = { s.mp with flags := t.mp.flags } ∧
    t = { s with me := t.me, se := t.se, ct := t.ct, wu := t.wu, lw := t.lw, mc := t.mc, mp := t.mp }

/-! ## Watches (chapter 9) -/

/-- R156, R157: the writes of the watch words and the read of the count low word, out of reset (log 28). -/
def Obligations.WatchWordsActAtOnce : Prop :=
  ∀ s : State, s.resetLow = false →
  (∀ (k : Fin 4) (v : Word), ∃ t, Answers (.watchModeWrite k v) s t ∧
    (t.watch k).mode = v &&& 0x1FF ∧
    (t.watch k).armed = ((s.watch k).armed && !((s.watch k).traceEnable && !v.getLsbD 7)) ∧
    (t.watch k).count = (s.watch k).count ∧ (t.watch k).reload = (s.watch k).reload ∧
    (t.watch k).overflow = (s.watch k).overflow ∧ (t.watch k).scopeAll = (s.watch k).scopeAll ∧
    (t.watch k).scopeIndex = (s.watch k).scopeIndex ∧ (t.watch k).holding = (s.watch k).holding ∧
    (t.watch k).latch = (s.watch k).latch ∧ (∀ j, j ≠ k → t.watch j = s.watch j) ∧ t = { s with wu := t.wu }) ∧
  (∀ (k : Fin 4) (v : Word), (s.watch k).maskEmpty = false → ∃ t, Answers (.watchCountLowWrite k v) s t ∧
    t.watch k = { s.watch k with count := (s.watch k).holding ++ v, armed := false } ∧
    (∀ j, j ≠ k → t.watch j = s.watch j) ∧ t = { s with wu := t.wu }) ∧
  (∀ (k : Fin 4) (v : Word), (s.watch k).maskEmpty = true → ∃ t, Answers (.watchCountLowWrite k v) s t ∧
    t = { s with mp := { s.mp with
      refused := some (.maskEmpty, BitVec.ofNat 7 (0x1A + 6 * k.val)), flags := s.mp.flags ||| BitVec.twoPow 16 15 } }) ∧
  (∀ k : Fin 4, ∃ t, Answers (.watchCountLowRead k) s t ∧
    t.watch k = { s.watch k with latch := (s.watch k).count.extractLsb' 16 16 } ∧
    (∀ j, j ≠ k → t.watch j = s.watch j) ∧
    t = { s with wu := t.wu, mp := { s.mp with dataOut := (s.watch k).count.extractLsb' 0 16 } }) ∧
  (∀ (k : Fin 4) (v : Word), ∀ p ∈ ([
      (0x19, { s.watch k with scopeIndex := v.extractLsb' 0 9, scopeAll := v.getLsbD 15 }),
      (0x1B, { s.watch k with holding := v }),
      (0x1C, { s.watch k with reload := (s.watch k).reload.extractLsb' 16 16 ++ v }),
      (0x1D, { s.watch k with reload := v ++ (s.watch k).reload.extractLsb' 0 16 })] : List (Nat × Watch)),
    ∃ t, Answers (.registerWrite (BitVec.ofNat 7 (p.1 + 6 * k.val)) v) s t ∧
      t.watch k = p.2 ∧ (∀ j, j ≠ k → t.watch j = s.watch j) ∧ t = { s with wu := t.wu }) ∧
  (∀ k : Fin 4, (s.watch k).maskEmpty = true ↔
    ((s.watch k).maskUp = false ∧ (s.watch k).maskDown = false) ∨
      ((s.watch k).maskPass = false ∧ (s.watch k).maskMark = false ∧ (s.watch k).maskDrop = false)) ∧
  ∀ v : Word, ∃ t, Answers (.watchStatusWrite v) s t ∧
    (∀ k : Fin 4, t.watch k = { s.watch k with
      overflow := if v.getLsbD (4 + k.val) = true then false else (s.watch k).overflow }) ∧
    t = { s with wu := t.wu }

/-- R150 to R153: what a delivered verdict does to each watch, and the trace record it offers: with a traced set that is not
empty, one record of the set, the delivery, the overflow flags as the counting of the other watches leaves them, epoch
number and stamp. -/
def Obligations.DeliveryCountsOrTraces : Prop :=
  ∀ (v : Delivery) (s : State),
    let t := deliverVerdict v s
    let matched (k : Fin 4) : Prop :=
      let w := s.watch k
      w.enable = true ∧ (w.scopeAll = true ∨ w.scopeIndex.toNat = v.client.val) ∧
        (match v.dir with
          | .up => w.maskUp
          | .down => w.maskDown) = true ∧
        (match v.verdict with
          | .pass => w.maskPass
          | .mark => w.maskMark
          | .drop => w.maskDrop) = true
    let total (k : Fin 4) : Nat := (s.watch k).count.toNat + (if (s.watch k).kind = .frames then 1 else v.length)
    let traced (k : Fin 4) : Prop := matched k ∧ (s.watch k).armed = true
    (∀ k,
      let w := s.watch k
      (¬ matched k → t.watch k = w) ∧
      (traced k → t.watch k = { w with count := w.reload, armed := false, overflow := false }) ∧
      (matched k → w.armed = false → t.watch k = { w with
        count := BitVec.ofNat 32 (total k), overflow := w.overflow || decide (2 ^ 32 ≤ total k)
        armed := decide (2 ^ 32 ≤ total k) && w.traceEnable }) ∧
      (matched k → w.armed = false → 2 ^ 32 ≤ total k → w.irqEnable = true → t.flag .watchOverflow = true)) ∧
    ((∀ k, ¬ traced k) → t.lw = s.lw ∧ t.mc = s.mc) ∧
    (∀ inSet flags : Fin 4 → Bool, (∀ k, inSet k = true ↔ traced k) →
      (∀ k, flags k = true ↔ (s.watch k).overflow = true ∨ (matched k ∧ ¬ traced k ∧ 2 ^ 32 ≤ total k)) →
      (∃ k, traced k) →
      let record : Record := .trace (List.ofFn inSet) (List.ofFn flags) v s.tb.epoch s.tb.stamp
      t.lw = (offerRecord record s).lw ∧ t.mc = (offerRecord record s).mc ∧
      (s.lw.writer = .idle → s.lw.queue = [] → s.lw.index ≠ s.mp.cfg.limit →
        t.lw.inFlight = some record ∧ t.lw.writer = .writing ∧
        t.mc.logRequest = some ⟨s.lw.index, record.words⟩)) ∧
    t.mp = { s.mp with flags := t.mp.flags } ∧ t = { s with wu := t.wu, lw := t.lw, mc := t.mc, mp := t.mp }

/-! ## Log words (chapter 10) -/

/-- R166 to R169: the log index, threshold and lost count words, out of reset (log 28). The cause of a write that is refused
both in UNCONFIGURED and for its value is the model's reading (log 32). -/
def Obligations.LogWordsAreJudged : Prop :=
  ∀ (v : Word) (s : State), s.resetLow = false →
  let index := s.lw.indexHolding.toNat * 65536 + v.toNat
  let threshold := s.lw.thresholdHolding.toNat * 65536 + v.toNat
  (s.started = true → s.mp.cfg.LogAddress index → ∃ t, Answers (.logIndexLowWrite v) s t ∧
    t = { s with lw := if s.lw.writer = .idle then { s.lw with index := index }
      else { s.lw with pendingIndex := some index } }) ∧
  (s.started = true → s.mp.cfg.LogAddress threshold → ∃ t, Answers (.thresholdLowWrite v) s t ∧
    t = { s with lw := { s.lw with threshold := threshold } }) ∧
  (s.started = false ∨ ¬ s.mp.cfg.LogAddress index → ∃ t, Answers (.logIndexLowWrite v) s t ∧
    t = { s with mp := { s.mp with
      refused := some (if s.started = false then .notStarted else .badValue, 0x0C)
      flags := s.mp.flags ||| BitVec.twoPow 16 15 } }) ∧
  (s.started = false ∨ ¬ s.mp.cfg.LogAddress threshold → ∃ t, Answers (.thresholdLowWrite v) s t ∧
    t = { s with mp := { s.mp with
      refused := some (if s.started = false then .notStarted else .badValue, 0x0E)
      flags := s.mp.flags ||| BitVec.twoPow 16 15 } }) ∧
  (∃ t, Answers .logIndexLowRead s t ∧ t = { s with
    lw := { s.lw with indexLatch := BitVec.ofNat 5 (s.lw.index / 65536) }
    mp := { s.mp with dataOut := BitVec.ofNat 16 s.lw.index } }) ∧
  (∃ t, Answers .thresholdLowRead s t ∧ t = { s with
    lw := { s.lw with thresholdLatch := BitVec.ofNat 5 (s.lw.threshold / 65536) }
    mp := { s.mp with dataOut := BitVec.ofNat 16 s.lw.threshold } }) ∧
  ∃ t, Answers (.lostCountWrite v) s t ∧ t = { s with lw := { s.lw with lost := 0 } }

/-- R162, R164, R169: an offered record is in flight at once with an IDLE writer and room in the log, waits behind a
write in flight, or is lost, which counts and raises RECORD_LOST. R161: the words of a record, as Table 10-1 lays out each
kind, every bit it does not assign 0. R177: with the bus free, the writer's request is granted at once; otherwise it waits. -/
def Obligations.OfferedRecordsAreTakenOrLost : Prop :=
  (∀ (r : Record) (s : State), BusOk s →
    let t := offerRecord r s
    let lost : State :=
      { s with
        lw := { s.lw with lost := min 65535 (s.lw.lost + 1) }
        mp := { s.mp with flags := s.mp.flags ||| BitVec.twoPow 16 12 } }
    (s.lw.writer = .idle → s.lw.index ≠ s.mp.cfg.limit →
      t.lw = { s.lw with inFlight := some r, writer := .writing } ∧
      (s.mc.phase = .idle → t.mc = { s.mc with
        logRequest := some ⟨s.lw.index, r.words⟩, owner := .log, wordIndex := 0, granted := none
        phase := if s.mc.marker = .write then .setup else .turnaround, timedOut := t.mc.timedOut }) ∧
      (s.mc.phase ≠ .idle → t.mc = { s.mc with logRequest := some ⟨s.lw.index, r.words⟩ }) ∧
      t = { s with lw := t.lw, mc := t.mc }) ∧
    (s.lw.writer = .idle → s.lw.index = s.mp.cfg.limit → t = lost) ∧
    (s.lw.writer = .writing → s.lw.queue.length < 8 → t = { s with lw := { s.lw with queue := s.lw.queue ++ [r] } }) ∧
    (s.lw.writer = .writing → 8 ≤ s.lw.queue.length → t = lost) ∧
    r.words.length = 16) ∧
  let word (r : Record) (k : Nat) : Nat := (r.words.getD k 0).toNat
  let long (r : Record) (k : Nat) : Nat := word r k + 65536 * word r (k + 1)
  let number40 (r : Record) (k : Nat) : Nat := long r k + 2 ^ 32 * word r (k + 2)
  ∀ (client : Fin Config.clientCount) (epoch : BitVec 32) (admitted : PerDir (BitVec 40)),
    (∀ allowance : Word,
      let r := Record.cap client epoch allowance admitted
      word r 0 = 1 ∧ long r 1 = epoch.toNat ∧ word r 3 = client.val ∧ word r 4 = allowance.toNat ∧
      number40 r 5 = admitted.up.toNat ∧ number40 r 8 = admitted.down.toNat ∧ ∀ k, 11 ≤ k → word r k = 0) ∧
    (∀ (reason : RemovalReason) (attachEpoch : BitVec 32) (dropped : Nat) (group : BitVec 3) (port : BitVec 12),
      let r := Record.final client reason attachEpoch epoch admitted dropped group port
      word r 0 = (match reason with
        | .detached => 2 + 16 * 1
        | .evicted => 2 + 16 * 2) ∧
      long r 1 = epoch.toNat ∧ word r 3 = client.val ∧ word r 4 = port.toNat + 4096 * group.toNat ∧
      long r 5 = attachEpoch.toNat ∧ number40 r 7 = admitted.up.toNat ∧ number40 r 10 = admitted.down.toNat ∧
      long r 13 = dropped % 2 ^ 32 ∧ ∀ k, 15 ≤ k → word r k = 0) ∧
    (let r := Record.idle client epoch admitted
     word r 0 = 3 ∧ long r 1 = epoch.toNat ∧ word r 3 = client.val ∧ word r 4 = 0 ∧
     number40 r 5 = admitted.up.toNat ∧ number40 r 8 = admitted.down.toNat ∧ ∀ k, 11 ≤ k → word r k = 0) ∧
    (∀ (inSet flags : Fin 4 → Bool) (v : Delivery) (stamp : BitVec 20),
      let r := Record.trace (List.ofFn inSet) (List.ofFn flags) v epoch stamp
      word r 0 = 4 ∧ long r 1 = epoch.toNat ∧ word r 3 = v.client.val ∧
      (∀ k : Fin 4, (word r 4).testBit k.val = inSet k ∧ (word r 4).testBit (4 + k.val) = flags k) ∧
      word r 4 / 256 % 2 = (match v.dir with
        | .up => 0
        | .down => 1) ∧
      word r 4 / 512 % 4 = (match v.verdict with
        | .pass => 1
        | .mark => 2
        | .drop => 3) ∧
      word r 4 / 2048 = (match v.reason with
        | .none => 0
        | .metered => 1
        | .exempt => 2
        | .unshared => 3
        | .blocked => 4
        | .same => 5
        | .inUse => 6
        | .badPoint => 7
        | .badIndex => 8
        | .badLength => 9
        | .notAttached => 10
        | .badKind => 11) ∧
      word r 5 = v.length % 65536 ∧ long r 6 = v.committed % 2 ^ 32 ∧ long r 8 = v.excess % 2 ^ 32 ∧
      word r 10 = v.grant % 65536 ∧ long r 11 = stamp.toNat ∧ ∀ k, 13 ≤ k → word r k = 0) ∧
    ∀ (station : Word) (set : BitVec 4) (change : ViewChange) (size : Nat), size ≤ 30 →
      let r := Record.view station set change epoch size
      word r 0 = (match change with
        | .joined => 5 + 16 * 1
        | .left => 5 + 16 * 2
        | .timedOut => 5 + 16 * 3
        | .purged => 5 + 16 * 4
        | .replaced => 5 + 16 * 5) ∧
      long r 1 = epoch.toNat ∧ word r 3 = station.toNat ∧ word r 4 = set.toNat + 256 * size ∧
      ∀ k, 5 ≤ k → word r k = 0

/-! ## Record memory bus (chapter 11) -/

/-- R178 to R181: the maintenance window's words, out of reset (log 28). R174, R177: their request waits in the slot while the
bus is held, and is granted at once where it is free. R183: a read's word is given for shifting out. R184: before START their
writes are refused. -/
def Obligations.WindowWordsPlaceRequests : Prop :=
  (∀ (v : Word) (s : State), s.resetLow = false → s.started = true → s.mc.phase ≠ .idle →
    ∃ t, Answers (.memAddrLowWrite v) s t ∧
    t = { s with mc := { s.mc with
      address := s.mc.addressHolding ++ v, timeout := false, ready := false
      slot := some (.read (s.mc.addressHolding ++ v)) } }) ∧
  (∀ (v : Word) (s : State), s.resetLow = false → s.started = true → s.mc.phase ≠ .idle →
    ∃ t, Answers (.memDataWrite v) s t ∧
    t = { s with mc := { s.mc with
      address := s.mc.address + 1, ready := false, slot := some (.write s.mc.address v) } }) ∧
  (∀ (c : Instr) (v : Word) (s : State), s.resetLow = false → s.started = true → BusOk s → s.mc.phase = .idle →
    c = .memAddrLowWrite v ∨ c = .memDataWrite v ∨ (c = .memDataRead ∧ s.mc.ready = true) → ∃ t, Answers c s t ∧
      t.mc = { s.mc with
        ready := false, slot := none, owner := .window
        address := if c = .memAddrLowWrite v then s.mc.addressHolding ++ v else s.mc.address + 1
        timeout := if c = .memAddrLowWrite v then false else s.mc.timeout
        granted := some (if c = .memDataWrite v then .write s.mc.address v else .read t.mc.address)
        phase := if s.mc.marker = (if c = .memDataWrite v then .write else .read) then .setup else .turnaround
        marker := t.mc.marker, timedOut := t.mc.timedOut } ∧
      t.mc.marker = s.mc.marker ∧ t = { s with mc := t.mc, mp := t.mp } ∧
      t.mp = (if c = .memDataRead then { s.mp with dataOut := s.mc.data } else s.mp)) ∧
  (∀ s : State, s.resetLow = false → s.mc.ready = false ∨ s.started = false → ∃ t, Answers .memDataRead s t ∧
    t = { s with mp := { s.mp with dataOut := s.mc.data } }) ∧
  (∀ s : State, s.resetLow = false → s.mc.ready = true → s.started = true → ∃ t, Answers .memDataRead s t ∧
    t.mp = { s.mp with dataOut := s.mc.data } ∧ t.mc.address = s.mc.address + 1 ∧ t.mc.ready = false ∧
    (s.mc.phase ≠ .idle → t.mc = { s.mc with
      address := s.mc.address + 1, ready := false, slot := some (.read (s.mc.address + 1)) }) ∧
    t = { s with mc := t.mc, mp := t.mp }) ∧
  ∀ (v : Word) (s : State), s.resetLow = false → s.started = false →
    ∀ p ∈ ([(.memAddrLowWrite v, 0x11), (.memDataWrite v, 0x13)] : List (Instr × BitVec 7)), ∃ t, Answers p.1 s t ∧
      t = { s with mp := { s.mp with
        refused := some (.notStarted, p.2), flags := s.mp.flags ||| BitVec.twoPow 16 15 } }

/-- R173 to R175, R177: the phases of an access: turnaround with its withdrawal, setup, and the end of the strobe; and the
lines that the part drives in each phase. How long an extension can have been when a strobe ends normally is the model's
reading (log 17). The read/write line is the rule's at the setup of a write alone: in every other phase, and throughout a
read, what is stated of it is the model's choice (log 29). The address in turnaround is the model's too, and not stated. -/
def Obligations.AccessPhasesFollow : Prop :=
  (∀ (s : State) (dir : AccessDir) (a : Nat) (v : Word), s.busAccess = some (dir, a, v) →
    (s.mc.phase = .setup ∨ s.mc.phase = .strobe ∨ s.mc.phase = .hold → s.busLines =
      { address := some a, data := if dir = .write then some v else none
        strobe := decide (s.mc.phase = .strobe), write := decide (dir = .write) }) ∧
    (s.mc.phase = .turnaround → s.busLines.data = none ∧ s.busLines.strobe = false)) ∧
  (∀ (s : State) (q : WindowRequest), s.mc.phase = .turnaround → s.mc.owner = .window → s.mc.granted = some q →
    ∃ t, Answers .turnaroundEnd s t ∧ t = { s with mc := t.mc } ∧
      (s.mc.logRequest = none → t.mc = { s.mc with phase := .setup, marker := q.dir, timedOut := false }) ∧
      (s.mc.logRequest ≠ none → t.mc.owner = .log ∧ t.mc.granted = none ∧ t.mc.wordIndex = 0 ∧
        t.mc.slot = (if s.mc.slot = none then some q else s.mc.slot) ∧ t.mc.marker = s.mc.marker ∧
        t.mc.phase = (if s.mc.marker = .write then .setup else .turnaround))) ∧
  (∀ s : State, s.mc.phase = .turnaround → s.mc.owner = .log → ∃ t, Answers .turnaroundEnd s t ∧
    t = { s with mc := { s.mc with phase := .setup, marker := .write, timedOut := false } }) ∧
  (∀ s : State, s.mc.phase = .setup → ∃ t, Answers .setupEnd s t ∧
    t = { s with mc := { s.mc with phase := .strobe, waitCount := 0 } }) ∧
  ∀ (waited a : Nat) (dir : AccessDir) (v : Word) (s : State), s.mc.phase = .strobe → s.busAccess = some (dir, a, v) →
    (s.mp.cfg.waitEnable ≠ 1 ∨ waited ≤ (s.mp.cfg.waitLimit.toNat + 1) * 16) → Memory.wf s.mem →
    ∃ t, Answers (.strobeEnd waited) s t ∧ t.mc.phase = .hold ∧ t.mc.timedOut = s.mc.timedOut ∧
      t.mc.waitCount = (if s.mp.cfg.waitEnable = 1 then waited else 0) ∧
      (dir = .read → t.mc.sampled = s.mem.read a ∧ t.mem = s.mem) ∧
      (dir = .write → t.mem.read a = v ∧ t.mc.sampled = s.mc.sampled) ∧
      (∀ b, b ≠ a → t.mem.read b = s.mem.read b) ∧
      t = { s with mc := { s.mc with phase := .hold, waitCount := t.mc.waitCount, sampled := t.mc.sampled }, mem := t.mem }

/-- R175: a strobe that the wait limit ends. The word a read samples is free, and so is whether a write has placed its
word; every other word stays. -/
def Obligations.WaitTimeoutEndsTheStrobe : Prop :=
  ∀ (s : State) (a : Nat) (dir : AccessDir) (v : Word), s.mc.phase = .strobe → s.busAccess = some (dir, a, v) →
    s.mp.cfg.waitEnable = 1 → Memory.wf s.mem → ∃ t, Answers .waitTimeout s t ∧
    t.mc.phase = .hold ∧ t.mc.timedOut = true ∧ t.mc.waitCount = (s.mp.cfg.waitLimit.toNat + 1) * 16 ∧
    (dir = .read → t.mem = s.mem) ∧ (dir = .write → t.mem.read a = v ∨ t.mem.read a = s.mem.read a) ∧
    (∀ b, b ≠ a → t.mem.read b = s.mem.read b) ∧
    t = { s with
      mc := { s.mc with phase := .hold, timedOut := true, waitCount := t.mc.waitCount, sampled := t.mc.sampled }
      mem := t.mem, freeDraws := t.freeDraws }

/-- R164, R165, R167, R170, R176: the end of a word of a record: the next word, completion with the index advanced and its
flags, or a timeout with the record lost; then the writer takes the next record that waits, against the index as the end
leaves it, and at a full log every waiting record is lost.
R175, R177, R181: the end of a window access.
That the requester is told before the arbiter hands out the bus is the model's order (log 14). -/
def Obligations.AccessesEndAndTellTheirRequester : Prop :=
  (∀ s : State, BusOk s → s.mc.phase = .hold → s.mc.owner = .log → ∃ t, Answers .accessEnd s t ∧
    let ends := s.mc.timedOut = true ∨ 15 ≤ s.mc.wordIndex
    let index := match s.lw.pendingIndex with
      | some x => x
      | none => if s.mc.timedOut = true then s.lw.index else s.lw.index + 16
    let losses := if s.mc.timedOut = true then 1 else 0
    (s.mc.timedOut = false → s.mc.wordIndex < 15 →
      t = { s with mc := { s.mc with wordIndex := s.mc.wordIndex + 1, phase := .setup, marker := .write, timedOut := false } }) ∧
    (ends → t.lw.index = index ∧ t.lw.pendingIndex = none ∧
      (s.mc.timedOut = true → t.flag .recordLost = true ∧ t.flag .memoryTimeout = true) ∧
      (s.mc.timedOut = false → s.lw.pendingIndex = none →
        (index = s.lw.threshold → t.flag .logThreshold = true) ∧
        (index = s.mp.cfg.limit → t.flag .logFull = true)) ∧
      (s.mc.timedOut = true ∨ s.lw.pendingIndex.isSome = true →
        t.flag .logThreshold = s.flag .logThreshold ∧ t.flag .logFull = s.flag .logFull) ∧
      t.lw = { s.lw with
        index := index, pendingIndex := none, queue := t.lw.queue, writer := t.lw.writer, inFlight := t.lw.inFlight
        lost := t.lw.lost }) ∧
    (ends → (s.lw.queue = [] ∨ index = s.mp.cfg.limit) →
      t.lw.queue = [] ∧ t.lw.inFlight = none ∧ t.lw.writer = .idle ∧ t.mc.logRequest = none ∧
      t.mc.owner = (if s.mc.slot ≠ none then .window else .none) ∧
      t.lw.lost = (if losses + s.lw.queue.length = 0 then s.lw.lost
        else min 65535 (s.lw.lost + (losses + s.lw.queue.length))) ∧
      (s.lw.queue ≠ [] → t.flag .recordLost = true)) ∧
    (ends → index ≠ s.mp.cfg.limit → ∀ r rest, s.lw.queue = r :: rest →
      t.lw.queue = rest ∧ t.lw.inFlight = some r ∧ t.lw.writer = .writing ∧
      t.mc = { s.mc with
        owner := .log, wordIndex := 0, granted := none, logRequest := some ⟨index, r.words⟩, marker := s.mc.marker
        phase := if s.mc.marker = .write then .setup else .turnaround, timedOut := t.mc.timedOut } ∧
      t.lw.lost = (if s.mc.timedOut = true then min 65535 (s.lw.lost + 1) else s.lw.lost)) ∧
    t.mp = { s.mp with flags := t.mp.flags } ∧ t = { s with lw := t.lw, mc := t.mc, mp := t.mp }) ∧
  ∀ (s : State) (q : WindowRequest), BusOk s → s.mc.phase = .hold → s.mc.owner = .window → s.mc.granted = some q →
    ∃ t, Answers .accessEnd s t ∧
    t.mc.data = (if q.dir = .read then s.mc.sampled else s.mc.data) ∧
    t.mc.timeout = (s.mc.timeout || s.mc.timedOut) ∧ (s.mc.timedOut = true → t.flag .memoryTimeout = true) ∧
    (t.mc.ready = true ↔ s.mc.slot = none) ∧ t.mc.address = s.mc.address ∧
    t.mc.owner = (if s.mc.logRequest ≠ none then .log else if s.mc.slot ≠ none then .window else .none) ∧
    t.mp = { s.mp with flags := t.mp.flags } ∧ t = { s with mc := t.mc, mp := t.mp }

/-! ## Maintenance port (chapter 12) -/

/-- R184, R185, R191, R192: configuration, interrupt and refused-status words, and the words without a row of their own.
R183: a transaction's bits, most significant first, read or write a word and shift out the summary and the word, one bit a
rising edge, the data output changing after the falling edge; of a transaction that ends early the host receives no more than its
edges, and the rest is lost. A read is taken
at its 16th edge and stands whatever follows; a transaction that ends before it, and a write of any other length than 32,
has no effect. Bits behind the 32nd are free (log 33). R55, R94, R156, R157, R166, R168, R169, R178, R184, R188, R190: what a read of each word of Tables 12-1 and 12-2 gives, written
out, and what it does beside; the configuration after device reset, and the bits of the flags (Tables 12-2, 12-4). All of it out of reset (log 28). That REGISTER_WRITE at a word with a row of its own acts as that row
is the model's choice (log 22). -/
def Obligations.PortWordsAreStoredOrRefused : Prop :=
  ∀ s : State, s.resetLow = false →
  (∀ (a : BitVec 7) (v : Word), 0x40 ≤ a.toNat → a.toNat ≤ 0x66 → s.started = false →
    ∃ t, Answers (.configWrite a v) s t ∧ t.readWord a = v ∧
      (∀ b, 0x40 ≤ b.toNat → b ≠ a → t.readWord b = s.readWord b) ∧
      t = { s with mp := { s.mp with cfg := t.mp.cfg } }) ∧
  (∀ (a : BitVec 7) (v : Word), 0x40 ≤ a.toNat → a.toNat ≤ 0x66 → s.started = true →
    ∃ t, Answers (.configWrite a v) s t ∧ t = { s with mp := { s.mp with
      refused := some (.locked, a), flags := s.mp.flags ||| BitVec.twoPow 16 15 } }) ∧
  (∀ (a : BitVec 7) (v : Word), 0x40 ≤ a.toNat → a.toNat ≤ 0x66 →
    exec (.registerWrite a v) s = exec (.configWrite a v) s) ∧
  (let c := s.mp.cfg
   (∀ p ∈ ([
      (0x40, c.stationId, 0), (0x41, c.setId, 0), (0x42, c.scope, 0), (0x43, c.gateway, 0), (0x44, c.epochLength, 100),
      (0x45, c.peerTimeout, 3), (0x46, c.idleLimit, 50), (0x47, c.burstMs, 100), (0x48, c.joinRate, 64),
      (0x49, c.cappedRate, 32), (0x4A, c.standardWeight, 2), (0x4B, c.premiumWeight, 4), (0x4C, c.defaultAllowance, 0),
      (0x4D, c.groupCount, 1), (0x5E, c.logBase, 0), (0x5F, c.logLimit, 65535), (0x60, c.setup, 2), (0x61, c.strobe, 4),
      (0x62, c.hold, 1), (0x63, c.turnaround, 1), (0x64, c.waitEnable, 0), (0x65, c.waitLimit, 63),
      (0x66, c.recordEnables, 0)] : List (BitVec 7 × Word × Word)),
    s.readWord p.1 = p.2.1 ∧ State.reset.readWord p.1 = p.2.2) ∧
   ∀ g : Fin Config.groupCount,
    let up : BitVec 7 := BitVec.ofNat 7 (0x4E + 2 * g.val)
    let down : BitVec 7 := BitVec.ofNat 7 (0x4F + 2 * g.val)
    s.readWord up = c.capacity.up[g.val] ∧ s.readWord down = c.capacity.down[g.val] ∧
    State.reset.readWord up = 0 ∧ State.reset.readWord down = 0) ∧
  (∀ f : IrqFlag, s.flag f = s.mp.flags.getLsbD (match f with
    | .sharePublished => 0
    | .viewChanged => 1
    | .idConflict => 2
    | .lineFault => 3
    | .lineRestored => 4
    | .noticeAbandoned => 5
    | .peerTableFull => 6
    | .uplinkStale => 7
    | .clientCapped => 8
    | .watchOverflow => 9
    | .logThreshold => 10
    | .logFull => 11
    | .recordLost => 12
    | .memoryTimeout => 13
    | .commandDone => 14
    | .writeRefused => 15)) ∧
  (∀ v : Word, ∃ t, Answers (.interruptFlagsWrite v) s t ∧
    (∀ f, t.flag f = (s.flag f && !v.getLsbD f.bit)) ∧ t = { s with mp := { s.mp with flags := t.mp.flags } }) ∧
  (∀ v : Word, ∃ t, Answers (.interruptEnablesWrite v) s t ∧
    (t.irqLow = true ↔ ∃ f : IrqFlag, s.flag f = true ∧ v.getLsbD f.bit = true) ∧
    t = { s with mp := { s.mp with enables := v } }) ∧
  (∀ v : Word, ∃ t, Answers (.refusedStatusWrite v) s t ∧
    t = { s with mp := { s.mp with refused := none } }) ∧
  (∀ (a : BitVec 7) (v : Word),
    a.toNat ∈ [0x00, 0x01, 0x02, 0x08, 0x14, 0x15, 0x16] ∨ (0x30 ≤ a.toNat ∧ a.toNat < 0x40) ∨ 0x67 ≤ a.toNat →
    ∃ t, Answers (.registerWrite a v) s t ∧ t = { s with mp := { s.mp with
      refused := some (.readOnly, a), flags := s.mp.flags ||| BitVec.twoPow 16 15 } }) ∧
  (∀ v : Word, ∀ p ∈ ([
      (0x03, .uplinkWrite .up v), (0x04, .uplinkWrite .down v), (0x05, .commandCodeWrite v),
      (0x09, .interruptFlagsWrite v), (0x0A, .interruptEnablesWrite v), (0x0B, .refusedStatusWrite v),
      (0x0C, .logIndexLowWrite v), (0x0E, .thresholdLowWrite v), (0x10, .lostCountWrite v),
      (0x11, .memAddrLowWrite v), (0x13, .memDataWrite v), (0x17, .watchStatusWrite v),
      (0x18, .watchModeWrite 0 v), (0x1A, .watchCountLowWrite 0 v), (0x1E, .watchModeWrite 1 v),
      (0x20, .watchCountLowWrite 1 v), (0x24, .watchModeWrite 2 v), (0x26, .watchCountLowWrite 2 v),
      (0x2A, .watchModeWrite 3 v), (0x2C, .watchCountLowWrite 3 v)] : List (BitVec 7 × Instr)),
    exec (.registerWrite p.1 v) s = exec p.2 s) ∧
  (∀ v : Word,
    Answers (.registerWrite 0x06 v) s { s with mp := { s.mp with arg0 := v } } ∧
    Answers (.registerWrite 0x07 v) s { s with mp := { s.mp with arg1 := v } } ∧
    Answers (.registerWrite 0x0D v) s { s with lw := { s.lw with indexHolding := v.extractLsb' 0 5 } } ∧
    Answers (.registerWrite 0x0F v) s { s with lw := { s.lw with thresholdHolding := v.extractLsb' 0 5 } } ∧
    (s.started = true →
      Answers (.registerWrite 0x12 v) s { s with mc := { s.mc with addressHolding := v.extractLsb' 0 4 } }) ∧
    (s.started = false →
      Answers (.registerWrite 0x12 v) s { s with mp := { s.mp with
        refused := some (.notStarted, 0x12), flags := s.mp.flags ||| BitVec.twoPow 16 15 } })) ∧
  (s.mp.serial.selected = false →
    (∀ w : BitVec 32,
      let a : BitVec 7 := w.extractLsb' 24 7
      let bits := (List.range 32).map fun k => w.getMsbD k
      (w.msb = true → ∃ p n, s.transact bits =
        { takeRead a s with mp := { (takeRead a s).mp with serial := p, dataOut := 0 }, freeDraws := n }) ∧
      (w.msb = false → ∃ p n u, Answers (.registerWrite a (w.extractLsb' 0 16)) s u ∧
        s.transact bits = { u with mp := { u.mp with serial := p, dataOut := 0 }, freeDraws := n })) ∧
    (∀ (a : BitVec 7) (rest : List Bool), 8 ≤ rest.length →
      ∃ p n, s.transact (true :: (List.range 7).map (fun k => a.getMsbD k) ++ rest) =
        { takeRead a s with mp := { (takeRead a s).mp with serial := p, dataOut := 0 }, freeDraws := n }) ∧
    (∀ bits : List Bool, bits.length < 16 ∨ (bits.length ≠ 32 ∧ bits.head? = some false) →
      ∃ p n, s.transact bits = { s with mp := { s.mp with serial := p, dataOut := 0 }, freeDraws := n }) ∧
    (∀ (read : Bool) (a : BitVec 7) (rest : List Bool),
      let bits := read :: (List.range 7).map (fun k => a.getMsbD k) ++ rest
      let bytes : BitVec 32 := (0 : Byte) ++ s.summaryByte ++ (if read = true then s.readWord a else 0)
      (s.shiftedOut bits).take 32 = ((List.range 32).map fun k => some (bytes.getMsbD k)).take bits.length) ∧
    (∀ bits : List Bool, (s.shiftedOut bits).length = bits.length ∧ none ∉ s.shiftedOut bits ∧
      (bits.length ≤ 8 → s.shiftedOut bits = bits.map fun _ => some false) ∧
      (s.transact bits).dataOutput = none)) ∧
  (∀ b : Bool, (clockEdge b s).dataOutput = s.dataOutput) ∧
  (s.mp.serial.active = true → s.mp.serial.edges < 32 → clockFall s = { s with mp := { s.mp with serial := {
    s.mp.serial with
      output := ((0 : Byte) ++ s.mp.serial.summary ++ s.mp.dataOut : BitVec 32).getMsbD s.mp.serial.edges } } }) ∧
  (Answers .logIndexLowRead s (takeRead 0x0C s) ∧ Answers .thresholdLowRead s (takeRead 0x0E s) ∧
    Answers .memDataRead s (takeRead 0x13 s) ∧
    (∀ k : Fin 4, Answers (.watchCountLowRead k) s (takeRead (BitVec.ofNat 7 (0x1A + 6 * k.val)) s)) ∧
    ∀ a : BitVec 7, a.toNat ∉ [0x0C, 0x0E, 0x13, 0x1A, 0x20, 0x26, 0x2C] →
      takeRead a s = { s with mp := { s.mp with dataOut := s.readWord a } }) ∧
  (let read (k : Nat) : Nat := (s.readWord (BitVec.ofNat 7 k)).toNat
   let one (b : Bool) : Nat := if b = true then 1 else 0
   let station (x : Station) : Nat := match x with
    | .unconfigured => 0
    | .listening => 1
    | .active => 2
    | .leaving => 3
    | .silent => 4
    | .lineFault => 5
   let tx : Nat := match s.li.tx with
    | .idle => 0
    | .jitter => 1
    | .defer => 2
    | .sending => 3
    | .backoff => 4
   let outcome : Nat := match s.mp.outcome with
    | .none => 0
    | .done => 1
    | .badState => 3
    | .badArgument => 4
    | .notAttached => 5
    | .configInvalid => 6
   let cause (x : RefusedCause) : Nat := match x with
    | .locked => 1
    | .notGateway => 2
    | .badValue => 3
    | .maskEmpty => 4
    | .notStarted => 5
    | .readOnly => 6
   read 0x00 = 0x2430 ∧
   read 0x01 = (station s.li.station + 8 * station s.li.remembered + 64 * one s.li.conflict + 128 * s.li.expiryCount +
    512 * tx + 4096 * s.li.attempts) % 65536 ∧
   read 0x02 = (s.li.runLength + 4096 * one s.li.overflow) % 65536 ∧
   read 0x03 = s.pt.heldUplink.up % 65536 ∧ read 0x04 = s.pt.heldUplink.down % 65536 ∧
   read 0x05 = s.mp.code.toNat ∧ read 0x06 = s.mp.arg0.toNat ∧ read 0x07 = s.mp.arg1.toNat ∧
   read 0x08 = (one s.mp.running + 2 * one s.mp.busy + 4 * outcome + 64 * s.mp.check + 4096 * s.mp.started) % 65536 ∧
   read 0x09 = s.mp.flags.toNat ∧ read 0x0A = s.mp.enables.toNat ∧
   (s.mp.refused = none → read 0x0B = 0) ∧
   (∀ x a, s.mp.refused = some (x, a) → read 0x0B = 32768 + 256 * cause x + a.toNat) ∧
   read 0x0C = s.lw.index % 65536 ∧ read 0x0D = s.lw.indexLatch.toNat ∧
   read 0x0E = s.lw.threshold % 65536 ∧ read 0x0F = s.lw.thresholdLatch.toNat ∧ read 0x10 = s.lw.lost % 65536 ∧
   read 0x11 = s.mc.address.toNat % 65536 ∧ read 0x12 = s.mc.address.toNat / 65536 ∧ read 0x13 = s.mc.data.toNat ∧
   read 0x14 = one s.mc.ready + 2 * one s.mc.timeout ∧ read 0x15 = 0 ∧ read 0x16 = 0 ∧
   read 0x17 < 256 ∧
   (∀ k : Fin 4,
    let w := s.watch k
    let base := 0x18 + 6 * k.val
    (read 0x17).testBit k.val = w.armed ∧ (read 0x17).testBit (4 + k.val) = w.overflow ∧
    read base = one w.enable + 2 * one w.maskUp + 4 * one w.maskDown + 8 * one w.maskPass + 16 * one w.maskMark +
      32 * one w.maskDrop + 64 * (if w.kind = .bytes then 1 else 0) + 128 * one w.traceEnable + 256 * one w.irqEnable ∧
    read (base + 1) = w.scopeIndex.toNat + 32768 * one w.scopeAll ∧
    read (base + 2) = w.count.toNat % 65536 ∧ read (base + 3) = w.latch.toNat ∧
    read (base + 4) = w.reload.toNat % 65536 ∧ read (base + 5) = w.reload.toNat / 65536) ∧
   (∀ k : Fin 16, read (0x30 + k.val) = (s.mp.window.toList.getD k.val 0).toNat) ∧
   ∀ k, 0x67 ≤ k → k ≤ 0x7F → read k = 0) ∧
  s.summaryByte = BitVec.ofNat 8 ((if s.irqLow = true then 128 else 0) + (if s.mp.running = true then 64 else 0) +
    (match s.li.station with
      | .unconfigured => 0
      | .listening => 1
      | .active => 2
      | .leaving => 3
      | .silent => 4
      | .lineFault => 5))

/-- R188: the command channel, out of reset (log 28). That an unlisted code ends at its write, and the word's value at a
refused write, are the model's readings (log 12, log 13). -/
def Obligations.CommandsStartOneAtATime : Prop :=
  (∀ (v : Word) (s : State), s.resetLow = false → s.mp.running = false → 1 ≤ v.toNat → v.toNat ≤ 12 →
    ∃ t, Answers (.commandCodeWrite v) s t ∧ t = { s with mp := { s.mp with
      code := v, running := true, busy := false, outcome := .none, check := 0, started := v.toNat
      taken0 := s.mp.arg0, taken1 := s.mp.arg1 } }) ∧
  (∀ (v : Word) (s : State), s.resetLow = false → s.mp.running = true → ∃ t, Answers (.commandCodeWrite v) s t ∧
    t = { s with mp := { s.mp with busy := true } }) ∧
  ∀ (v : Word) (s : State), s.resetLow = false → s.mp.running = false → (v = 0 ∨ 12 < v.toNat) →
    ∀ c ∈ ([.commandCodeWrite v, .unknownCommand v] : List Instr), ∃ t, Answers c s t ∧
      t = { s with mp := { s.mp with
        code := v, running := false, busy := false, outcome := .badArgument, check := 0, started := 0
        taken0 := s.mp.arg0, taken1 := s.mp.arg1, flags := s.mp.flags ||| BitVec.twoPow 16 14 } }
end

