-- ==== Sys2Proof/Laws/State.lean ====
section
/-! SUPPORT. One lemma per field and update: what each named update of the state leaves as it was, and what the plain
setters set. -/

namespace Sys2Proof.Machine

/-! ## raise -/

section
variable (f : IrqFlag)
variable (s : State)

@[simp] theorem raise_tb : (raise f s).tb = s.tb := rfl
@[simp] theorem raise_se : (raise f s).se = s.se := rfl
@[simp] theorem raise_pt : (raise f s).pt = s.pt := rfl
@[simp] theorem raise_li : (raise f s).li = s.li := rfl
@[simp] theorem raise_ct : (raise f s).ct = s.ct := rfl
@[simp] theorem raise_me : (raise f s).me = s.me := rfl
@[simp] theorem raise_wu : (raise f s).wu = s.wu := rfl
@[simp] theorem raise_lw : (raise f s).lw = s.lw := rfl
@[simp] theorem raise_mc : (raise f s).mc = s.mc := rfl
@[simp] theorem raise_mem : (raise f s).mem = s.mem := rfl
@[simp] theorem raise_composition : (raise f s).composition = s.composition := rfl
@[simp] theorem raise_resetLow : (raise f s).resetLow = s.resetLow := rfl
@[simp] theorem raise_freeDraws : (raise f s).freeDraws = s.freeDraws := rfl
@[simp] theorem raise_pending : (raise f s).pending = s.pending := rfl
@[simp] theorem raise_client (j' : Fin Config.clientCount) : (raise f s).client j' = s.client j' := rfl
@[simp] theorem raise_shareDir (d' : Dir) : (raise f s).shareDir d' = s.shareDir d' := rfl
@[simp] theorem raise_slot (j' : Fin Config.peerSlots) : (raise f s).slot j' = s.slot j' := rfl
@[simp] theorem raise_watch (j' : Fin Config.watchCount) : (raise f s).watch j' = s.watch j' := rfl
@[simp] theorem raise_started : (raise f s).started = s.started := rfl
@[simp] theorem raise_cfg : (raise f s).mp.cfg = s.mp.cfg := rfl

end

/-! ## clearFlags -/

section
variable (v : Word)
variable (s : State)

@[simp] theorem clearFlags_tb : (clearFlags v s).tb = s.tb := rfl
@[simp] theorem clearFlags_se : (clearFlags v s).se = s.se := rfl
@[simp] theorem clearFlags_pt : (clearFlags v s).pt = s.pt := rfl
@[simp] theorem clearFlags_li : (clearFlags v s).li = s.li := rfl
@[simp] theorem clearFlags_ct : (clearFlags v s).ct = s.ct := rfl
@[simp] theorem clearFlags_me : (clearFlags v s).me = s.me := rfl
@[simp] theorem clearFlags_wu : (clearFlags v s).wu = s.wu := rfl
@[simp] theorem clearFlags_lw : (clearFlags v s).lw = s.lw := rfl
@[simp] theorem clearFlags_mc : (clearFlags v s).mc = s.mc := rfl
@[simp] theorem clearFlags_mem : (clearFlags v s).mem = s.mem := rfl
@[simp] theorem clearFlags_composition : (clearFlags v s).composition = s.composition := rfl
@[simp] theorem clearFlags_resetLow : (clearFlags v s).resetLow = s.resetLow := rfl
@[simp] theorem clearFlags_freeDraws : (clearFlags v s).freeDraws = s.freeDraws := rfl
@[simp] theorem clearFlags_pending : (clearFlags v s).pending = s.pending := rfl
@[simp] theorem clearFlags_client (j' : Fin Config.clientCount) : (clearFlags v s).client j' = s.client j' := rfl
@[simp] theorem clearFlags_shareDir (d' : Dir) : (clearFlags v s).shareDir d' = s.shareDir d' := rfl
@[simp] theorem clearFlags_slot (j' : Fin Config.peerSlots) : (clearFlags v s).slot j' = s.slot j' := rfl
@[simp] theorem clearFlags_watch (j' : Fin Config.watchCount) : (clearFlags v s).watch j' = s.watch j' := rfl
@[simp] theorem clearFlags_started : (clearFlags v s).started = s.started := rfl
@[simp] theorem clearFlags_cfg : (clearFlags v s).mp.cfg = s.mp.cfg := rfl

end

/-! ## refuseWrite -/

section
variable (c : RefusedCause) (a : BitVec 7)
variable (s : State)

@[simp] theorem refuseWrite_tb : (refuseWrite c a s).tb = s.tb := rfl
@[simp] theorem refuseWrite_se : (refuseWrite c a s).se = s.se := rfl
@[simp] theorem refuseWrite_pt : (refuseWrite c a s).pt = s.pt := rfl
@[simp] theorem refuseWrite_li : (refuseWrite c a s).li = s.li := rfl
@[simp] theorem refuseWrite_ct : (refuseWrite c a s).ct = s.ct := rfl
@[simp] theorem refuseWrite_me : (refuseWrite c a s).me = s.me := rfl
@[simp] theorem refuseWrite_wu : (refuseWrite c a s).wu = s.wu := rfl
@[simp] theorem refuseWrite_lw : (refuseWrite c a s).lw = s.lw := rfl
@[simp] theorem refuseWrite_mc : (refuseWrite c a s).mc = s.mc := rfl
@[simp] theorem refuseWrite_mem : (refuseWrite c a s).mem = s.mem := rfl
@[simp] theorem refuseWrite_composition : (refuseWrite c a s).composition = s.composition := rfl
@[simp] theorem refuseWrite_resetLow : (refuseWrite c a s).resetLow = s.resetLow := rfl
@[simp] theorem refuseWrite_freeDraws : (refuseWrite c a s).freeDraws = s.freeDraws := rfl
@[simp] theorem refuseWrite_pending : (refuseWrite c a s).pending = s.pending := rfl
@[simp] theorem refuseWrite_client (j' : Fin Config.clientCount) : (refuseWrite c a s).client j' = s.client j' := rfl
@[simp] theorem refuseWrite_shareDir (d' : Dir) : (refuseWrite c a s).shareDir d' = s.shareDir d' := rfl
@[simp] theorem refuseWrite_slot (j' : Fin Config.peerSlots) : (refuseWrite c a s).slot j' = s.slot j' := rfl
@[simp] theorem refuseWrite_watch (j' : Fin Config.watchCount) : (refuseWrite c a s).watch j' = s.watch j' := rfl
@[simp] theorem refuseWrite_started : (refuseWrite c a s).started = s.started := rfl
@[simp] theorem refuseWrite_cfg : (refuseWrite c a s).mp.cfg = s.mp.cfg := rfl

end

/-! ## setClient -/

section
variable (i : Fin Config.clientCount) (e : ClientEntry)
variable (s : State)

@[simp] theorem setClient_tb : (s.setClient i e).tb = s.tb := rfl
@[simp] theorem setClient_se : (s.setClient i e).se = s.se := rfl
@[simp] theorem setClient_pt : (s.setClient i e).pt = s.pt := rfl
@[simp] theorem setClient_li : (s.setClient i e).li = s.li := rfl
@[simp] theorem setClient_me : (s.setClient i e).me = s.me := rfl
@[simp] theorem setClient_wu : (s.setClient i e).wu = s.wu := rfl
@[simp] theorem setClient_lw : (s.setClient i e).lw = s.lw := rfl
@[simp] theorem setClient_mc : (s.setClient i e).mc = s.mc := rfl
@[simp] theorem setClient_mp : (s.setClient i e).mp = s.mp := rfl
@[simp] theorem setClient_mem : (s.setClient i e).mem = s.mem := rfl
@[simp] theorem setClient_composition : (s.setClient i e).composition = s.composition := rfl
@[simp] theorem setClient_resetLow : (s.setClient i e).resetLow = s.resetLow := rfl
@[simp] theorem setClient_freeDraws : (s.setClient i e).freeDraws = s.freeDraws := rfl
@[simp] theorem setClient_pending : (s.setClient i e).pending = s.pending := rfl
@[simp] theorem setClient_shareDir (d' : Dir) : (s.setClient i e).shareDir d' = s.shareDir d' := rfl
@[simp] theorem setClient_slot (j' : Fin Config.peerSlots) : (s.setClient i e).slot j' = s.slot j' := rfl
@[simp] theorem setClient_watch (j' : Fin Config.watchCount) : (s.setClient i e).watch j' = s.watch j' := rfl
@[simp] theorem setClient_started : (s.setClient i e).started = s.started := rfl
@[simp] theorem setClient_cfg : (s.setClient i e).mp.cfg = s.mp.cfg := rfl

end

/-! ## endCommand -/

section
variable (o : CommandOutcome)
variable (s : State)

@[simp] theorem endCommand_tb : (endCommand o s).tb = s.tb := rfl
@[simp] theorem endCommand_se : (endCommand o s).se = s.se := rfl
@[simp] theorem endCommand_pt : (endCommand o s).pt = s.pt := rfl
@[simp] theorem endCommand_li : (endCommand o s).li = s.li := rfl
@[simp] theorem endCommand_ct : (endCommand o s).ct = s.ct := rfl
@[simp] theorem endCommand_me : (endCommand o s).me = s.me := rfl
@[simp] theorem endCommand_wu : (endCommand o s).wu = s.wu := rfl
@[simp] theorem endCommand_lw : (endCommand o s).lw = s.lw := rfl
@[simp] theorem endCommand_mc : (endCommand o s).mc = s.mc := rfl
@[simp] theorem endCommand_mem : (endCommand o s).mem = s.mem := rfl
@[simp] theorem endCommand_composition : (endCommand o s).composition = s.composition := rfl
@[simp] theorem endCommand_resetLow : (endCommand o s).resetLow = s.resetLow := rfl
@[simp] theorem endCommand_freeDraws : (endCommand o s).freeDraws = s.freeDraws := rfl
@[simp] theorem endCommand_pending : (endCommand o s).pending = s.pending := rfl
@[simp] theorem endCommand_client (j' : Fin Config.clientCount) : (endCommand o s).client j' = s.client j' := rfl
@[simp] theorem endCommand_shareDir (d' : Dir) : (endCommand o s).shareDir d' = s.shareDir d' := rfl
@[simp] theorem endCommand_slot (j' : Fin Config.peerSlots) : (endCommand o s).slot j' = s.slot j' := rfl
@[simp] theorem endCommand_watch (j' : Fin Config.watchCount) : (endCommand o s).watch j' = s.watch j' := rfl
@[simp] theorem endCommand_started : (endCommand o s).started = s.started := rfl
@[simp] theorem endCommand_cfg : (endCommand o s).mp.cfg = s.mp.cfg := rfl

end

/-! ## setWindow -/

section
variable (ws : List Word)
variable (s : State)

@[simp] theorem setWindow_tb : (setWindow ws s).tb = s.tb := rfl
@[simp] theorem setWindow_se : (setWindow ws s).se = s.se := rfl
@[simp] theorem setWindow_pt : (setWindow ws s).pt = s.pt := rfl
@[simp] theorem setWindow_li : (setWindow ws s).li = s.li := rfl
@[simp] theorem setWindow_ct : (setWindow ws s).ct = s.ct := rfl
@[simp] theorem setWindow_me : (setWindow ws s).me = s.me := rfl
@[simp] theorem setWindow_wu : (setWindow ws s).wu = s.wu := rfl
@[simp] theorem setWindow_lw : (setWindow ws s).lw = s.lw := rfl
@[simp] theorem setWindow_mc : (setWindow ws s).mc = s.mc := rfl
@[simp] theorem setWindow_mem : (setWindow ws s).mem = s.mem := rfl
@[simp] theorem setWindow_composition : (setWindow ws s).composition = s.composition := rfl
@[simp] theorem setWindow_resetLow : (setWindow ws s).resetLow = s.resetLow := rfl
@[simp] theorem setWindow_freeDraws : (setWindow ws s).freeDraws = s.freeDraws := rfl
@[simp] theorem setWindow_pending : (setWindow ws s).pending = s.pending := rfl
@[simp] theorem setWindow_client (j' : Fin Config.clientCount) : (setWindow ws s).client j' = s.client j' := rfl
@[simp] theorem setWindow_shareDir (d' : Dir) : (setWindow ws s).shareDir d' = s.shareDir d' := rfl
@[simp] theorem setWindow_slot (j' : Fin Config.peerSlots) : (setWindow ws s).slot j' = s.slot j' := rfl
@[simp] theorem setWindow_watch (j' : Fin Config.watchCount) : (setWindow ws s).watch j' = s.watch j' := rfl
@[simp] theorem setWindow_started : (setWindow ws s).started = s.started := rfl
@[simp] theorem setWindow_cfg : (setWindow ws s).mp.cfg = s.mp.cfg := rfl

end

/-! ## arbitrate -/

section
variable (s : State)

@[simp] theorem arbitrate_tb : (arbitrate s).tb = s.tb := rfl
@[simp] theorem arbitrate_se : (arbitrate s).se = s.se := rfl
@[simp] theorem arbitrate_pt : (arbitrate s).pt = s.pt := rfl
@[simp] theorem arbitrate_li : (arbitrate s).li = s.li := rfl
@[simp] theorem arbitrate_ct : (arbitrate s).ct = s.ct := rfl
@[simp] theorem arbitrate_me : (arbitrate s).me = s.me := rfl
@[simp] theorem arbitrate_wu : (arbitrate s).wu = s.wu := rfl
@[simp] theorem arbitrate_lw : (arbitrate s).lw = s.lw := rfl
@[simp] theorem arbitrate_mp : (arbitrate s).mp = s.mp := rfl
@[simp] theorem arbitrate_mem : (arbitrate s).mem = s.mem := rfl
@[simp] theorem arbitrate_composition : (arbitrate s).composition = s.composition := rfl
@[simp] theorem arbitrate_resetLow : (arbitrate s).resetLow = s.resetLow := rfl
@[simp] theorem arbitrate_freeDraws : (arbitrate s).freeDraws = s.freeDraws := rfl
@[simp] theorem arbitrate_pending : (arbitrate s).pending = s.pending := rfl
@[simp] theorem arbitrate_client (j' : Fin Config.clientCount) : (arbitrate s).client j' = s.client j' := rfl
@[simp] theorem arbitrate_shareDir (d' : Dir) : (arbitrate s).shareDir d' = s.shareDir d' := rfl
@[simp] theorem arbitrate_slot (j' : Fin Config.peerSlots) : (arbitrate s).slot j' = s.slot j' := rfl
@[simp] theorem arbitrate_watch (j' : Fin Config.watchCount) : (arbitrate s).watch j' = s.watch j' := rfl
@[simp] theorem arbitrate_started : (arbitrate s).started = s.started := rfl
@[simp] theorem arbitrate_cfg : (arbitrate s).mp.cfg = s.mp.cfg := rfl

end

/-! ## placeWindowRequest -/

section
variable (r : WindowRequest)
variable (s : State)

@[simp] theorem placeWindowRequest_tb : (placeWindowRequest r s).tb = s.tb := rfl
@[simp] theorem placeWindowRequest_se : (placeWindowRequest r s).se = s.se := rfl
@[simp] theorem placeWindowRequest_pt : (placeWindowRequest r s).pt = s.pt := rfl
@[simp] theorem placeWindowRequest_li : (placeWindowRequest r s).li = s.li := rfl
@[simp] theorem placeWindowRequest_ct : (placeWindowRequest r s).ct = s.ct := rfl
@[simp] theorem placeWindowRequest_me : (placeWindowRequest r s).me = s.me := rfl
@[simp] theorem placeWindowRequest_wu : (placeWindowRequest r s).wu = s.wu := rfl
@[simp] theorem placeWindowRequest_lw : (placeWindowRequest r s).lw = s.lw := rfl
@[simp] theorem placeWindowRequest_mp : (placeWindowRequest r s).mp = s.mp := rfl
@[simp] theorem placeWindowRequest_mem : (placeWindowRequest r s).mem = s.mem := rfl
@[simp] theorem placeWindowRequest_composition : (placeWindowRequest r s).composition = s.composition := rfl
@[simp] theorem placeWindowRequest_resetLow : (placeWindowRequest r s).resetLow = s.resetLow := rfl
@[simp] theorem placeWindowRequest_freeDraws : (placeWindowRequest r s).freeDraws = s.freeDraws := rfl
@[simp] theorem placeWindowRequest_pending : (placeWindowRequest r s).pending = s.pending := rfl
@[simp] theorem placeWindowRequest_client (j' : Fin Config.clientCount) : (placeWindowRequest r s).client j' = s.client j' := rfl
@[simp] theorem placeWindowRequest_shareDir (d' : Dir) : (placeWindowRequest r s).shareDir d' = s.shareDir d' := rfl
@[simp] theorem placeWindowRequest_slot (j' : Fin Config.peerSlots) : (placeWindowRequest r s).slot j' = s.slot j' := rfl
@[simp] theorem placeWindowRequest_watch (j' : Fin Config.watchCount) : (placeWindowRequest r s).watch j' = s.watch j' := rfl
@[simp] theorem placeWindowRequest_started : (placeWindowRequest r s).started = s.started := rfl
@[simp] theorem placeWindowRequest_cfg : (placeWindowRequest r s).mp.cfg = s.mp.cfg := rfl

end

/-! ## placeLogRequest -/

section
variable (r : LogRequest)
variable (s : State)

@[simp] theorem placeLogRequest_tb : (placeLogRequest r s).tb = s.tb := rfl
@[simp] theorem placeLogRequest_se : (placeLogRequest r s).se = s.se := rfl
@[simp] theorem placeLogRequest_pt : (placeLogRequest r s).pt = s.pt := rfl
@[simp] theorem placeLogRequest_li : (placeLogRequest r s).li = s.li := rfl
@[simp] theorem placeLogRequest_ct : (placeLogRequest r s).ct = s.ct := rfl
@[simp] theorem placeLogRequest_me : (placeLogRequest r s).me = s.me := rfl
@[simp] theorem placeLogRequest_wu : (placeLogRequest r s).wu = s.wu := rfl
@[simp] theorem placeLogRequest_lw : (placeLogRequest r s).lw = s.lw := rfl
@[simp] theorem placeLogRequest_mp : (placeLogRequest r s).mp = s.mp := rfl
@[simp] theorem placeLogRequest_mem : (placeLogRequest r s).mem = s.mem := rfl
@[simp] theorem placeLogRequest_composition : (placeLogRequest r s).composition = s.composition := rfl
@[simp] theorem placeLogRequest_resetLow : (placeLogRequest r s).resetLow = s.resetLow := rfl
@[simp] theorem placeLogRequest_freeDraws : (placeLogRequest r s).freeDraws = s.freeDraws := rfl
@[simp] theorem placeLogRequest_pending : (placeLogRequest r s).pending = s.pending := rfl
@[simp] theorem placeLogRequest_client (j' : Fin Config.clientCount) : (placeLogRequest r s).client j' = s.client j' := rfl
@[simp] theorem placeLogRequest_shareDir (d' : Dir) : (placeLogRequest r s).shareDir d' = s.shareDir d' := rfl
@[simp] theorem placeLogRequest_slot (j' : Fin Config.peerSlots) : (placeLogRequest r s).slot j' = s.slot j' := rfl
@[simp] theorem placeLogRequest_watch (j' : Fin Config.watchCount) : (placeLogRequest r s).watch j' = s.watch j' := rfl
@[simp] theorem placeLogRequest_started : (placeLogRequest r s).started = s.started := rfl
@[simp] theorem placeLogRequest_cfg : (placeLogRequest r s).mp.cfg = s.mp.cfg := rfl

end

/-! ## loseRecord -/

section
variable (s : State)

@[simp] theorem loseRecord_tb : (loseRecord s).tb = s.tb := rfl
@[simp] theorem loseRecord_se : (loseRecord s).se = s.se := rfl
@[simp] theorem loseRecord_pt : (loseRecord s).pt = s.pt := rfl
@[simp] theorem loseRecord_li : (loseRecord s).li = s.li := rfl
@[simp] theorem loseRecord_ct : (loseRecord s).ct = s.ct := rfl
@[simp] theorem loseRecord_me : (loseRecord s).me = s.me := rfl
@[simp] theorem loseRecord_wu : (loseRecord s).wu = s.wu := rfl
@[simp] theorem loseRecord_mc : (loseRecord s).mc = s.mc := rfl
@[simp] theorem loseRecord_mem : (loseRecord s).mem = s.mem := rfl
@[simp] theorem loseRecord_composition : (loseRecord s).composition = s.composition := rfl
@[simp] theorem loseRecord_resetLow : (loseRecord s).resetLow = s.resetLow := rfl
@[simp] theorem loseRecord_freeDraws : (loseRecord s).freeDraws = s.freeDraws := rfl
@[simp] theorem loseRecord_pending : (loseRecord s).pending = s.pending := rfl
@[simp] theorem loseRecord_client (j' : Fin Config.clientCount) : (loseRecord s).client j' = s.client j' := rfl
@[simp] theorem loseRecord_shareDir (d' : Dir) : (loseRecord s).shareDir d' = s.shareDir d' := rfl
@[simp] theorem loseRecord_slot (j' : Fin Config.peerSlots) : (loseRecord s).slot j' = s.slot j' := rfl
@[simp] theorem loseRecord_watch (j' : Fin Config.watchCount) : (loseRecord s).watch j' = s.watch j' := rfl
@[simp] theorem loseRecord_started : (loseRecord s).started = s.started := rfl
@[simp] theorem loseRecord_cfg : (loseRecord s).mp.cfg = s.mp.cfg := rfl

end

/-! ## applyPendingIndex -/

section
variable (v : Nat)
variable (s : State)

@[simp] theorem applyPendingIndex_tb : (applyPendingIndex v s).tb = s.tb := rfl
@[simp] theorem applyPendingIndex_se : (applyPendingIndex v s).se = s.se := rfl
@[simp] theorem applyPendingIndex_pt : (applyPendingIndex v s).pt = s.pt := rfl
@[simp] theorem applyPendingIndex_li : (applyPendingIndex v s).li = s.li := rfl
@[simp] theorem applyPendingIndex_ct : (applyPendingIndex v s).ct = s.ct := rfl
@[simp] theorem applyPendingIndex_me : (applyPendingIndex v s).me = s.me := rfl
@[simp] theorem applyPendingIndex_wu : (applyPendingIndex v s).wu = s.wu := rfl
@[simp] theorem applyPendingIndex_mc : (applyPendingIndex v s).mc = s.mc := rfl
@[simp] theorem applyPendingIndex_mp : (applyPendingIndex v s).mp = s.mp := rfl
@[simp] theorem applyPendingIndex_mem : (applyPendingIndex v s).mem = s.mem := rfl
@[simp] theorem applyPendingIndex_composition : (applyPendingIndex v s).composition = s.composition := rfl
@[simp] theorem applyPendingIndex_resetLow : (applyPendingIndex v s).resetLow = s.resetLow := rfl
@[simp] theorem applyPendingIndex_freeDraws : (applyPendingIndex v s).freeDraws = s.freeDraws := rfl
@[simp] theorem applyPendingIndex_pending : (applyPendingIndex v s).pending = s.pending := rfl
@[simp] theorem applyPendingIndex_client (j' : Fin Config.clientCount) : (applyPendingIndex v s).client j' = s.client j' := rfl
@[simp] theorem applyPendingIndex_shareDir (d' : Dir) : (applyPendingIndex v s).shareDir d' = s.shareDir d' := rfl
@[simp] theorem applyPendingIndex_slot (j' : Fin Config.peerSlots) : (applyPendingIndex v s).slot j' = s.slot j' := rfl
@[simp] theorem applyPendingIndex_watch (j' : Fin Config.watchCount) : (applyPendingIndex v s).watch j' = s.watch j' := rfl
@[simp] theorem applyPendingIndex_started : (applyPendingIndex v s).started = s.started := rfl
@[simp] theorem applyPendingIndex_cfg : (applyPendingIndex v s).mp.cfg = s.mp.cfg := rfl

end

/-! ## setDataOut -/

section
variable (v : Word)
variable (s : State)

@[simp] theorem setDataOut_tb : (setDataOut v s).tb = s.tb := rfl
@[simp] theorem setDataOut_se : (setDataOut v s).se = s.se := rfl
@[simp] theorem setDataOut_pt : (setDataOut v s).pt = s.pt := rfl
@[simp] theorem setDataOut_li : (setDataOut v s).li = s.li := rfl
@[simp] theorem setDataOut_ct : (setDataOut v s).ct = s.ct := rfl
@[simp] theorem setDataOut_me : (setDataOut v s).me = s.me := rfl
@[simp] theorem setDataOut_wu : (setDataOut v s).wu = s.wu := rfl
@[simp] theorem setDataOut_lw : (setDataOut v s).lw = s.lw := rfl
@[simp] theorem setDataOut_mc : (setDataOut v s).mc = s.mc := rfl
@[simp] theorem setDataOut_mem : (setDataOut v s).mem = s.mem := rfl
@[simp] theorem setDataOut_composition : (setDataOut v s).composition = s.composition := rfl
@[simp] theorem setDataOut_resetLow : (setDataOut v s).resetLow = s.resetLow := rfl
@[simp] theorem setDataOut_freeDraws : (setDataOut v s).freeDraws = s.freeDraws := rfl
@[simp] theorem setDataOut_pending : (setDataOut v s).pending = s.pending := rfl
@[simp] theorem setDataOut_client (j' : Fin Config.clientCount) : (setDataOut v s).client j' = s.client j' := rfl
@[simp] theorem setDataOut_shareDir (d' : Dir) : (setDataOut v s).shareDir d' = s.shareDir d' := rfl
@[simp] theorem setDataOut_slot (j' : Fin Config.peerSlots) : (setDataOut v s).slot j' = s.slot j' := rfl
@[simp] theorem setDataOut_watch (j' : Fin Config.watchCount) : (setDataOut v s).watch j' = s.watch j' := rfl
@[simp] theorem setDataOut_started : (setDataOut v s).started = s.started := rfl
@[simp] theorem setDataOut_cfg : (setDataOut v s).mp.cfg = s.mp.cfg := rfl

end

/-! ## setShareDir -/

section
variable (d : Dir) (x : ShareDir)
variable (s : State)

@[simp] theorem setShareDir_tb : (s.setShareDir d x).tb = s.tb := rfl
@[simp] theorem setShareDir_pt : (s.setShareDir d x).pt = s.pt := rfl
@[simp] theorem setShareDir_li : (s.setShareDir d x).li = s.li := rfl
@[simp] theorem setShareDir_ct : (s.setShareDir d x).ct = s.ct := rfl
@[simp] theorem setShareDir_me : (s.setShareDir d x).me = s.me := rfl
@[simp] theorem setShareDir_wu : (s.setShareDir d x).wu = s.wu := rfl
@[simp] theorem setShareDir_lw : (s.setShareDir d x).lw = s.lw := rfl
@[simp] theorem setShareDir_mc : (s.setShareDir d x).mc = s.mc := rfl
@[simp] theorem setShareDir_mp : (s.setShareDir d x).mp = s.mp := rfl
@[simp] theorem setShareDir_mem : (s.setShareDir d x).mem = s.mem := rfl
@[simp] theorem setShareDir_composition : (s.setShareDir d x).composition = s.composition := rfl
@[simp] theorem setShareDir_resetLow : (s.setShareDir d x).resetLow = s.resetLow := rfl
@[simp] theorem setShareDir_freeDraws : (s.setShareDir d x).freeDraws = s.freeDraws := rfl
@[simp] theorem setShareDir_pending : (s.setShareDir d x).pending = s.pending := rfl
@[simp] theorem setShareDir_client (j' : Fin Config.clientCount) : (s.setShareDir d x).client j' = s.client j' := rfl
@[simp] theorem setShareDir_slot (j' : Fin Config.peerSlots) : (s.setShareDir d x).slot j' = s.slot j' := rfl
@[simp] theorem setShareDir_watch (j' : Fin Config.watchCount) : (s.setShareDir d x).watch j' = s.watch j' := rfl
@[simp] theorem setShareDir_started : (s.setShareDir d x).started = s.started := rfl
@[simp] theorem setShareDir_cfg : (s.setShareDir d x).mp.cfg = s.mp.cfg := rfl

end

/-! ## setRemainder -/

section
variable (d : Dir) (r : Nat)
variable (s : State)

@[simp] theorem setRemainder_tb : (s.setRemainder d r).tb = s.tb := rfl
@[simp] theorem setRemainder_pt : (s.setRemainder d r).pt = s.pt := rfl
@[simp] theorem setRemainder_li : (s.setRemainder d r).li = s.li := rfl
@[simp] theorem setRemainder_ct : (s.setRemainder d r).ct = s.ct := rfl
@[simp] theorem setRemainder_me : (s.setRemainder d r).me = s.me := rfl
@[simp] theorem setRemainder_wu : (s.setRemainder d r).wu = s.wu := rfl
@[simp] theorem setRemainder_lw : (s.setRemainder d r).lw = s.lw := rfl
@[simp] theorem setRemainder_mc : (s.setRemainder d r).mc = s.mc := rfl
@[simp] theorem setRemainder_mp : (s.setRemainder d r).mp = s.mp := rfl
@[simp] theorem setRemainder_mem : (s.setRemainder d r).mem = s.mem := rfl
@[simp] theorem setRemainder_composition : (s.setRemainder d r).composition = s.composition := rfl
@[simp] theorem setRemainder_resetLow : (s.setRemainder d r).resetLow = s.resetLow := rfl
@[simp] theorem setRemainder_freeDraws : (s.setRemainder d r).freeDraws = s.freeDraws := rfl
@[simp] theorem setRemainder_pending : (s.setRemainder d r).pending = s.pending := rfl
@[simp] theorem setRemainder_client (j' : Fin Config.clientCount) : (s.setRemainder d r).client j' = s.client j' := rfl
@[simp] theorem setRemainder_slot (j' : Fin Config.peerSlots) : (s.setRemainder d r).slot j' = s.slot j' := rfl
@[simp] theorem setRemainder_watch (j' : Fin Config.watchCount) : (s.setRemainder d r).watch j' = s.watch j' := rfl
@[simp] theorem setRemainder_started : (s.setRemainder d r).started = s.started := rfl
@[simp] theorem setRemainder_cfg : (s.setRemainder d r).mp.cfg = s.mp.cfg := rfl

end

/-! ## setGrant -/

section
variable (d : Dir) (i : Fin Config.clientCount) (g : Nat)
variable (s : State)

@[simp] theorem setGrant_tb : (s.setGrant d i g).tb = s.tb := rfl
@[simp] theorem setGrant_se : (s.setGrant d i g).se = s.se := rfl
@[simp] theorem setGrant_pt : (s.setGrant d i g).pt = s.pt := rfl
@[simp] theorem setGrant_li : (s.setGrant d i g).li = s.li := rfl
@[simp] theorem setGrant_me : (s.setGrant d i g).me = s.me := rfl
@[simp] theorem setGrant_wu : (s.setGrant d i g).wu = s.wu := rfl
@[simp] theorem setGrant_lw : (s.setGrant d i g).lw = s.lw := rfl
@[simp] theorem setGrant_mc : (s.setGrant d i g).mc = s.mc := rfl
@[simp] theorem setGrant_mp : (s.setGrant d i g).mp = s.mp := rfl
@[simp] theorem setGrant_mem : (s.setGrant d i g).mem = s.mem := rfl
@[simp] theorem setGrant_composition : (s.setGrant d i g).composition = s.composition := rfl
@[simp] theorem setGrant_resetLow : (s.setGrant d i g).resetLow = s.resetLow := rfl
@[simp] theorem setGrant_freeDraws : (s.setGrant d i g).freeDraws = s.freeDraws := rfl
@[simp] theorem setGrant_pending : (s.setGrant d i g).pending = s.pending := rfl
@[simp] theorem setGrant_shareDir (d' : Dir) : (s.setGrant d i g).shareDir d' = s.shareDir d' := rfl
@[simp] theorem setGrant_slot (j' : Fin Config.peerSlots) : (s.setGrant d i g).slot j' = s.slot j' := rfl
@[simp] theorem setGrant_watch (j' : Fin Config.watchCount) : (s.setGrant d i g).watch j' = s.watch j' := rfl
@[simp] theorem setGrant_started : (s.setGrant d i g).started = s.started := rfl
@[simp] theorem setGrant_cfg : (s.setGrant d i g).mp.cfg = s.mp.cfg := rfl

end

/-! ## drawGrant -/

section
variable (d : Dir) (i : Fin Config.clientCount) (g : Nat)
variable (s : State)

@[simp] theorem drawGrant_tb : (drawGrant d i g s).tb = s.tb := rfl
@[simp] theorem drawGrant_pt : (drawGrant d i g s).pt = s.pt := rfl
@[simp] theorem drawGrant_li : (drawGrant d i g s).li = s.li := rfl
@[simp] theorem drawGrant_me : (drawGrant d i g s).me = s.me := rfl
@[simp] theorem drawGrant_wu : (drawGrant d i g s).wu = s.wu := rfl
@[simp] theorem drawGrant_lw : (drawGrant d i g s).lw = s.lw := rfl
@[simp] theorem drawGrant_mc : (drawGrant d i g s).mc = s.mc := rfl
@[simp] theorem drawGrant_mp : (drawGrant d i g s).mp = s.mp := rfl
@[simp] theorem drawGrant_mem : (drawGrant d i g s).mem = s.mem := rfl
@[simp] theorem drawGrant_composition : (drawGrant d i g s).composition = s.composition := rfl
@[simp] theorem drawGrant_resetLow : (drawGrant d i g s).resetLow = s.resetLow := rfl
@[simp] theorem drawGrant_freeDraws : (drawGrant d i g s).freeDraws = s.freeDraws := rfl
@[simp] theorem drawGrant_pending : (drawGrant d i g s).pending = s.pending := rfl
@[simp] theorem drawGrant_slot (j' : Fin Config.peerSlots) : (drawGrant d i g s).slot j' = s.slot j' := rfl
@[simp] theorem drawGrant_watch (j' : Fin Config.watchCount) : (drawGrant d i g s).watch j' = s.watch j' := rfl
@[simp] theorem drawGrant_started : (drawGrant d i g s).started = s.started := rfl
@[simp] theorem drawGrant_cfg : (drawGrant d i g s).mp.cfg = s.mp.cfg := rfl

end

/-! ## takeJoinGrant -/

section
variable (d : Dir) (i : Fin Config.clientCount)
variable (s : State)

@[simp] theorem takeJoinGrant_tb : (takeJoinGrant d i s).tb = s.tb := rfl
@[simp] theorem takeJoinGrant_pt : (takeJoinGrant d i s).pt = s.pt := rfl
@[simp] theorem takeJoinGrant_li : (takeJoinGrant d i s).li = s.li := rfl
@[simp] theorem takeJoinGrant_me : (takeJoinGrant d i s).me = s.me := rfl
@[simp] theorem takeJoinGrant_wu : (takeJoinGrant d i s).wu = s.wu := rfl
@[simp] theorem takeJoinGrant_lw : (takeJoinGrant d i s).lw = s.lw := rfl
@[simp] theorem takeJoinGrant_mc : (takeJoinGrant d i s).mc = s.mc := rfl
@[simp] theorem takeJoinGrant_mp : (takeJoinGrant d i s).mp = s.mp := rfl
@[simp] theorem takeJoinGrant_mem : (takeJoinGrant d i s).mem = s.mem := rfl
@[simp] theorem takeJoinGrant_composition : (takeJoinGrant d i s).composition = s.composition := rfl
@[simp] theorem takeJoinGrant_resetLow : (takeJoinGrant d i s).resetLow = s.resetLow := rfl
@[simp] theorem takeJoinGrant_freeDraws : (takeJoinGrant d i s).freeDraws = s.freeDraws := rfl
@[simp] theorem takeJoinGrant_pending : (takeJoinGrant d i s).pending = s.pending := rfl
@[simp] theorem takeJoinGrant_slot (j' : Fin Config.peerSlots) : (takeJoinGrant d i s).slot j' = s.slot j' := rfl
@[simp] theorem takeJoinGrant_watch (j' : Fin Config.watchCount) : (takeJoinGrant d i s).watch j' = s.watch j' := rfl
@[simp] theorem takeJoinGrant_started : (takeJoinGrant d i s).started = s.started := rfl
@[simp] theorem takeJoinGrant_cfg : (takeJoinGrant d i s).mp.cfg = s.mp.cfg := rfl

end

/-! ## takeJoinGrants -/

section
variable (i : Fin Config.clientCount)
variable (s : State)

@[simp] theorem takeJoinGrants_tb : (takeJoinGrants i s).tb = s.tb := rfl
@[simp] theorem takeJoinGrants_pt : (takeJoinGrants i s).pt = s.pt := rfl
@[simp] theorem takeJoinGrants_li : (takeJoinGrants i s).li = s.li := rfl
@[simp] theorem takeJoinGrants_me : (takeJoinGrants i s).me = s.me := rfl
@[simp] theorem takeJoinGrants_wu : (takeJoinGrants i s).wu = s.wu := rfl
@[simp] theorem takeJoinGrants_lw : (takeJoinGrants i s).lw = s.lw := rfl
@[simp] theorem takeJoinGrants_mc : (takeJoinGrants i s).mc = s.mc := rfl
@[simp] theorem takeJoinGrants_mp : (takeJoinGrants i s).mp = s.mp := rfl
@[simp] theorem takeJoinGrants_mem : (takeJoinGrants i s).mem = s.mem := rfl
@[simp] theorem takeJoinGrants_composition : (takeJoinGrants i s).composition = s.composition := rfl
@[simp] theorem takeJoinGrants_resetLow : (takeJoinGrants i s).resetLow = s.resetLow := rfl
@[simp] theorem takeJoinGrants_freeDraws : (takeJoinGrants i s).freeDraws = s.freeDraws := rfl
@[simp] theorem takeJoinGrants_pending : (takeJoinGrants i s).pending = s.pending := rfl
@[simp] theorem takeJoinGrants_slot (j' : Fin Config.peerSlots) : (takeJoinGrants i s).slot j' = s.slot j' := rfl
@[simp] theorem takeJoinGrants_watch (j' : Fin Config.watchCount) : (takeJoinGrants i s).watch j' = s.watch j' := rfl
@[simp] theorem takeJoinGrants_started : (takeJoinGrants i s).started = s.started := rfl
@[simp] theorem takeJoinGrants_cfg : (takeJoinGrants i s).mp.cfg = s.mp.cfg := rfl

end

/-! ## returnGrant -/

section
variable (k : Nat) (d : Dir) (i : Fin Config.clientCount)
variable (s : State)

@[simp] theorem returnGrant_tb : (returnGrant k d i s).tb = s.tb := rfl
@[simp] theorem returnGrant_pt : (returnGrant k d i s).pt = s.pt := rfl
@[simp] theorem returnGrant_li : (returnGrant k d i s).li = s.li := rfl
@[simp] theorem returnGrant_me : (returnGrant k d i s).me = s.me := rfl
@[simp] theorem returnGrant_wu : (returnGrant k d i s).wu = s.wu := rfl
@[simp] theorem returnGrant_lw : (returnGrant k d i s).lw = s.lw := rfl
@[simp] theorem returnGrant_mc : (returnGrant k d i s).mc = s.mc := rfl
@[simp] theorem returnGrant_mp : (returnGrant k d i s).mp = s.mp := rfl
@[simp] theorem returnGrant_mem : (returnGrant k d i s).mem = s.mem := rfl
@[simp] theorem returnGrant_composition : (returnGrant k d i s).composition = s.composition := rfl
@[simp] theorem returnGrant_resetLow : (returnGrant k d i s).resetLow = s.resetLow := rfl
@[simp] theorem returnGrant_freeDraws : (returnGrant k d i s).freeDraws = s.freeDraws := rfl
@[simp] theorem returnGrant_pending : (returnGrant k d i s).pending = s.pending := rfl
@[simp] theorem returnGrant_slot (j' : Fin Config.peerSlots) : (returnGrant k d i s).slot j' = s.slot j' := rfl
@[simp] theorem returnGrant_watch (j' : Fin Config.watchCount) : (returnGrant k d i s).watch j' = s.watch j' := rfl
@[simp] theorem returnGrant_started : (returnGrant k d i s).started = s.started := rfl
@[simp] theorem returnGrant_cfg : (returnGrant k d i s).mp.cfg = s.mp.cfg := rfl

end

/-! ## strike -/

section
variable (i : Fin Config.clientCount)
variable (s : State)

@[simp] theorem strike_tb : (strike i s).tb = s.tb := rfl
@[simp] theorem strike_pt : (strike i s).pt = s.pt := rfl
@[simp] theorem strike_li : (strike i s).li = s.li := rfl
@[simp] theorem strike_ct : (strike i s).ct = s.ct := rfl
@[simp] theorem strike_me : (strike i s).me = s.me := rfl
@[simp] theorem strike_wu : (strike i s).wu = s.wu := rfl
@[simp] theorem strike_lw : (strike i s).lw = s.lw := rfl
@[simp] theorem strike_mc : (strike i s).mc = s.mc := rfl
@[simp] theorem strike_mp : (strike i s).mp = s.mp := rfl
@[simp] theorem strike_mem : (strike i s).mem = s.mem := rfl
@[simp] theorem strike_composition : (strike i s).composition = s.composition := rfl
@[simp] theorem strike_resetLow : (strike i s).resetLow = s.resetLow := rfl
@[simp] theorem strike_freeDraws : (strike i s).freeDraws = s.freeDraws := rfl
@[simp] theorem strike_pending : (strike i s).pending = s.pending := rfl
@[simp] theorem strike_client (j' : Fin Config.clientCount) : (strike i s).client j' = s.client j' := rfl
@[simp] theorem strike_slot (j' : Fin Config.peerSlots) : (strike i s).slot j' = s.slot j' := rfl
@[simp] theorem strike_watch (j' : Fin Config.watchCount) : (strike i s).watch j' = s.watch j' := rfl
@[simp] theorem strike_started : (strike i s).started = s.started := rfl
@[simp] theorem strike_cfg : (strike i s).mp.cfg = s.mp.cfg := rfl

end

/-! ## leaveSharing -/

section
variable (i : Fin Config.clientCount)
variable (s : State)

@[simp] theorem leaveSharing_tb : (leaveSharing i s).tb = s.tb := rfl
@[simp] theorem leaveSharing_pt : (leaveSharing i s).pt = s.pt := rfl
@[simp] theorem leaveSharing_li : (leaveSharing i s).li = s.li := rfl
@[simp] theorem leaveSharing_me : (leaveSharing i s).me = s.me := rfl
@[simp] theorem leaveSharing_wu : (leaveSharing i s).wu = s.wu := rfl
@[simp] theorem leaveSharing_lw : (leaveSharing i s).lw = s.lw := rfl
@[simp] theorem leaveSharing_mc : (leaveSharing i s).mc = s.mc := rfl
@[simp] theorem leaveSharing_mp : (leaveSharing i s).mp = s.mp := rfl
@[simp] theorem leaveSharing_mem : (leaveSharing i s).mem = s.mem := rfl
@[simp] theorem leaveSharing_composition : (leaveSharing i s).composition = s.composition := rfl
@[simp] theorem leaveSharing_resetLow : (leaveSharing i s).resetLow = s.resetLow := rfl
@[simp] theorem leaveSharing_freeDraws : (leaveSharing i s).freeDraws = s.freeDraws := rfl
@[simp] theorem leaveSharing_pending : (leaveSharing i s).pending = s.pending := rfl
@[simp] theorem leaveSharing_slot (j' : Fin Config.peerSlots) : (leaveSharing i s).slot j' = s.slot j' := rfl
@[simp] theorem leaveSharing_watch (j' : Fin Config.watchCount) : (leaveSharing i s).watch j' = s.watch j' := rfl
@[simp] theorem leaveSharing_started : (leaveSharing i s).started = s.started := rfl
@[simp] theorem leaveSharing_cfg : (leaveSharing i s).mp.cfg = s.mp.cfg := rfl

end

/-! ## joinWithFullBuckets -/

section
variable (i : Fin Config.clientCount)
variable (s : State)

@[simp] theorem joinWithFullBuckets_tb : (joinWithFullBuckets i s).tb = s.tb := rfl
@[simp] theorem joinWithFullBuckets_pt : (joinWithFullBuckets i s).pt = s.pt := rfl
@[simp] theorem joinWithFullBuckets_li : (joinWithFullBuckets i s).li = s.li := rfl
@[simp] theorem joinWithFullBuckets_me : (joinWithFullBuckets i s).me = s.me := rfl
@[simp] theorem joinWithFullBuckets_wu : (joinWithFullBuckets i s).wu = s.wu := rfl
@[simp] theorem joinWithFullBuckets_lw : (joinWithFullBuckets i s).lw = s.lw := rfl
@[simp] theorem joinWithFullBuckets_mc : (joinWithFullBuckets i s).mc = s.mc := rfl
@[simp] theorem joinWithFullBuckets_mp : (joinWithFullBuckets i s).mp = s.mp := rfl
@[simp] theorem joinWithFullBuckets_mem : (joinWithFullBuckets i s).mem = s.mem := rfl
@[simp] theorem joinWithFullBuckets_composition : (joinWithFullBuckets i s).composition = s.composition := rfl
@[simp] theorem joinWithFullBuckets_resetLow : (joinWithFullBuckets i s).resetLow = s.resetLow := rfl
@[simp] theorem joinWithFullBuckets_freeDraws : (joinWithFullBuckets i s).freeDraws = s.freeDraws := rfl
@[simp] theorem joinWithFullBuckets_pending : (joinWithFullBuckets i s).pending = s.pending := rfl
@[simp] theorem joinWithFullBuckets_slot (j' : Fin Config.peerSlots) : (joinWithFullBuckets i s).slot j' = s.slot j' := rfl
@[simp] theorem joinWithFullBuckets_watch (j' : Fin Config.watchCount) : (joinWithFullBuckets i s).watch j' = s.watch j' := rfl
@[simp] theorem joinWithFullBuckets_started : (joinWithFullBuckets i s).started = s.started := rfl
@[simp] theorem joinWithFullBuckets_cfg : (joinWithFullBuckets i s).mp.cfg = s.mp.cfg := rfl

end

/-! ## endCycle -/

section
variable (s : State)

@[simp] theorem endCycle_se : (endCycle s).se = s.se := rfl
@[simp] theorem endCycle_pt : (endCycle s).pt = s.pt := rfl
@[simp] theorem endCycle_li : (endCycle s).li = s.li := rfl
@[simp] theorem endCycle_ct : (endCycle s).ct = s.ct := rfl
@[simp] theorem endCycle_me : (endCycle s).me = s.me := rfl
@[simp] theorem endCycle_wu : (endCycle s).wu = s.wu := rfl
@[simp] theorem endCycle_lw : (endCycle s).lw = s.lw := rfl
@[simp] theorem endCycle_mc : (endCycle s).mc = s.mc := rfl
@[simp] theorem endCycle_mp : (endCycle s).mp = s.mp := rfl
@[simp] theorem endCycle_mem : (endCycle s).mem = s.mem := rfl
@[simp] theorem endCycle_composition : (endCycle s).composition = s.composition := rfl
@[simp] theorem endCycle_resetLow : (endCycle s).resetLow = s.resetLow := rfl
@[simp] theorem endCycle_freeDraws : (endCycle s).freeDraws = s.freeDraws := rfl
@[simp] theorem endCycle_pending : (endCycle s).pending = s.pending := rfl
@[simp] theorem endCycle_client (j' : Fin Config.clientCount) : (endCycle s).client j' = s.client j' := rfl
@[simp] theorem endCycle_shareDir (d' : Dir) : (endCycle s).shareDir d' = s.shareDir d' := rfl
@[simp] theorem endCycle_slot (j' : Fin Config.peerSlots) : (endCycle s).slot j' = s.slot j' := rfl
@[simp] theorem endCycle_watch (j' : Fin Config.watchCount) : (endCycle s).watch j' = s.watch j' := rfl
@[simp] theorem endCycle_started : (endCycle s).started = s.started := rfl
@[simp] theorem endCycle_cfg : (endCycle s).mp.cfg = s.mp.cfg := rfl

end

/-! ## setShare -/

section
variable (d : Dir) (h : Bool) (a : Nat)
variable (s : State)

@[simp] theorem setShare_tb : (setShare d h a s).tb = s.tb := rfl
@[simp] theorem setShare_pt : (setShare d h a s).pt = s.pt := rfl
@[simp] theorem setShare_li : (setShare d h a s).li = s.li := rfl
@[simp] theorem setShare_ct : (setShare d h a s).ct = s.ct := rfl
@[simp] theorem setShare_me : (setShare d h a s).me = s.me := rfl
@[simp] theorem setShare_wu : (setShare d h a s).wu = s.wu := rfl
@[simp] theorem setShare_lw : (setShare d h a s).lw = s.lw := rfl
@[simp] theorem setShare_mc : (setShare d h a s).mc = s.mc := rfl
@[simp] theorem setShare_mp : (setShare d h a s).mp = s.mp := rfl
@[simp] theorem setShare_mem : (setShare d h a s).mem = s.mem := rfl
@[simp] theorem setShare_composition : (setShare d h a s).composition = s.composition := rfl
@[simp] theorem setShare_resetLow : (setShare d h a s).resetLow = s.resetLow := rfl
@[simp] theorem setShare_freeDraws : (setShare d h a s).freeDraws = s.freeDraws := rfl
@[simp] theorem setShare_pending : (setShare d h a s).pending = s.pending := rfl
@[simp] theorem setShare_client (j' : Fin Config.clientCount) : (setShare d h a s).client j' = s.client j' := rfl
@[simp] theorem setShare_slot (j' : Fin Config.peerSlots) : (setShare d h a s).slot j' = s.slot j' := rfl
@[simp] theorem setShare_watch (j' : Fin Config.watchCount) : (setShare d h a s).watch j' = s.watch j' := rfl
@[simp] theorem setShare_started : (setShare d h a s).started = s.started := rfl
@[simp] theorem setShare_cfg : (setShare d h a s).mp.cfg = s.mp.cfg := rfl

end

/-! ## storeOwn -/

section
variable (d : Dir) (n : Snapshot)
variable (s : State)

@[simp] theorem storeOwn_tb : (storeOwn d n s).tb = s.tb := rfl
@[simp] theorem storeOwn_pt : (storeOwn d n s).pt = s.pt := rfl
@[simp] theorem storeOwn_li : (storeOwn d n s).li = s.li := rfl
@[simp] theorem storeOwn_ct : (storeOwn d n s).ct = s.ct := rfl
@[simp] theorem storeOwn_me : (storeOwn d n s).me = s.me := rfl
@[simp] theorem storeOwn_wu : (storeOwn d n s).wu = s.wu := rfl
@[simp] theorem storeOwn_lw : (storeOwn d n s).lw = s.lw := rfl
@[simp] theorem storeOwn_mc : (storeOwn d n s).mc = s.mc := rfl
@[simp] theorem storeOwn_mp : (storeOwn d n s).mp = s.mp := rfl
@[simp] theorem storeOwn_mem : (storeOwn d n s).mem = s.mem := rfl
@[simp] theorem storeOwn_composition : (storeOwn d n s).composition = s.composition := rfl
@[simp] theorem storeOwn_resetLow : (storeOwn d n s).resetLow = s.resetLow := rfl
@[simp] theorem storeOwn_freeDraws : (storeOwn d n s).freeDraws = s.freeDraws := rfl
@[simp] theorem storeOwn_pending : (storeOwn d n s).pending = s.pending := rfl
@[simp] theorem storeOwn_client (j' : Fin Config.clientCount) : (storeOwn d n s).client j' = s.client j' := rfl
@[simp] theorem storeOwn_slot (j' : Fin Config.peerSlots) : (storeOwn d n s).slot j' = s.slot j' := rfl
@[simp] theorem storeOwn_watch (j' : Fin Config.watchCount) : (storeOwn d n s).watch j' = s.watch j' := rfl
@[simp] theorem storeOwn_started : (storeOwn d n s).started = s.started := rfl
@[simp] theorem storeOwn_cfg : (storeOwn d n s).mp.cfg = s.mp.cfg := rfl

end

/-! ## flipWindows -/

section
variable (n : Nat)
variable (s : State)

@[simp] theorem flipWindows_tb : (flipWindows n s).tb = s.tb := rfl
@[simp] theorem flipWindows_se : (flipWindows n s).se = s.se := rfl
@[simp] theorem flipWindows_pt : (flipWindows n s).pt = s.pt := rfl
@[simp] theorem flipWindows_li : (flipWindows n s).li = s.li := rfl
@[simp] theorem flipWindows_me : (flipWindows n s).me = s.me := rfl
@[simp] theorem flipWindows_wu : (flipWindows n s).wu = s.wu := rfl
@[simp] theorem flipWindows_lw : (flipWindows n s).lw = s.lw := rfl
@[simp] theorem flipWindows_mc : (flipWindows n s).mc = s.mc := rfl
@[simp] theorem flipWindows_mp : (flipWindows n s).mp = s.mp := rfl
@[simp] theorem flipWindows_mem : (flipWindows n s).mem = s.mem := rfl
@[simp] theorem flipWindows_composition : (flipWindows n s).composition = s.composition := rfl
@[simp] theorem flipWindows_resetLow : (flipWindows n s).resetLow = s.resetLow := rfl
@[simp] theorem flipWindows_freeDraws : (flipWindows n s).freeDraws = s.freeDraws := rfl
@[simp] theorem flipWindows_pending : (flipWindows n s).pending = s.pending := rfl
@[simp] theorem flipWindows_shareDir (d' : Dir) : (flipWindows n s).shareDir d' = s.shareDir d' := rfl
@[simp] theorem flipWindows_slot (j' : Fin Config.peerSlots) : (flipWindows n s).slot j' = s.slot j' := rfl
@[simp] theorem flipWindows_watch (j' : Fin Config.watchCount) : (flipWindows n s).watch j' = s.watch j' := rfl
@[simp] theorem flipWindows_started : (flipWindows n s).started = s.started := rfl
@[simp] theorem flipWindows_cfg : (flipWindows n s).mp.cfg = s.mp.cfg := rfl

end

/-! ## setSlot -/

section
variable (k : Fin Config.peerSlots) (e : Option PeerEntry)
variable (s : State)

@[simp] theorem setSlot_tb : (s.setSlot k e).tb = s.tb := rfl
@[simp] theorem setSlot_se : (s.setSlot k e).se = s.se := rfl
@[simp] theorem setSlot_li : (s.setSlot k e).li = s.li := rfl
@[simp] theorem setSlot_ct : (s.setSlot k e).ct = s.ct := rfl
@[simp] theorem setSlot_me : (s.setSlot k e).me = s.me := rfl
@[simp] theorem setSlot_wu : (s.setSlot k e).wu = s.wu := rfl
@[simp] theorem setSlot_lw : (s.setSlot k e).lw = s.lw := rfl
@[simp] theorem setSlot_mc : (s.setSlot k e).mc = s.mc := rfl
@[simp] theorem setSlot_mp : (s.setSlot k e).mp = s.mp := rfl
@[simp] theorem setSlot_mem : (s.setSlot k e).mem = s.mem := rfl
@[simp] theorem setSlot_composition : (s.setSlot k e).composition = s.composition := rfl
@[simp] theorem setSlot_resetLow : (s.setSlot k e).resetLow = s.resetLow := rfl
@[simp] theorem setSlot_freeDraws : (s.setSlot k e).freeDraws = s.freeDraws := rfl
@[simp] theorem setSlot_pending : (s.setSlot k e).pending = s.pending := rfl
@[simp] theorem setSlot_client (j' : Fin Config.clientCount) : (s.setSlot k e).client j' = s.client j' := rfl
@[simp] theorem setSlot_shareDir (d' : Dir) : (s.setSlot k e).shareDir d' = s.shareDir d' := rfl
@[simp] theorem setSlot_watch (j' : Fin Config.watchCount) : (s.setSlot k e).watch j' = s.watch j' := rfl
@[simp] theorem setSlot_started : (s.setSlot k e).started = s.started := rfl
@[simp] theorem setSlot_cfg : (s.setSlot k e).mp.cfg = s.mp.cfg := rfl

end

/-! ## markAllPeers -/

section
variable (s : State)

@[simp] theorem markAllPeers_tb : (markAllPeers s).tb = s.tb := rfl
@[simp] theorem markAllPeers_se : (markAllPeers s).se = s.se := rfl
@[simp] theorem markAllPeers_li : (markAllPeers s).li = s.li := rfl
@[simp] theorem markAllPeers_ct : (markAllPeers s).ct = s.ct := rfl
@[simp] theorem markAllPeers_me : (markAllPeers s).me = s.me := rfl
@[simp] theorem markAllPeers_wu : (markAllPeers s).wu = s.wu := rfl
@[simp] theorem markAllPeers_lw : (markAllPeers s).lw = s.lw := rfl
@[simp] theorem markAllPeers_mc : (markAllPeers s).mc = s.mc := rfl
@[simp] theorem markAllPeers_mp : (markAllPeers s).mp = s.mp := rfl
@[simp] theorem markAllPeers_mem : (markAllPeers s).mem = s.mem := rfl
@[simp] theorem markAllPeers_composition : (markAllPeers s).composition = s.composition := rfl
@[simp] theorem markAllPeers_resetLow : (markAllPeers s).resetLow = s.resetLow := rfl
@[simp] theorem markAllPeers_freeDraws : (markAllPeers s).freeDraws = s.freeDraws := rfl
@[simp] theorem markAllPeers_pending : (markAllPeers s).pending = s.pending := rfl
@[simp] theorem markAllPeers_client (j' : Fin Config.clientCount) : (markAllPeers s).client j' = s.client j' := rfl
@[simp] theorem markAllPeers_shareDir (d' : Dir) : (markAllPeers s).shareDir d' = s.shareDir d' := rfl
@[simp] theorem markAllPeers_watch (j' : Fin Config.watchCount) : (markAllPeers s).watch j' = s.watch j' := rfl
@[simp] theorem markAllPeers_started : (markAllPeers s).started = s.started := rfl
@[simp] theorem markAllPeers_cfg : (markAllPeers s).mp.cfg = s.mp.cfg := rfl

end

/-! ## emptyPeers -/

section
variable (s : State)

@[simp] theorem emptyPeers_tb : (emptyPeers s).tb = s.tb := rfl
@[simp] theorem emptyPeers_se : (emptyPeers s).se = s.se := rfl
@[simp] theorem emptyPeers_li : (emptyPeers s).li = s.li := rfl
@[simp] theorem emptyPeers_ct : (emptyPeers s).ct = s.ct := rfl
@[simp] theorem emptyPeers_me : (emptyPeers s).me = s.me := rfl
@[simp] theorem emptyPeers_wu : (emptyPeers s).wu = s.wu := rfl
@[simp] theorem emptyPeers_lw : (emptyPeers s).lw = s.lw := rfl
@[simp] theorem emptyPeers_mc : (emptyPeers s).mc = s.mc := rfl
@[simp] theorem emptyPeers_mp : (emptyPeers s).mp = s.mp := rfl
@[simp] theorem emptyPeers_mem : (emptyPeers s).mem = s.mem := rfl
@[simp] theorem emptyPeers_composition : (emptyPeers s).composition = s.composition := rfl
@[simp] theorem emptyPeers_resetLow : (emptyPeers s).resetLow = s.resetLow := rfl
@[simp] theorem emptyPeers_freeDraws : (emptyPeers s).freeDraws = s.freeDraws := rfl
@[simp] theorem emptyPeers_pending : (emptyPeers s).pending = s.pending := rfl
@[simp] theorem emptyPeers_client (j' : Fin Config.clientCount) : (emptyPeers s).client j' = s.client j' := rfl
@[simp] theorem emptyPeers_shareDir (d' : Dir) : (emptyPeers s).shareDir d' = s.shareDir d' := rfl
@[simp] theorem emptyPeers_watch (j' : Fin Config.watchCount) : (emptyPeers s).watch j' = s.watch j' := rfl
@[simp] theorem emptyPeers_started : (emptyPeers s).started = s.started := rfl
@[simp] theorem emptyPeers_cfg : (emptyPeers s).mp.cfg = s.mp.cfg := rfl

end

/-! ## setLine -/

section
variable (l : LineInterface)
variable (s : State)

@[simp] theorem setLine_tb : (s.setLine l).tb = s.tb := rfl
@[simp] theorem setLine_se : (s.setLine l).se = s.se := rfl
@[simp] theorem setLine_pt : (s.setLine l).pt = s.pt := rfl
@[simp] theorem setLine_ct : (s.setLine l).ct = s.ct := rfl
@[simp] theorem setLine_me : (s.setLine l).me = s.me := rfl
@[simp] theorem setLine_wu : (s.setLine l).wu = s.wu := rfl
@[simp] theorem setLine_lw : (s.setLine l).lw = s.lw := rfl
@[simp] theorem setLine_mc : (s.setLine l).mc = s.mc := rfl
@[simp] theorem setLine_mp : (s.setLine l).mp = s.mp := rfl
@[simp] theorem setLine_mem : (s.setLine l).mem = s.mem := rfl
@[simp] theorem setLine_composition : (s.setLine l).composition = s.composition := rfl
@[simp] theorem setLine_resetLow : (s.setLine l).resetLow = s.resetLow := rfl
@[simp] theorem setLine_freeDraws : (s.setLine l).freeDraws = s.freeDraws := rfl
@[simp] theorem setLine_pending : (s.setLine l).pending = s.pending := rfl
@[simp] theorem setLine_client (j' : Fin Config.clientCount) : (s.setLine l).client j' = s.client j' := rfl
@[simp] theorem setLine_shareDir (d' : Dir) : (s.setLine l).shareDir d' = s.shareDir d' := rfl
@[simp] theorem setLine_slot (j' : Fin Config.peerSlots) : (s.setLine l).slot j' = s.slot j' := rfl
@[simp] theorem setLine_watch (j' : Fin Config.watchCount) : (s.setLine l).watch j' = s.watch j' := rfl
@[simp] theorem setLine_cfg : (s.setLine l).mp.cfg = s.mp.cfg := rfl

end

/-! ## nextCycle -/

section
variable (s : State)

@[simp] theorem nextCycle_tb : (nextCycle s).tb = s.tb := rfl
@[simp] theorem nextCycle_se : (nextCycle s).se = s.se := rfl
@[simp] theorem nextCycle_pt : (nextCycle s).pt = s.pt := rfl
@[simp] theorem nextCycle_ct : (nextCycle s).ct = s.ct := rfl
@[simp] theorem nextCycle_me : (nextCycle s).me = s.me := rfl
@[simp] theorem nextCycle_wu : (nextCycle s).wu = s.wu := rfl
@[simp] theorem nextCycle_lw : (nextCycle s).lw = s.lw := rfl
@[simp] theorem nextCycle_mc : (nextCycle s).mc = s.mc := rfl
@[simp] theorem nextCycle_mp : (nextCycle s).mp = s.mp := rfl
@[simp] theorem nextCycle_mem : (nextCycle s).mem = s.mem := rfl
@[simp] theorem nextCycle_composition : (nextCycle s).composition = s.composition := rfl
@[simp] theorem nextCycle_resetLow : (nextCycle s).resetLow = s.resetLow := rfl
@[simp] theorem nextCycle_freeDraws : (nextCycle s).freeDraws = s.freeDraws := rfl
@[simp] theorem nextCycle_pending : (nextCycle s).pending = s.pending := rfl
@[simp] theorem nextCycle_client (j' : Fin Config.clientCount) : (nextCycle s).client j' = s.client j' := rfl
@[simp] theorem nextCycle_shareDir (d' : Dir) : (nextCycle s).shareDir d' = s.shareDir d' := rfl
@[simp] theorem nextCycle_slot (j' : Fin Config.peerSlots) : (nextCycle s).slot j' = s.slot j' := rfl
@[simp] theorem nextCycle_watch (j' : Fin Config.watchCount) : (nextCycle s).watch j' = s.watch j' := rfl
@[simp] theorem nextCycle_cfg : (nextCycle s).mp.cfg = s.mp.cfg := rfl

end

/-! ## passLevels -/

section
variable (line : List LineLevel)
variable (s : State)

@[simp] theorem passLevels_tb : (s.passLevels line).tb = s.tb := rfl
@[simp] theorem passLevels_se : (s.passLevels line).se = s.se := rfl
@[simp] theorem passLevels_pt : (s.passLevels line).pt = s.pt := rfl
@[simp] theorem passLevels_ct : (s.passLevels line).ct = s.ct := rfl
@[simp] theorem passLevels_me : (s.passLevels line).me = s.me := rfl
@[simp] theorem passLevels_wu : (s.passLevels line).wu = s.wu := rfl
@[simp] theorem passLevels_lw : (s.passLevels line).lw = s.lw := rfl
@[simp] theorem passLevels_mc : (s.passLevels line).mc = s.mc := rfl
@[simp] theorem passLevels_mp : (s.passLevels line).mp = s.mp := rfl
@[simp] theorem passLevels_mem : (s.passLevels line).mem = s.mem := rfl
@[simp] theorem passLevels_composition : (s.passLevels line).composition = s.composition := rfl
@[simp] theorem passLevels_resetLow : (s.passLevels line).resetLow = s.resetLow := rfl
@[simp] theorem passLevels_freeDraws : (s.passLevels line).freeDraws = s.freeDraws := rfl
@[simp] theorem passLevels_pending : (s.passLevels line).pending = s.pending := rfl
@[simp] theorem passLevels_client (j' : Fin Config.clientCount) : (s.passLevels line).client j' = s.client j' := rfl
@[simp] theorem passLevels_shareDir (d' : Dir) : (s.passLevels line).shareDir d' = s.shareDir d' := rfl
@[simp] theorem passLevels_slot (j' : Fin Config.peerSlots) : (s.passLevels line).slot j' = s.slot j' := rfl
@[simp] theorem passLevels_watch (j' : Fin Config.watchCount) : (s.passLevels line).watch j' = s.watch j' := rfl
@[simp] theorem passLevels_cfg : (s.passLevels line).mp.cfg = s.mp.cfg := rfl

end

/-! ## startRecord -/

section
variable (b : Byte) (more : List Byte)
variable (s : State)

@[simp] theorem startRecord_tb : (startRecord b more s).tb = s.tb := rfl
@[simp] theorem startRecord_se : (startRecord b more s).se = s.se := rfl
@[simp] theorem startRecord_pt : (startRecord b more s).pt = s.pt := rfl
@[simp] theorem startRecord_li : (startRecord b more s).li = s.li := rfl
@[simp] theorem startRecord_ct : (startRecord b more s).ct = s.ct := rfl
@[simp] theorem startRecord_wu : (startRecord b more s).wu = s.wu := rfl
@[simp] theorem startRecord_lw : (startRecord b more s).lw = s.lw := rfl
@[simp] theorem startRecord_mc : (startRecord b more s).mc = s.mc := rfl
@[simp] theorem startRecord_mp : (startRecord b more s).mp = s.mp := rfl
@[simp] theorem startRecord_mem : (startRecord b more s).mem = s.mem := rfl
@[simp] theorem startRecord_composition : (startRecord b more s).composition = s.composition := rfl
@[simp] theorem startRecord_resetLow : (startRecord b more s).resetLow = s.resetLow := rfl
@[simp] theorem startRecord_freeDraws : (startRecord b more s).freeDraws = s.freeDraws := rfl
@[simp] theorem startRecord_pending : (startRecord b more s).pending = s.pending := rfl
@[simp] theorem startRecord_client (j' : Fin Config.clientCount) : (startRecord b more s).client j' = s.client j' := rfl
@[simp] theorem startRecord_shareDir (d' : Dir) : (startRecord b more s).shareDir d' = s.shareDir d' := rfl
@[simp] theorem startRecord_slot (j' : Fin Config.peerSlots) : (startRecord b more s).slot j' = s.slot j' := rfl
@[simp] theorem startRecord_watch (j' : Fin Config.watchCount) : (startRecord b more s).watch j' = s.watch j' := rfl
@[simp] theorem startRecord_started : (startRecord b more s).started = s.started := rfl
@[simp] theorem startRecord_cfg : (startRecord b more s).mp.cfg = s.mp.cfg := rfl

end

/-! ## setSerial -/

section
variable (p : SerialPort)
variable (s : State)

@[simp] theorem setSerial_tb : (s.setSerial p).tb = s.tb := rfl
@[simp] theorem setSerial_se : (s.setSerial p).se = s.se := rfl
@[simp] theorem setSerial_pt : (s.setSerial p).pt = s.pt := rfl
@[simp] theorem setSerial_li : (s.setSerial p).li = s.li := rfl
@[simp] theorem setSerial_ct : (s.setSerial p).ct = s.ct := rfl
@[simp] theorem setSerial_me : (s.setSerial p).me = s.me := rfl
@[simp] theorem setSerial_wu : (s.setSerial p).wu = s.wu := rfl
@[simp] theorem setSerial_lw : (s.setSerial p).lw = s.lw := rfl
@[simp] theorem setSerial_mc : (s.setSerial p).mc = s.mc := rfl
@[simp] theorem setSerial_mem : (s.setSerial p).mem = s.mem := rfl
@[simp] theorem setSerial_composition : (s.setSerial p).composition = s.composition := rfl
@[simp] theorem setSerial_resetLow : (s.setSerial p).resetLow = s.resetLow := rfl
@[simp] theorem setSerial_freeDraws : (s.setSerial p).freeDraws = s.freeDraws := rfl
@[simp] theorem setSerial_pending : (s.setSerial p).pending = s.pending := rfl
@[simp] theorem setSerial_client (j' : Fin Config.clientCount) : (s.setSerial p).client j' = s.client j' := rfl
@[simp] theorem setSerial_shareDir (d' : Dir) : (s.setSerial p).shareDir d' = s.shareDir d' := rfl
@[simp] theorem setSerial_slot (j' : Fin Config.peerSlots) : (s.setSerial p).slot j' = s.slot j' := rfl
@[simp] theorem setSerial_watch (j' : Fin Config.watchCount) : (s.setSerial p).watch j' = s.watch j' := rfl
@[simp] theorem setSerial_started : (s.setSerial p).started = s.started := rfl
@[simp] theorem setSerial_cfg : (s.setSerial p).mp.cfg = s.mp.cfg := rfl

end

/-! ## setWatch -/

section
variable (k : Fin Config.watchCount) (w : Watch)
variable (s : State)

@[simp] theorem setWatch_tb : (s.setWatch k w).tb = s.tb := rfl
@[simp] theorem setWatch_se : (s.setWatch k w).se = s.se := rfl
@[simp] theorem setWatch_pt : (s.setWatch k w).pt = s.pt := rfl
@[simp] theorem setWatch_li : (s.setWatch k w).li = s.li := rfl
@[simp] theorem setWatch_ct : (s.setWatch k w).ct = s.ct := rfl
@[simp] theorem setWatch_me : (s.setWatch k w).me = s.me := rfl
@[simp] theorem setWatch_lw : (s.setWatch k w).lw = s.lw := rfl
@[simp] theorem setWatch_mc : (s.setWatch k w).mc = s.mc := rfl
@[simp] theorem setWatch_mp : (s.setWatch k w).mp = s.mp := rfl
@[simp] theorem setWatch_mem : (s.setWatch k w).mem = s.mem := rfl
@[simp] theorem setWatch_composition : (s.setWatch k w).composition = s.composition := rfl
@[simp] theorem setWatch_resetLow : (s.setWatch k w).resetLow = s.resetLow := rfl
@[simp] theorem setWatch_freeDraws : (s.setWatch k w).freeDraws = s.freeDraws := rfl
@[simp] theorem setWatch_pending : (s.setWatch k w).pending = s.pending := rfl
@[simp] theorem setWatch_client (j' : Fin Config.clientCount) : (s.setWatch k w).client j' = s.client j' := rfl
@[simp] theorem setWatch_shareDir (d' : Dir) : (s.setWatch k w).shareDir d' = s.shareDir d' := rfl
@[simp] theorem setWatch_slot (j' : Fin Config.peerSlots) : (s.setWatch k w).slot j' = s.slot j' := rfl
@[simp] theorem setWatch_started : (s.setWatch k w).started = s.started := rfl
@[simp] theorem setWatch_cfg : (s.setWatch k w).mp.cfg = s.mp.cfg := rfl

end

/-! ## setMe -/

section
variable (m : MeterEngine)
variable (s : State)

@[simp] theorem setMe_tb : (s.setMe m).tb = s.tb := rfl
@[simp] theorem setMe_se : (s.setMe m).se = s.se := rfl
@[simp] theorem setMe_pt : (s.setMe m).pt = s.pt := rfl
@[simp] theorem setMe_li : (s.setMe m).li = s.li := rfl
@[simp] theorem setMe_ct : (s.setMe m).ct = s.ct := rfl
@[simp] theorem setMe_wu : (s.setMe m).wu = s.wu := rfl
@[simp] theorem setMe_lw : (s.setMe m).lw = s.lw := rfl
@[simp] theorem setMe_mc : (s.setMe m).mc = s.mc := rfl
@[simp] theorem setMe_mp : (s.setMe m).mp = s.mp := rfl
@[simp] theorem setMe_mem : (s.setMe m).mem = s.mem := rfl
@[simp] theorem setMe_composition : (s.setMe m).composition = s.composition := rfl
@[simp] theorem setMe_resetLow : (s.setMe m).resetLow = s.resetLow := rfl
@[simp] theorem setMe_freeDraws : (s.setMe m).freeDraws = s.freeDraws := rfl
@[simp] theorem setMe_pending : (s.setMe m).pending = s.pending := rfl
@[simp] theorem setMe_client (j' : Fin Config.clientCount) : (s.setMe m).client j' = s.client j' := rfl
@[simp] theorem setMe_shareDir (d' : Dir) : (s.setMe m).shareDir d' = s.shareDir d' := rfl
@[simp] theorem setMe_slot (j' : Fin Config.peerSlots) : (s.setMe m).slot j' = s.slot j' := rfl
@[simp] theorem setMe_watch (j' : Fin Config.watchCount) : (s.setMe m).watch j' = s.watch j' := rfl
@[simp] theorem setMe_started : (s.setMe m).started = s.started := rfl
@[simp] theorem setMe_cfg : (s.setMe m).mp.cfg = s.mp.cfg := rfl

end

/-! ## dequeue -/

section
variable (s : State)

@[simp] theorem dequeue_tb : (dequeue s).tb = s.tb := rfl
@[simp] theorem dequeue_se : (dequeue s).se = s.se := rfl
@[simp] theorem dequeue_pt : (dequeue s).pt = s.pt := rfl
@[simp] theorem dequeue_li : (dequeue s).li = s.li := rfl
@[simp] theorem dequeue_ct : (dequeue s).ct = s.ct := rfl
@[simp] theorem dequeue_wu : (dequeue s).wu = s.wu := rfl
@[simp] theorem dequeue_lw : (dequeue s).lw = s.lw := rfl
@[simp] theorem dequeue_mc : (dequeue s).mc = s.mc := rfl
@[simp] theorem dequeue_mp : (dequeue s).mp = s.mp := rfl
@[simp] theorem dequeue_mem : (dequeue s).mem = s.mem := rfl
@[simp] theorem dequeue_composition : (dequeue s).composition = s.composition := rfl
@[simp] theorem dequeue_resetLow : (dequeue s).resetLow = s.resetLow := rfl
@[simp] theorem dequeue_freeDraws : (dequeue s).freeDraws = s.freeDraws := rfl
@[simp] theorem dequeue_pending : (dequeue s).pending = s.pending := rfl
@[simp] theorem dequeue_client (j' : Fin Config.clientCount) : (dequeue s).client j' = s.client j' := rfl
@[simp] theorem dequeue_shareDir (d' : Dir) : (dequeue s).shareDir d' = s.shareDir d' := rfl
@[simp] theorem dequeue_slot (j' : Fin Config.peerSlots) : (dequeue s).slot j' = s.slot j' := rfl
@[simp] theorem dequeue_watch (j' : Fin Config.watchCount) : (dequeue s).watch j' = s.watch j' := rfl
@[simp] theorem dequeue_started : (dequeue s).started = s.started := rfl
@[simp] theorem dequeue_cfg : (dequeue s).mp.cfg = s.mp.cfg := rfl

end

/-! ## respond -/

section
variable (r : Request) (o : RspOutcome) (y : Reason)
variable (s : State)

@[simp] theorem respond_tb : (respond r o y s).tb = s.tb := rfl
@[simp] theorem respond_se : (respond r o y s).se = s.se := rfl
@[simp] theorem respond_pt : (respond r o y s).pt = s.pt := rfl
@[simp] theorem respond_li : (respond r o y s).li = s.li := rfl
@[simp] theorem respond_ct : (respond r o y s).ct = s.ct := rfl
@[simp] theorem respond_wu : (respond r o y s).wu = s.wu := rfl
@[simp] theorem respond_lw : (respond r o y s).lw = s.lw := rfl
@[simp] theorem respond_mc : (respond r o y s).mc = s.mc := rfl
@[simp] theorem respond_mp : (respond r o y s).mp = s.mp := rfl
@[simp] theorem respond_mem : (respond r o y s).mem = s.mem := rfl
@[simp] theorem respond_composition : (respond r o y s).composition = s.composition := rfl
@[simp] theorem respond_resetLow : (respond r o y s).resetLow = s.resetLow := rfl
@[simp] theorem respond_freeDraws : (respond r o y s).freeDraws = s.freeDraws := rfl
@[simp] theorem respond_pending : (respond r o y s).pending = s.pending := rfl
@[simp] theorem respond_client (j' : Fin Config.clientCount) : (respond r o y s).client j' = s.client j' := rfl
@[simp] theorem respond_shareDir (d' : Dir) : (respond r o y s).shareDir d' = s.shareDir d' := rfl
@[simp] theorem respond_slot (j' : Fin Config.peerSlots) : (respond r o y s).slot j' = s.slot j' := rfl
@[simp] theorem respond_watch (j' : Fin Config.watchCount) : (respond r o y s).watch j' = s.watch j' := rfl
@[simp] theorem respond_started : (respond r o y s).started = s.started := rfl
@[simp] theorem respond_cfg : (respond r o y s).mp.cfg = s.mp.cfg := rfl

end

/-! ## refill -/

section
variable (d : Dir) (i : Fin Config.clientCount)
variable (s : State)

@[simp] theorem refill_tb : (refill d i s).tb = s.tb := rfl
@[simp] theorem refill_se : (refill d i s).se = s.se := rfl
@[simp] theorem refill_pt : (refill d i s).pt = s.pt := rfl
@[simp] theorem refill_li : (refill d i s).li = s.li := rfl
@[simp] theorem refill_me : (refill d i s).me = s.me := rfl
@[simp] theorem refill_wu : (refill d i s).wu = s.wu := rfl
@[simp] theorem refill_lw : (refill d i s).lw = s.lw := rfl
@[simp] theorem refill_mc : (refill d i s).mc = s.mc := rfl
@[simp] theorem refill_mp : (refill d i s).mp = s.mp := rfl
@[simp] theorem refill_mem : (refill d i s).mem = s.mem := rfl
@[simp] theorem refill_composition : (refill d i s).composition = s.composition := rfl
@[simp] theorem refill_resetLow : (refill d i s).resetLow = s.resetLow := rfl
@[simp] theorem refill_freeDraws : (refill d i s).freeDraws = s.freeDraws := rfl
@[simp] theorem refill_pending : (refill d i s).pending = s.pending := rfl
@[simp] theorem refill_shareDir (d' : Dir) : (refill d i s).shareDir d' = s.shareDir d' := rfl
@[simp] theorem refill_slot (j' : Fin Config.peerSlots) : (refill d i s).slot j' = s.slot j' := rfl
@[simp] theorem refill_watch (j' : Fin Config.watchCount) : (refill d i s).watch j' = s.watch j' := rfl
@[simp] theorem refill_started : (refill d i s).started = s.started := rfl
@[simp] theorem refill_cfg : (refill d i s).mp.cfg = s.mp.cfg := rfl

end

/-! ## setTb -/

section
variable (t : TimeBase)
variable (s : State)

@[simp] theorem setTb_se : (s.setTb t).se = s.se := rfl
@[simp] theorem setTb_pt : (s.setTb t).pt = s.pt := rfl
@[simp] theorem setTb_li : (s.setTb t).li = s.li := rfl
@[simp] theorem setTb_ct : (s.setTb t).ct = s.ct := rfl
@[simp] theorem setTb_me : (s.setTb t).me = s.me := rfl
@[simp] theorem setTb_wu : (s.setTb t).wu = s.wu := rfl
@[simp] theorem setTb_lw : (s.setTb t).lw = s.lw := rfl
@[simp] theorem setTb_mc : (s.setTb t).mc = s.mc := rfl
@[simp] theorem setTb_mp : (s.setTb t).mp = s.mp := rfl
@[simp] theorem setTb_mem : (s.setTb t).mem = s.mem := rfl
@[simp] theorem setTb_composition : (s.setTb t).composition = s.composition := rfl
@[simp] theorem setTb_resetLow : (s.setTb t).resetLow = s.resetLow := rfl
@[simp] theorem setTb_freeDraws : (s.setTb t).freeDraws = s.freeDraws := rfl
@[simp] theorem setTb_pending : (s.setTb t).pending = s.pending := rfl
@[simp] theorem setTb_client (j' : Fin Config.clientCount) : (s.setTb t).client j' = s.client j' := rfl
@[simp] theorem setTb_shareDir (d' : Dir) : (s.setTb t).shareDir d' = s.shareDir d' := rfl
@[simp] theorem setTb_slot (j' : Fin Config.peerSlots) : (s.setTb t).slot j' = s.slot j' := rfl
@[simp] theorem setTb_watch (j' : Fin Config.watchCount) : (s.setTb t).watch j' = s.watch j' := rfl
@[simp] theorem setTb_started : (s.setTb t).started = s.started := rfl
@[simp] theorem setTb_cfg : (s.setTb t).mp.cfg = s.mp.cfg := rfl

end

/-! ## countExpiry -/

section
variable (s : State)

@[simp] theorem countExpiry_se : (countExpiry s).se = s.se := rfl
@[simp] theorem countExpiry_pt : (countExpiry s).pt = s.pt := rfl
@[simp] theorem countExpiry_li : (countExpiry s).li = s.li := rfl
@[simp] theorem countExpiry_ct : (countExpiry s).ct = s.ct := rfl
@[simp] theorem countExpiry_me : (countExpiry s).me = s.me := rfl
@[simp] theorem countExpiry_wu : (countExpiry s).wu = s.wu := rfl
@[simp] theorem countExpiry_lw : (countExpiry s).lw = s.lw := rfl
@[simp] theorem countExpiry_mc : (countExpiry s).mc = s.mc := rfl
@[simp] theorem countExpiry_mp : (countExpiry s).mp = s.mp := rfl
@[simp] theorem countExpiry_mem : (countExpiry s).mem = s.mem := rfl
@[simp] theorem countExpiry_composition : (countExpiry s).composition = s.composition := rfl
@[simp] theorem countExpiry_resetLow : (countExpiry s).resetLow = s.resetLow := rfl
@[simp] theorem countExpiry_freeDraws : (countExpiry s).freeDraws = s.freeDraws := rfl
@[simp] theorem countExpiry_pending : (countExpiry s).pending = s.pending := rfl
@[simp] theorem countExpiry_client (j' : Fin Config.clientCount) : (countExpiry s).client j' = s.client j' := rfl
@[simp] theorem countExpiry_shareDir (d' : Dir) : (countExpiry s).shareDir d' = s.shareDir d' := rfl
@[simp] theorem countExpiry_slot (j' : Fin Config.peerSlots) : (countExpiry s).slot j' = s.slot j' := rfl
@[simp] theorem countExpiry_watch (j' : Fin Config.watchCount) : (countExpiry s).watch j' = s.watch j' := rfl
@[simp] theorem countExpiry_started : (countExpiry s).started = s.started := rfl
@[simp] theorem countExpiry_cfg : (countExpiry s).mp.cfg = s.mp.cfg := rfl

end

/-! ## restartTime -/

section
variable (s : State)

@[simp] theorem restartTime_se : (restartTime s).se = s.se := rfl
@[simp] theorem restartTime_pt : (restartTime s).pt = s.pt := rfl
@[simp] theorem restartTime_li : (restartTime s).li = s.li := rfl
@[simp] theorem restartTime_ct : (restartTime s).ct = s.ct := rfl
@[simp] theorem restartTime_me : (restartTime s).me = s.me := rfl
@[simp] theorem restartTime_wu : (restartTime s).wu = s.wu := rfl
@[simp] theorem restartTime_lw : (restartTime s).lw = s.lw := rfl
@[simp] theorem restartTime_mc : (restartTime s).mc = s.mc := rfl
@[simp] theorem restartTime_mp : (restartTime s).mp = s.mp := rfl
@[simp] theorem restartTime_mem : (restartTime s).mem = s.mem := rfl
@[simp] theorem restartTime_composition : (restartTime s).composition = s.composition := rfl
@[simp] theorem restartTime_resetLow : (restartTime s).resetLow = s.resetLow := rfl
@[simp] theorem restartTime_freeDraws : (restartTime s).freeDraws = s.freeDraws := rfl
@[simp] theorem restartTime_pending : (restartTime s).pending = s.pending := rfl
@[simp] theorem restartTime_client (j' : Fin Config.clientCount) : (restartTime s).client j' = s.client j' := rfl
@[simp] theorem restartTime_shareDir (d' : Dir) : (restartTime s).shareDir d' = s.shareDir d' := rfl
@[simp] theorem restartTime_slot (j' : Fin Config.peerSlots) : (restartTime s).slot j' = s.slot j' := rfl
@[simp] theorem restartTime_watch (j' : Fin Config.watchCount) : (restartTime s).watch j' = s.watch j' := rfl
@[simp] theorem restartTime_started : (restartTime s).started = s.started := rfl
@[simp] theorem restartTime_cfg : (restartTime s).mp.cfg = s.mp.cfg := rfl

end

/-! ## restartShares -/

section
variable (s : State)

@[simp] theorem restartShares_tb : (restartShares s).tb = s.tb := rfl
@[simp] theorem restartShares_pt : (restartShares s).pt = s.pt := rfl
@[simp] theorem restartShares_li : (restartShares s).li = s.li := rfl
@[simp] theorem restartShares_me : (restartShares s).me = s.me := rfl
@[simp] theorem restartShares_wu : (restartShares s).wu = s.wu := rfl
@[simp] theorem restartShares_lw : (restartShares s).lw = s.lw := rfl
@[simp] theorem restartShares_mc : (restartShares s).mc = s.mc := rfl
@[simp] theorem restartShares_mp : (restartShares s).mp = s.mp := rfl
@[simp] theorem restartShares_mem : (restartShares s).mem = s.mem := rfl
@[simp] theorem restartShares_composition : (restartShares s).composition = s.composition := rfl
@[simp] theorem restartShares_resetLow : (restartShares s).resetLow = s.resetLow := rfl
@[simp] theorem restartShares_freeDraws : (restartShares s).freeDraws = s.freeDraws := rfl
@[simp] theorem restartShares_pending : (restartShares s).pending = s.pending := rfl
@[simp] theorem restartShares_slot (j' : Fin Config.peerSlots) : (restartShares s).slot j' = s.slot j' := rfl
@[simp] theorem restartShares_watch (j' : Fin Config.watchCount) : (restartShares s).watch j' = s.watch j' := rfl
@[simp] theorem restartShares_started : (restartShares s).started = s.started := rfl
@[simp] theorem restartShares_cfg : (restartShares s).mp.cfg = s.mp.cfg := rfl

end

/-! ## setMp -/

section
variable (m : MaintPort)
variable (s : State)

@[simp] theorem setMp_tb : (s.setMp m).tb = s.tb := rfl
@[simp] theorem setMp_se : (s.setMp m).se = s.se := rfl
@[simp] theorem setMp_pt : (s.setMp m).pt = s.pt := rfl
@[simp] theorem setMp_li : (s.setMp m).li = s.li := rfl
@[simp] theorem setMp_ct : (s.setMp m).ct = s.ct := rfl
@[simp] theorem setMp_me : (s.setMp m).me = s.me := rfl
@[simp] theorem setMp_wu : (s.setMp m).wu = s.wu := rfl
@[simp] theorem setMp_lw : (s.setMp m).lw = s.lw := rfl
@[simp] theorem setMp_mc : (s.setMp m).mc = s.mc := rfl
@[simp] theorem setMp_mem : (s.setMp m).mem = s.mem := rfl
@[simp] theorem setMp_composition : (s.setMp m).composition = s.composition := rfl
@[simp] theorem setMp_resetLow : (s.setMp m).resetLow = s.resetLow := rfl
@[simp] theorem setMp_freeDraws : (s.setMp m).freeDraws = s.freeDraws := rfl
@[simp] theorem setMp_pending : (s.setMp m).pending = s.pending := rfl
@[simp] theorem setMp_client (j' : Fin Config.clientCount) : (s.setMp m).client j' = s.client j' := rfl
@[simp] theorem setMp_shareDir (d' : Dir) : (s.setMp m).shareDir d' = s.shareDir d' := rfl
@[simp] theorem setMp_slot (j' : Fin Config.peerSlots) : (s.setMp m).slot j' = s.slot j' := rfl
@[simp] theorem setMp_watch (j' : Fin Config.watchCount) : (s.setMp m).watch j' = s.watch j' := rfl
@[simp] theorem setMp_started : (s.setMp m).started = s.started := rfl

end

/-! ## acceptCommand -/

section
variable (c : Word)
variable (s : State)

@[simp] theorem acceptCommand_tb : (acceptCommand c s).tb = s.tb := rfl
@[simp] theorem acceptCommand_se : (acceptCommand c s).se = s.se := rfl
@[simp] theorem acceptCommand_pt : (acceptCommand c s).pt = s.pt := rfl
@[simp] theorem acceptCommand_li : (acceptCommand c s).li = s.li := rfl
@[simp] theorem acceptCommand_ct : (acceptCommand c s).ct = s.ct := rfl
@[simp] theorem acceptCommand_me : (acceptCommand c s).me = s.me := rfl
@[simp] theorem acceptCommand_wu : (acceptCommand c s).wu = s.wu := rfl
@[simp] theorem acceptCommand_lw : (acceptCommand c s).lw = s.lw := rfl
@[simp] theorem acceptCommand_mc : (acceptCommand c s).mc = s.mc := rfl
@[simp] theorem acceptCommand_mem : (acceptCommand c s).mem = s.mem := rfl
@[simp] theorem acceptCommand_composition : (acceptCommand c s).composition = s.composition := rfl
@[simp] theorem acceptCommand_resetLow : (acceptCommand c s).resetLow = s.resetLow := rfl
@[simp] theorem acceptCommand_freeDraws : (acceptCommand c s).freeDraws = s.freeDraws := rfl
@[simp] theorem acceptCommand_pending : (acceptCommand c s).pending = s.pending := rfl
@[simp] theorem acceptCommand_client (j' : Fin Config.clientCount) : (acceptCommand c s).client j' = s.client j' := rfl
@[simp] theorem acceptCommand_shareDir (d' : Dir) : (acceptCommand c s).shareDir d' = s.shareDir d' := rfl
@[simp] theorem acceptCommand_slot (j' : Fin Config.peerSlots) : (acceptCommand c s).slot j' = s.slot j' := rfl
@[simp] theorem acceptCommand_watch (j' : Fin Config.watchCount) : (acceptCommand c s).watch j' = s.watch j' := rfl
@[simp] theorem acceptCommand_started : (acceptCommand c s).started = s.started := rfl
@[simp] theorem acceptCommand_cfg : (acceptCommand c s).mp.cfg = s.mp.cfg := rfl

end

/-! ## What the setters set -/

@[simp] theorem setLine_li (s : State) (l : LineInterface) : (s.setLine l).li = l := rfl
@[simp] theorem setTb_tb (s : State) (t : TimeBase) : (s.setTb t).tb = t := rfl
@[simp] theorem setMe_me (s : State) (m : MeterEngine) : (s.setMe m).me = m := rfl
@[simp] theorem setMp_mp (s : State) (m : MaintPort) : (s.setMp m).mp = m := rfl
@[simp] theorem setClient_walk (s : State) (i : Fin Config.clientCount) (e : ClientEntry) :
    (s.setClient i e).ct.walk = s.ct.walk := rfl
@[simp] theorem setClient_entries (s : State) (i : Fin Config.clientCount) (e : ClientEntry) :
    (s.setClient i e).ct.entries = s.ct.entries.set i.val e := rfl
@[simp] theorem setSlot_slots (s : State) (k : Fin Config.peerSlots) (e : Option PeerEntry) :
    (s.setSlot k e).pt.slots = s.pt.slots.set k.val e := rfl
@[simp] theorem setWatch_watches (s : State) (k : Fin Config.watchCount) (w : Watch) :
    (s.setWatch k w).wu.watches = s.wu.watches.set k.val w := rfl
@[simp] theorem setShareDir_dirs (s : State) (d : Dir) (x : ShareDir) :
    (s.setShareDir d x).se.dirs = s.se.dirs.set d x := rfl
@[simp] theorem setShareDir_pass (s : State) (d : Dir) (x : ShareDir) : (s.setShareDir d x).se.pass = s.se.pass := rfl
@[simp] theorem setShareDir_snapshot (s : State) (d : Dir) (x : ShareDir) :
    (s.setShareDir d x).se.snapshot = s.se.snapshot := rfl
@[simp] theorem raise_mp_flags (f : IrqFlag) (s : State) :
    (raise f s).mp.flags = s.mp.flags ||| BitVec.twoPow 16 f.bit := rfl

/-! ## Out of reset -/

@[simp] theorem outOfReset_acts {s : State} (t : State) (h : s.resetLow = false) : outOfReset s t = t := by
  simp [outOfReset, h]
@[simp] theorem outOfReset_held {s : State} (t : State) (h : s.resetLow = true) : outOfReset s t = s := by
  simp [outOfReset, h]

theorem raise_mp (f : IrqFlag) (s : State) :
    (raise f s).mp = { s.mp with flags := s.mp.flags ||| BitVec.twoPow 16 f.bit } := rfl
theorem setDataOut_mp (v : Word) (s : State) : (setDataOut v s).mp = { s.mp with dataOut := v } := rfl
theorem endCommand_mp (o : CommandOutcome) (s : State) :
    (endCommand o s).mp =
      { s.mp with running := false, outcome := o, flags := s.mp.flags ||| BitVec.twoPow 16 14 } := rfl
@[simp] theorem dequeue_me (s : State) : (dequeue s).me = { s.me with queue := s.me.queue.tail } := rfl
@[simp] theorem respond_me (r : Request) (o : RspOutcome) (y : Reason) (s : State) :
    (respond r o y s).me = { s.me with lane := some ⟨r.tag, o, y, r.code⟩ } := rfl

end Sys2Proof.Machine
end

