-- ==== Sys2Proof/Laws/Access.lean ====
section
/-! SUPPORT. Reading back what a setter has written: directions, clients, grants, slots, watches, and the maps over a
whole table. -/

namespace Sys2Proof.Machine

/-! ## Values per direction -/

@[simp] theorem PerDir.get_set {α : Type} (p : PerDir α) (d e : Dir) (x : α) :
    (p.set d x).get e = if e = d then x else p.get e := by
  cases d <;> cases e <;> rfl

@[simp] theorem PerDir.get_mk_up {α : Type} (a b : α) : (PerDir.mk a b).get .up = a := rfl

@[simp] theorem PerDir.get_mk_down {α : Type} (a b : α) : (PerDir.mk a b).get .down = b := rfl

@[simp] theorem PerDir.get_map {α β : Type} (f : α → β) (p : PerDir α) (d : Dir) : (p.map f).get d = f (p.get d) := by
  cases d <;> rfl

theorem PerDir.get_up {α : Type} (p : PerDir α) : p.get .up = p.up := rfl

theorem PerDir.get_down {α : Type} (p : PerDir α) : p.get .down = p.down := rfl

theorem PerDir.eq_of_get {α : Type} {p q : PerDir α} (h : ∀ d, p.get d = q.get d) : p = q :=
  PerDir.ext (h .up) (h .down)

/-! ## Client entries -/

theorem client_setClient (s : State) (i j : Fin Config.clientCount) (e : ClientEntry) :
    (s.setClient i e).client j = if j = i then e else s.client j := by
  simp only [State.client, State.setClient]
  rw [Vector.getElem_set]
  by_cases h : j = i
  · simp [h]
  · have : ¬ (i.val = j.val) := fun hh => h (Fin.ext hh.symm)
    simp [h, this]

@[simp] theorem client_setClient_self (s : State) (i : Fin Config.clientCount) (e : ClientEntry) :
    (s.setClient i e).client i = e := by simp [client_setClient]

theorem client_setClient_of_ne (s : State) {i j : Fin Config.clientCount} (h : j ≠ i) (e : ClientEntry) :
    (s.setClient i e).client j = s.client j := by simp [client_setClient, h]

@[simp] theorem setClient_setClient (s : State) (i : Fin Config.clientCount) (e f : ClientEntry) :
    (s.setClient i e).setClient i f = s.setClient i f := by
  simp [State.setClient]

theorem client_ext {s t : State} (h : ∀ i, s.client i = t.client i) : s.ct.entries = t.ct.entries := by
  apply Vector.ext
  intro k hk
  exact h ⟨k, hk⟩

@[simp] theorem setClient_self (s : State) (i : Fin Config.clientCount) : s.setClient i (s.client i) = s := by
  have : (s.setClient i (s.client i)).ct.entries = s.ct.entries :=
    client_ext fun j => by rw [client_setClient]; split <;> simp_all
  calc s.setClient i (s.client i)
      = { s with ct := { s.ct with entries := (s.setClient i (s.client i)).ct.entries } } := rfl
    _ = s := by rw [this]

theorem client_mapEntries (f : ClientEntry → ClientEntry) (v : Vector ClientEntry Config.clientCount)
    (k : Nat) (h : k < Config.clientCount) : (mapEntries f v)[k] = f v[k] := by
  simp [mapEntries]

@[simp] theorem ClientEntry.dir_setDir (e : ClientEntry) (d d' : Dir) (x : ClientDir) :
    (e.setDir d x).dir d' = if d' = d then x else e.dir d' := by
  simp [ClientEntry.dir, ClientEntry.setDir]

theorem ClientEntry.dirs_eq (e : ClientEntry) : e.dirs = ⟨e.dir .up, e.dir .down⟩ := rfl

/-! ## Grants, shares and remainders -/

@[simp] theorem shareDir_setShareDir (s : State) (d e : Dir) (x : ShareDir) :
    (s.setShareDir d x).shareDir e = if e = d then x else s.shareDir e := by
  simp [State.shareDir, State.setShareDir]

@[simp] theorem shareDir_setRemainder (s : State) (d e : Dir) (r : Nat) :
    (s.setRemainder d r).shareDir e = if e = d then { s.shareDir d with remainder := r } else s.shareDir e := by
  simp [State.setRemainder]

theorem client_setGrant (s : State) (d : Dir) (i j : Fin Config.clientCount) (g : Nat) :
    (s.setGrant d i g).client j =
      if j = i then (s.client i).setDir d { (s.client i).dir d with grant := g } else s.client j := by
  simp [State.setGrant, client_setClient]

theorem grant_setGrant (s : State) (d e : Dir) (i j : Fin Config.clientCount) (g : Nat) :
    (s.setGrant d i g).grant e j = if e = d ∧ j = i then g else s.grant e j := by
  simp only [State.grant, client_setGrant]
  by_cases hj : j = i
  · subst hj
    by_cases hd : e = d
    · subst hd; simp
    · simp [hd]
  · simp [hj]

theorem drawGrant_eq (d : Dir) (i : Fin Config.clientCount) (g : Nat) (s : State) :
    drawGrant d i g s = (s.setGrant d i g).setRemainder d ((s.shareDir d).remainder - g) := rfl

theorem grant_drawGrant (s : State) (d e : Dir) (i j : Fin Config.clientCount) (g : Nat) :
    (drawGrant d i g s).grant e j = if e = d ∧ j = i then g else s.grant e j := by
  rw [← grant_setGrant]; rfl

theorem client_drawGrant (s : State) (d : Dir) (i j : Fin Config.clientCount) (g : Nat) :
    (drawGrant d i g s).client j =
      if j = i then (s.client i).setDir d { (s.client i).dir d with grant := g } else s.client j := by
  rw [← client_setGrant]; rfl

@[simp] theorem shareDir_drawGrant (s : State) (d e : Dir) (i : Fin Config.clientCount) (g : Nat) :
    (drawGrant d i g s).shareDir e =
      if e = d then { s.shareDir d with remainder := (s.shareDir d).remainder - g } else s.shareDir e := by
  rw [drawGrant_eq, shareDir_setRemainder]; rfl

theorem client_returnGrant (keep : Nat) (d : Dir) (i j : Fin Config.clientCount) (s : State) :
    (returnGrant keep d i s).client j =
      if j = i then (s.client i).setDir d { (s.client i).dir d with grant := min (s.grant d i) keep }
      else s.client j := by
  rw [← client_setGrant]; rfl

@[simp] theorem shareDir_returnGrant (keep : Nat) (d e : Dir) (i : Fin Config.clientCount) (s : State) :
    (returnGrant keep d i s).shareDir e =
      if e = d then
        { s.shareDir d with remainder := (s.shareDir d).remainder + (s.grant d i - min (s.grant d i) keep) }
      else s.shareDir e := by
  unfold returnGrant; rw [shareDir_setRemainder]; rfl

theorem grant_returnGrant (keep : Nat) (d e : Dir) (i j : Fin Config.clientCount) (s : State) :
    (returnGrant keep d i s).grant e j = if e = d ∧ j = i then min (s.grant d i) keep else s.grant e j := by
  rw [← grant_setGrant]; rfl

/-! ## Slots -/

theorem slot_setSlot (s : State) (j k : Fin Config.peerSlots) (e : Option PeerEntry) :
    (s.setSlot j e).slot k = if k = j then e else s.slot k := by
  simp only [State.slot, State.setSlot]
  rw [Vector.getElem_set]
  by_cases h : k = j
  · simp [h]
  · have : ¬ (j.val = k.val) := fun hh => h (Fin.ext hh.symm)
    simp [h, this]

theorem slot_mapSlots (f : PeerEntry → PeerEntry) (v : Vector (Option PeerEntry) Config.peerSlots)
    (k : Nat) (h : k < Config.peerSlots) : (mapSlots f v)[k] = v[k].map f := by
  simp [mapSlots]

@[simp] theorem slot_markAllPeers (s : State) (k : Fin Config.peerSlots) :
    (markAllPeers s).slot k = (s.slot k).map PeerEntry.markPurge := slot_mapSlots _ _ _ _

@[simp] theorem slot_emptyPeers (s : State) (k : Fin Config.peerSlots) : (emptyPeers s).slot k = none := by
  simp [State.slot, emptyPeers]

theorem slot_ext {s t : State} (h : ∀ k, s.slot k = t.slot k) : s.pt.slots = t.pt.slots := by
  apply Vector.ext
  intro k hk
  exact h ⟨k, hk⟩

/-! ## Watches -/

theorem watch_setWatch (s : State) (j k : Fin Config.watchCount) (w : Watch) :
    (s.setWatch j w).watch k = if k = j then w else s.watch k := by
  simp only [State.watch, State.setWatch]
  rw [Vector.getElem_set]
  by_cases h : k = j
  · simp [h]
  · have : ¬ (j.val = k.val) := fun hh => h (Fin.ext hh.symm)
    simp [h, this]

/-! ## Flags -/

theorem flag_raise (s : State) (f g : IrqFlag) : (raise f s).flag g = (s.flag g || decide (f = g)) := by
  cases f <;> cases g <;> simp [State.flag, raise, IrqFlag.bit]

@[simp] theorem flag_raise_self (s : State) (f : IrqFlag) : (raise f s).flag f = true := by simp [flag_raise]

theorem flag_raise_of_flag {s : State} {g : IrqFlag} (f : IrqFlag) (h : s.flag g = true) :
    (raise f s).flag g = true := by simp [flag_raise, h]

theorem flag_clearFlags (s : State) (v : Word) (f : IrqFlag) :
    (clearFlags v s).flag f = (s.flag f && !v.getLsbD f.bit) := by
  have : f.bit < 16 := by cases f <;> decide
  simp [State.flag, clearFlags, this]

end Sys2Proof.Machine
end

