-- ==== Sys2Proof/Laws/Frames.lean ====
section
/-! SUPPORT. What each shared operation leaves as it was, field by field, and that an operation which reaches the
maintenance port only raises flags. -/

namespace Sys2Proof.Machine

set_option linter.unusedTactic false
set_option linter.unreachableTactic false
set_option linter.unnecessarySeqFocus false
set_option linter.unusedSimpArgs false

/-- The maintenance port with its flags set aside: what only raising flags keeps. -/
def MaintPort.noFlags (m : MaintPort) : MaintPort := { m with flags := 0 }

theorem MaintPort.eq_of_noFlags {m n : MaintPort} (h : m.noFlags = n.noFlags) : m = { n with flags := m.flags } := by
  cases m; cases n; simp_all [MaintPort.noFlags]

theorem MaintPort.cfg_of_noFlags {m n : MaintPort} (h : m.noFlags = n.noFlags) : m.cfg = n.cfg := by
  cases m; cases n; simp_all [MaintPort.noFlags]

@[simp] theorem MaintPort.noFlags_flags (m : MaintPort) (w : Word) : { m with flags := w }.noFlags = m.noFlags := rfl

@[simp] theorem raise_noFlags (f : IrqFlag) (s : State) : (raise f s).mp.noFlags = s.mp.noFlags := rfl

@[simp] theorem loseRecord_noFlags (s : State) : (loseRecord s).mp.noFlags = s.mp.noFlags := rfl

theorem raise_flags {n : Nat} (f : IrqFlag) {s : State} (h : s.mp.flags.getLsbD n = true) :
    (raise f s).mp.flags.getLsbD n = true := by simp [h]

@[simp] theorem loseRecord_flags {n : Nat} {s : State} (h : s.mp.flags.getLsbD n = true) :
    (loseRecord s).mp.flags.getLsbD n = true := by
  unfold loseRecord; simp [h]

/-! ## endStrobe -/

section
variable (n : Nat)
variable (s : State)

@[simp] theorem endStrobe_frame :
    (endStrobe n s).tb = s.tb ∧ (endStrobe n s).se = s.se ∧ (endStrobe n s).pt = s.pt ∧
    (endStrobe n s).li = s.li ∧ (endStrobe n s).ct = s.ct ∧ (endStrobe n s).me = s.me ∧
    (endStrobe n s).wu = s.wu ∧ (endStrobe n s).lw = s.lw ∧ (endStrobe n s).mp = s.mp ∧
    (endStrobe n s).composition = s.composition ∧ (endStrobe n s).resetLow = s.resetLow ∧
    (endStrobe n s).freeDraws = s.freeDraws ∧ (endStrobe n s).pending = s.pending := by
  unfold endStrobe; try dsimp only
  (repeat' split) <;> simp

@[simp] theorem endStrobe_access :
    (∀ (i' : Fin Config.clientCount), (endStrobe n s).client i' = s.client i') ∧
    (∀ (d' : Dir), (endStrobe n s).shareDir d' = s.shareDir d') ∧
    (∀ (d' : Dir) (i' : Fin Config.clientCount), (endStrobe n s).grant d' i' = s.grant d' i') ∧
    (∀ (k' : Fin Config.peerSlots), (endStrobe n s).slot k' = s.slot k') ∧
    (∀ (k' : Fin Config.watchCount), (endStrobe n s).watch k' = s.watch k') ∧
    (endStrobe n s).started = s.started := by
  simp [State.client, State.shareDir, State.grant, State.slot, State.watch, State.started]

end

/-! ## endStrobeTimedOut -/

section
variable (s : State)

@[simp] theorem endStrobeTimedOut_frame :
    (endStrobeTimedOut s).tb = s.tb ∧ (endStrobeTimedOut s).se = s.se ∧ (endStrobeTimedOut s).pt = s.pt ∧
    (endStrobeTimedOut s).li = s.li ∧ (endStrobeTimedOut s).ct = s.ct ∧ (endStrobeTimedOut s).me = s.me ∧
    (endStrobeTimedOut s).wu = s.wu ∧ (endStrobeTimedOut s).lw = s.lw ∧ (endStrobeTimedOut s).mp = s.mp ∧
    (endStrobeTimedOut s).composition = s.composition ∧ (endStrobeTimedOut s).resetLow = s.resetLow ∧
    (endStrobeTimedOut s).pending = s.pending := by
  unfold endStrobeTimedOut; try dsimp only
  (repeat' split) <;> simp

@[simp] theorem endStrobeTimedOut_access :
    (∀ (i' : Fin Config.clientCount), (endStrobeTimedOut s).client i' = s.client i') ∧
    (∀ (d' : Dir), (endStrobeTimedOut s).shareDir d' = s.shareDir d') ∧
    (∀ (d' : Dir) (i' : Fin Config.clientCount), (endStrobeTimedOut s).grant d' i' = s.grant d' i') ∧
    (∀ (k' : Fin Config.peerSlots), (endStrobeTimedOut s).slot k' = s.slot k') ∧
    (∀ (k' : Fin Config.watchCount), (endStrobeTimedOut s).watch k' = s.watch k') ∧
    (endStrobeTimedOut s).started = s.started := by
  simp [State.client, State.shareDir, State.grant, State.slot, State.watch, State.started]

end

/-! ## advanceIndex -/

section
variable (s : State)

@[simp] theorem advanceIndex_frame :
    (advanceIndex s).tb = s.tb ∧ (advanceIndex s).se = s.se ∧ (advanceIndex s).pt = s.pt ∧
    (advanceIndex s).li = s.li ∧ (advanceIndex s).ct = s.ct ∧ (advanceIndex s).me = s.me ∧
    (advanceIndex s).wu = s.wu ∧ (advanceIndex s).mc = s.mc ∧ (advanceIndex s).mem = s.mem ∧
    (advanceIndex s).composition = s.composition ∧ (advanceIndex s).resetLow = s.resetLow ∧
    (advanceIndex s).freeDraws = s.freeDraws ∧ (advanceIndex s).pending = s.pending ∧
    (advanceIndex s).mp.noFlags = s.mp.noFlags := by
  unfold advanceIndex; try dsimp only
  (repeat' split) <;> simp

@[simp] theorem advanceIndex_access :
    (∀ (i' : Fin Config.clientCount), (advanceIndex s).client i' = s.client i') ∧
    (∀ (d' : Dir), (advanceIndex s).shareDir d' = s.shareDir d') ∧
    (∀ (d' : Dir) (i' : Fin Config.clientCount), (advanceIndex s).grant d' i' = s.grant d' i') ∧
    (∀ (k' : Fin Config.peerSlots), (advanceIndex s).slot k' = s.slot k') ∧
    (∀ (k' : Fin Config.watchCount), (advanceIndex s).watch k' = s.watch k') ∧
    (advanceIndex s).started = s.started := by
  simp [State.client, State.shareDir, State.grant, State.slot, State.watch, State.started]

@[simp] theorem advanceIndex_cfg : (advanceIndex s).mp.cfg = s.mp.cfg :=
  MaintPort.cfg_of_noFlags (by simp)

@[simp] theorem advanceIndex_flags {m : Nat} (h : s.mp.flags.getLsbD m = true) :
    (advanceIndex s).mp.flags.getLsbD m = true := by
  unfold advanceIndex; try dsimp only
  (repeat' split) <;> simp [h]

end

/-! ## takeFrom -/

section
variable (rs : List Record)
variable (s : State)

@[simp] theorem takeFrom_frame :
    (takeFrom rs s).tb = s.tb ∧ (takeFrom rs s).se = s.se ∧ (takeFrom rs s).pt = s.pt ∧
    (takeFrom rs s).li = s.li ∧ (takeFrom rs s).ct = s.ct ∧ (takeFrom rs s).me = s.me ∧
    (takeFrom rs s).wu = s.wu ∧ (takeFrom rs s).mem = s.mem ∧ (takeFrom rs s).composition = s.composition ∧
    (takeFrom rs s).resetLow = s.resetLow ∧ (takeFrom rs s).freeDraws = s.freeDraws ∧
    (takeFrom rs s).pending = s.pending ∧ (takeFrom rs s).mp.noFlags = s.mp.noFlags := by
  induction rs generalizing s with
  | nil => simp [takeFrom]
  | cons a rest ih => simp only [takeFrom]; (repeat' split) <;> simp [ih]

@[simp] theorem takeFrom_access :
    (∀ (i' : Fin Config.clientCount), (takeFrom rs s).client i' = s.client i') ∧
    (∀ (d' : Dir), (takeFrom rs s).shareDir d' = s.shareDir d') ∧
    (∀ (d' : Dir) (i' : Fin Config.clientCount), (takeFrom rs s).grant d' i' = s.grant d' i') ∧
    (∀ (k' : Fin Config.peerSlots), (takeFrom rs s).slot k' = s.slot k') ∧
    (∀ (k' : Fin Config.watchCount), (takeFrom rs s).watch k' = s.watch k') ∧
    (takeFrom rs s).started = s.started := by
  simp [State.client, State.shareDir, State.grant, State.slot, State.watch, State.started]

@[simp] theorem takeFrom_cfg : (takeFrom rs s).mp.cfg = s.mp.cfg :=
  MaintPort.cfg_of_noFlags (by simp)

@[simp] theorem takeFrom_flags {m : Nat} (h : s.mp.flags.getLsbD m = true) :
    (takeFrom rs s).mp.flags.getLsbD m = true := by
  induction rs generalizing s with
  | nil => exact h
  | cons a rest ih => simp only [takeFrom]; (repeat' split) <;> simp [ih, h]

end

/-! ## writerTake -/

section
variable (s : State)

@[simp] theorem writerTake_frame :
    (writerTake s).tb = s.tb ∧ (writerTake s).se = s.se ∧ (writerTake s).pt = s.pt ∧ (writerTake s).li = s.li ∧
    (writerTake s).ct = s.ct ∧ (writerTake s).me = s.me ∧ (writerTake s).wu = s.wu ∧ (writerTake s).mem = s.mem
    ∧ (writerTake s).composition = s.composition ∧ (writerTake s).resetLow = s.resetLow ∧
    (writerTake s).freeDraws = s.freeDraws ∧ (writerTake s).pending = s.pending ∧
    (writerTake s).mp.noFlags = s.mp.noFlags := by
  unfold writerTake; try dsimp only
  (repeat' split) <;> simp

@[simp] theorem writerTake_access :
    (∀ (i' : Fin Config.clientCount), (writerTake s).client i' = s.client i') ∧
    (∀ (d' : Dir), (writerTake s).shareDir d' = s.shareDir d') ∧
    (∀ (d' : Dir) (i' : Fin Config.clientCount), (writerTake s).grant d' i' = s.grant d' i') ∧
    (∀ (k' : Fin Config.peerSlots), (writerTake s).slot k' = s.slot k') ∧
    (∀ (k' : Fin Config.watchCount), (writerTake s).watch k' = s.watch k') ∧ (writerTake s).started = s.started := by
  simp [State.client, State.shareDir, State.grant, State.slot, State.watch, State.started]

@[simp] theorem writerTake_cfg : (writerTake s).mp.cfg = s.mp.cfg :=
  MaintPort.cfg_of_noFlags (by simp)

@[simp] theorem writerTake_flags {m : Nat} (h : s.mp.flags.getLsbD m = true) :
    (writerTake s).mp.flags.getLsbD m = true := by
  unfold writerTake; try dsimp only
  (repeat' split) <;> simp [h]

end

/-! ## offerRecord -/

section
variable (r : Record)
variable (s : State)

@[simp] theorem offerRecord_frame :
    (offerRecord r s).tb = s.tb ∧ (offerRecord r s).se = s.se ∧ (offerRecord r s).pt = s.pt ∧
    (offerRecord r s).li = s.li ∧ (offerRecord r s).ct = s.ct ∧ (offerRecord r s).me = s.me ∧
    (offerRecord r s).wu = s.wu ∧ (offerRecord r s).mem = s.mem ∧ (offerRecord r s).composition = s.composition
    ∧ (offerRecord r s).resetLow = s.resetLow ∧ (offerRecord r s).freeDraws = s.freeDraws ∧
    (offerRecord r s).pending = s.pending ∧ (offerRecord r s).mp.noFlags = s.mp.noFlags := by
  unfold offerRecord; try dsimp only
  (repeat' split) <;> simp

@[simp] theorem offerRecord_access :
    (∀ (i' : Fin Config.clientCount), (offerRecord r s).client i' = s.client i') ∧
    (∀ (d' : Dir), (offerRecord r s).shareDir d' = s.shareDir d') ∧
    (∀ (d' : Dir) (i' : Fin Config.clientCount), (offerRecord r s).grant d' i' = s.grant d' i') ∧
    (∀ (k' : Fin Config.peerSlots), (offerRecord r s).slot k' = s.slot k') ∧
    (∀ (k' : Fin Config.watchCount), (offerRecord r s).watch k' = s.watch k') ∧
    (offerRecord r s).started = s.started := by
  simp [State.client, State.shareDir, State.grant, State.slot, State.watch, State.started]

@[simp] theorem offerRecord_cfg : (offerRecord r s).mp.cfg = s.mp.cfg :=
  MaintPort.cfg_of_noFlags (by simp)

@[simp] theorem offerRecord_flags {m : Nat} (h : s.mp.flags.getLsbD m = true) :
    (offerRecord r s).mp.flags.getLsbD m = true := by
  unfold offerRecord; try dsimp only
  (repeat' split) <;> simp [h]

end

/-! ## releaseRecord -/

section
variable (s : State)

@[simp] theorem releaseRecord_frame :
    (releaseRecord s).tb = s.tb ∧ (releaseRecord s).se = s.se ∧ (releaseRecord s).pt = s.pt ∧
    (releaseRecord s).li = s.li ∧ (releaseRecord s).ct = s.ct ∧ (releaseRecord s).me = s.me ∧
    (releaseRecord s).wu = s.wu ∧ (releaseRecord s).mem = s.mem ∧ (releaseRecord s).composition = s.composition
    ∧ (releaseRecord s).resetLow = s.resetLow ∧ (releaseRecord s).freeDraws = s.freeDraws ∧
    (releaseRecord s).pending = s.pending ∧ (releaseRecord s).mp.noFlags = s.mp.noFlags := by
  unfold releaseRecord; try dsimp only
  (repeat' split) <;> simp

@[simp] theorem releaseRecord_access :
    (∀ (i' : Fin Config.clientCount), (releaseRecord s).client i' = s.client i') ∧
    (∀ (d' : Dir), (releaseRecord s).shareDir d' = s.shareDir d') ∧
    (∀ (d' : Dir) (i' : Fin Config.clientCount), (releaseRecord s).grant d' i' = s.grant d' i') ∧
    (∀ (k' : Fin Config.peerSlots), (releaseRecord s).slot k' = s.slot k') ∧
    (∀ (k' : Fin Config.watchCount), (releaseRecord s).watch k' = s.watch k') ∧
    (releaseRecord s).started = s.started := by
  simp [State.client, State.shareDir, State.grant, State.slot, State.watch, State.started]

@[simp] theorem releaseRecord_cfg : (releaseRecord s).mp.cfg = s.mp.cfg :=
  MaintPort.cfg_of_noFlags (by simp)

@[simp] theorem releaseRecord_flags {m : Nat} (h : s.mp.flags.getLsbD m = true) :
    (releaseRecord s).mp.flags.getLsbD m = true := by
  unfold releaseRecord; try dsimp only
  (repeat' split) <;> simp [h]

end

/-! ## recordCompleted -/

section
variable (s : State)

@[simp] theorem recordCompleted_frame :
    (recordCompleted s).tb = s.tb ∧ (recordCompleted s).se = s.se ∧ (recordCompleted s).pt = s.pt ∧
    (recordCompleted s).li = s.li ∧ (recordCompleted s).ct = s.ct ∧ (recordCompleted s).me = s.me ∧
    (recordCompleted s).wu = s.wu ∧ (recordCompleted s).mem = s.mem ∧
    (recordCompleted s).composition = s.composition ∧ (recordCompleted s).resetLow = s.resetLow ∧
    (recordCompleted s).freeDraws = s.freeDraws ∧ (recordCompleted s).pending = s.pending ∧
    (recordCompleted s).mp.noFlags = s.mp.noFlags := by
  unfold recordCompleted; try dsimp only
  (repeat' split) <;> simp

@[simp] theorem recordCompleted_access :
    (∀ (i' : Fin Config.clientCount), (recordCompleted s).client i' = s.client i') ∧
    (∀ (d' : Dir), (recordCompleted s).shareDir d' = s.shareDir d') ∧
    (∀ (d' : Dir) (i' : Fin Config.clientCount), (recordCompleted s).grant d' i' = s.grant d' i') ∧
    (∀ (k' : Fin Config.peerSlots), (recordCompleted s).slot k' = s.slot k') ∧
    (∀ (k' : Fin Config.watchCount), (recordCompleted s).watch k' = s.watch k') ∧
    (recordCompleted s).started = s.started := by
  simp [State.client, State.shareDir, State.grant, State.slot, State.watch, State.started]

@[simp] theorem recordCompleted_cfg : (recordCompleted s).mp.cfg = s.mp.cfg :=
  MaintPort.cfg_of_noFlags (by simp)

@[simp] theorem recordCompleted_flags {m : Nat} (h : s.mp.flags.getLsbD m = true) :
    (recordCompleted s).mp.flags.getLsbD m = true := by
  unfold recordCompleted; try dsimp only
  (repeat' split) <;> simp [h]

end

/-! ## recordTimedOut -/

section
variable (s : State)

@[simp] theorem recordTimedOut_frame :
    (recordTimedOut s).tb = s.tb ∧ (recordTimedOut s).se = s.se ∧ (recordTimedOut s).pt = s.pt ∧
    (recordTimedOut s).li = s.li ∧ (recordTimedOut s).ct = s.ct ∧ (recordTimedOut s).me = s.me ∧
    (recordTimedOut s).wu = s.wu ∧ (recordTimedOut s).mem = s.mem ∧
    (recordTimedOut s).composition = s.composition ∧ (recordTimedOut s).resetLow = s.resetLow ∧
    (recordTimedOut s).freeDraws = s.freeDraws ∧ (recordTimedOut s).pending = s.pending ∧
    (recordTimedOut s).mp.noFlags = s.mp.noFlags := by
  unfold recordTimedOut; try dsimp only
  (repeat' split) <;> simp

@[simp] theorem recordTimedOut_access :
    (∀ (i' : Fin Config.clientCount), (recordTimedOut s).client i' = s.client i') ∧
    (∀ (d' : Dir), (recordTimedOut s).shareDir d' = s.shareDir d') ∧
    (∀ (d' : Dir) (i' : Fin Config.clientCount), (recordTimedOut s).grant d' i' = s.grant d' i') ∧
    (∀ (k' : Fin Config.peerSlots), (recordTimedOut s).slot k' = s.slot k') ∧
    (∀ (k' : Fin Config.watchCount), (recordTimedOut s).watch k' = s.watch k') ∧
    (recordTimedOut s).started = s.started := by
  simp [State.client, State.shareDir, State.grant, State.slot, State.watch, State.started]

@[simp] theorem recordTimedOut_cfg : (recordTimedOut s).mp.cfg = s.mp.cfg :=
  MaintPort.cfg_of_noFlags (by simp)

@[simp] theorem recordTimedOut_flags {m : Nat} (h : s.mp.flags.getLsbD m = true) :
    (recordTimedOut s).mp.flags.getLsbD m = true := by
  unfold recordTimedOut; try dsimp only
  (repeat' split) <;> simp [h]

end

/-! ## raiseIfTimedOut -/

section
variable (s : State)

@[simp] theorem raiseIfTimedOut_frame :
    (raiseIfTimedOut s).tb = s.tb ∧ (raiseIfTimedOut s).se = s.se ∧ (raiseIfTimedOut s).pt = s.pt ∧
    (raiseIfTimedOut s).li = s.li ∧ (raiseIfTimedOut s).ct = s.ct ∧ (raiseIfTimedOut s).me = s.me ∧
    (raiseIfTimedOut s).wu = s.wu ∧ (raiseIfTimedOut s).lw = s.lw ∧ (raiseIfTimedOut s).mc = s.mc ∧
    (raiseIfTimedOut s).mem = s.mem ∧ (raiseIfTimedOut s).composition = s.composition ∧
    (raiseIfTimedOut s).resetLow = s.resetLow ∧ (raiseIfTimedOut s).freeDraws = s.freeDraws ∧
    (raiseIfTimedOut s).pending = s.pending ∧ (raiseIfTimedOut s).mp.noFlags = s.mp.noFlags := by
  unfold raiseIfTimedOut; try dsimp only
  (repeat' split) <;> simp

@[simp] theorem raiseIfTimedOut_access :
    (∀ (i' : Fin Config.clientCount), (raiseIfTimedOut s).client i' = s.client i') ∧
    (∀ (d' : Dir), (raiseIfTimedOut s).shareDir d' = s.shareDir d') ∧
    (∀ (d' : Dir) (i' : Fin Config.clientCount), (raiseIfTimedOut s).grant d' i' = s.grant d' i') ∧
    (∀ (k' : Fin Config.peerSlots), (raiseIfTimedOut s).slot k' = s.slot k') ∧
    (∀ (k' : Fin Config.watchCount), (raiseIfTimedOut s).watch k' = s.watch k') ∧
    (raiseIfTimedOut s).started = s.started := by
  simp [State.client, State.shareDir, State.grant, State.slot, State.watch, State.started]

@[simp] theorem raiseIfTimedOut_cfg : (raiseIfTimedOut s).mp.cfg = s.mp.cfg :=
  MaintPort.cfg_of_noFlags (by simp)

@[simp] theorem raiseIfTimedOut_flags {m : Nat} (h : s.mp.flags.getLsbD m = true) :
    (raiseIfTimedOut s).mp.flags.getLsbD m = true := by
  unfold raiseIfTimedOut; try dsimp only
  (repeat' split) <;> simp [h]

end

/-! ## endAccess -/

section
variable (s : State)

@[simp] theorem endAccess_frame :
    (endAccess s).tb = s.tb ∧ (endAccess s).se = s.se ∧ (endAccess s).pt = s.pt ∧ (endAccess s).li = s.li ∧
    (endAccess s).ct = s.ct ∧ (endAccess s).me = s.me ∧ (endAccess s).wu = s.wu ∧ (endAccess s).mem = s.mem ∧
    (endAccess s).composition = s.composition ∧ (endAccess s).resetLow = s.resetLow ∧
    (endAccess s).freeDraws = s.freeDraws ∧ (endAccess s).pending = s.pending ∧
    (endAccess s).mp.noFlags = s.mp.noFlags := by
  unfold endAccess; try dsimp only
  (repeat' split) <;> simp

@[simp] theorem endAccess_access :
    (∀ (i' : Fin Config.clientCount), (endAccess s).client i' = s.client i') ∧
    (∀ (d' : Dir), (endAccess s).shareDir d' = s.shareDir d') ∧
    (∀ (d' : Dir) (i' : Fin Config.clientCount), (endAccess s).grant d' i' = s.grant d' i') ∧
    (∀ (k' : Fin Config.peerSlots), (endAccess s).slot k' = s.slot k') ∧
    (∀ (k' : Fin Config.watchCount), (endAccess s).watch k' = s.watch k') ∧ (endAccess s).started = s.started := by
  simp [State.client, State.shareDir, State.grant, State.slot, State.watch, State.started]

@[simp] theorem endAccess_cfg : (endAccess s).mp.cfg = s.mp.cfg :=
  MaintPort.cfg_of_noFlags (by simp)

@[simp] theorem endAccess_flags {m : Nat} (h : s.mp.flags.getLsbD m = true) :
    (endAccess s).mp.flags.getLsbD m = true := by
  unfold endAccess; try dsimp only
  (repeat' split) <;> simp [h]

end

/-! ## closureComplete -/

section
variable (s : State)

@[simp] theorem closureComplete_frame :
    (closureComplete s).pt = s.pt ∧ (closureComplete s).li = s.li ∧ (closureComplete s).ct = s.ct ∧
    (closureComplete s).me = s.me ∧ (closureComplete s).wu = s.wu ∧ (closureComplete s).lw = s.lw ∧
    (closureComplete s).mc = s.mc ∧ (closureComplete s).mp = s.mp ∧ (closureComplete s).mem = s.mem ∧
    (closureComplete s).composition = s.composition ∧ (closureComplete s).resetLow = s.resetLow ∧
    (closureComplete s).freeDraws = s.freeDraws ∧ (closureComplete s).pending = s.pending := by
  unfold closureComplete; try dsimp only
  (repeat' split) <;> simp

@[simp] theorem closureComplete_access :
    (∀ (i' : Fin Config.clientCount), (closureComplete s).client i' = s.client i') ∧
    (∀ (d' : Dir) (i' : Fin Config.clientCount), (closureComplete s).grant d' i' = s.grant d' i') ∧
    (∀ (k' : Fin Config.peerSlots), (closureComplete s).slot k' = s.slot k') ∧
    (∀ (k' : Fin Config.watchCount), (closureComplete s).watch k' = s.watch k') ∧
    (closureComplete s).started = s.started := by
  simp [State.client, State.shareDir, State.grant, State.slot, State.watch, State.started]

end

/-! ## giveGrants -/

section
variable (d : Dir) (ms : List (Fin Config.clientCount)) (gs : List (Fin Config.clientCount × Nat))
variable (s : State)

@[simp] theorem giveGrants_frame :
    (giveGrants d ms gs s).tb = s.tb ∧ (giveGrants d ms gs s).pt = s.pt ∧ (giveGrants d ms gs s).li = s.li ∧
    (giveGrants d ms gs s).me = s.me ∧ (giveGrants d ms gs s).wu = s.wu ∧ (giveGrants d ms gs s).lw = s.lw ∧
    (giveGrants d ms gs s).mc = s.mc ∧ (giveGrants d ms gs s).mp = s.mp ∧ (giveGrants d ms gs s).mem = s.mem ∧
    (giveGrants d ms gs s).composition = s.composition ∧ (giveGrants d ms gs s).resetLow = s.resetLow ∧
    (giveGrants d ms gs s).freeDraws = s.freeDraws ∧ (giveGrants d ms gs s).pending = s.pending := by
  induction gs generalizing s with
  | nil => simp [giveGrants]
  | cons a rest ih => simp only [giveGrants]; (repeat' split) <;> simp [ih]

@[simp] theorem giveGrants_access :
    (∀ (k' : Fin Config.peerSlots), (giveGrants d ms gs s).slot k' = s.slot k') ∧
    (∀ (k' : Fin Config.watchCount), (giveGrants d ms gs s).watch k' = s.watch k') ∧
    (giveGrants d ms gs s).started = s.started := by
  simp [State.client, State.shareDir, State.grant, State.slot, State.watch, State.started]

end

/-! ## redrawJoiners -/

section
variable (d : Dir) (ms is : List (Fin Config.clientCount))
variable (s : State)

@[simp] theorem redrawJoiners_frame :
    (redrawJoiners d ms is s).tb = s.tb ∧ (redrawJoiners d ms is s).pt = s.pt ∧
    (redrawJoiners d ms is s).li = s.li ∧ (redrawJoiners d ms is s).me = s.me ∧
    (redrawJoiners d ms is s).wu = s.wu ∧ (redrawJoiners d ms is s).lw = s.lw ∧
    (redrawJoiners d ms is s).mc = s.mc ∧ (redrawJoiners d ms is s).mp = s.mp ∧
    (redrawJoiners d ms is s).mem = s.mem ∧ (redrawJoiners d ms is s).composition = s.composition ∧
    (redrawJoiners d ms is s).resetLow = s.resetLow ∧ (redrawJoiners d ms is s).freeDraws = s.freeDraws ∧
    (redrawJoiners d ms is s).pending = s.pending := by
  induction is generalizing s with
  | nil => simp [redrawJoiners]
  | cons a rest ih => simp only [redrawJoiners]; (repeat' split) <;> simp [ih]

@[simp] theorem redrawJoiners_access :
    (∀ (k' : Fin Config.peerSlots), (redrawJoiners d ms is s).slot k' = s.slot k') ∧
    (∀ (k' : Fin Config.watchCount), (redrawJoiners d ms is s).watch k' = s.watch k') ∧
    (redrawJoiners d ms is s).started = s.started := by
  simp [State.client, State.shareDir, State.grant, State.slot, State.watch, State.started]

end

/-! ## publishDir -/

section
variable (d : Dir) (n : Snapshot)
variable (s : State)

/-- The list of joiners held opaque, so that no check evaluates it. -/
theorem publishDir_eq : ∃ l, publishDir d n s =
    redrawJoiners d n.membership l (giveGrants d n.membership
      (computedGrants s.mp.cfg n d (passShare s.mp.cfg n (s.shareDir d).held d))
      (setShare d n.held (passShare s.mp.cfg n (s.shareDir d).held d) s)) := ⟨_, rfl⟩

@[simp] theorem publishDir_frame :
    (publishDir d n s).tb = s.tb ∧ (publishDir d n s).pt = s.pt ∧ (publishDir d n s).li = s.li ∧
    (publishDir d n s).me = s.me ∧ (publishDir d n s).wu = s.wu ∧ (publishDir d n s).lw = s.lw ∧
    (publishDir d n s).mc = s.mc ∧ (publishDir d n s).mp = s.mp ∧ (publishDir d n s).mem = s.mem ∧
    (publishDir d n s).composition = s.composition ∧ (publishDir d n s).resetLow = s.resetLow ∧
    (publishDir d n s).freeDraws = s.freeDraws ∧ (publishDir d n s).pending = s.pending := by
  obtain ⟨l, h⟩ := publishDir_eq d n s
  rw [h]; simp

@[simp] theorem publishDir_access :
    (∀ (k' : Fin Config.peerSlots), (publishDir d n s).slot k' = s.slot k') ∧
    (∀ (k' : Fin Config.watchCount), (publishDir d n s).watch k' = s.watch k') ∧
    (publishDir d n s).started = s.started := by
  simp [State.client, State.shareDir, State.grant, State.slot, State.watch, State.started]

end

/-! ## attachFree -/

section
variable (i : Fin Config.clientCount) (t : Tier) (g : BitVec 3) (p : BitVec 12)
variable (s : State)

@[simp] theorem attachFree_frame :
    (attachFree i t g p s).tb = s.tb ∧ (attachFree i t g p s).pt = s.pt ∧ (attachFree i t g p s).li = s.li ∧
    (attachFree i t g p s).me = s.me ∧ (attachFree i t g p s).wu = s.wu ∧ (attachFree i t g p s).lw = s.lw ∧
    (attachFree i t g p s).mc = s.mc ∧ (attachFree i t g p s).mp = s.mp ∧ (attachFree i t g p s).mem = s.mem ∧
    (attachFree i t g p s).composition = s.composition ∧ (attachFree i t g p s).resetLow = s.resetLow ∧
    (attachFree i t g p s).freeDraws = s.freeDraws ∧ (attachFree i t g p s).pending = s.pending := by
  unfold attachFree; try dsimp only
  (repeat' split) <;> simp

@[simp] theorem attachFree_access :
    (∀ (k' : Fin Config.peerSlots), (attachFree i t g p s).slot k' = s.slot k') ∧
    (∀ (k' : Fin Config.watchCount), (attachFree i t g p s).watch k' = s.watch k') ∧
    (attachFree i t g p s).started = s.started := by
  simp [State.client, State.shareDir, State.grant, State.slot, State.watch, State.started]

end

/-! ## removeClient -/

section
variable (i : Fin Config.clientCount) (y : RemovalReason)
variable (s : State)

@[simp] theorem removeClient_frame :
    (removeClient i y s).tb = s.tb ∧ (removeClient i y s).pt = s.pt ∧ (removeClient i y s).li = s.li ∧
    (removeClient i y s).me = s.me ∧ (removeClient i y s).wu = s.wu ∧ (removeClient i y s).mem = s.mem ∧
    (removeClient i y s).composition = s.composition ∧ (removeClient i y s).resetLow = s.resetLow ∧
    (removeClient i y s).freeDraws = s.freeDraws ∧ (removeClient i y s).pending = s.pending ∧
    (removeClient i y s).mp.noFlags = s.mp.noFlags := by
  unfold removeClient; try dsimp only
  (repeat' split) <;> simp

@[simp] theorem removeClient_access :
    (∀ (k' : Fin Config.peerSlots), (removeClient i y s).slot k' = s.slot k') ∧
    (∀ (k' : Fin Config.watchCount), (removeClient i y s).watch k' = s.watch k') ∧
    (removeClient i y s).started = s.started := by
  simp [State.client, State.shareDir, State.grant, State.slot, State.watch, State.started]

@[simp] theorem removeClient_cfg : (removeClient i y s).mp.cfg = s.mp.cfg :=
  MaintPort.cfg_of_noFlags (by simp)

@[simp] theorem removeClient_flags {m : Nat} (h : s.mp.flags.getLsbD m = true) :
    (removeClient i y s).mp.flags.getLsbD m = true := by
  unfold removeClient; try dsimp only
  (repeat' split) <;> simp [h]

end

/-! ## becomeIdle -/

section
variable (i : Fin Config.clientCount)
variable (s : State)

@[simp] theorem becomeIdle_frame :
    (becomeIdle i s).tb = s.tb ∧ (becomeIdle i s).pt = s.pt ∧ (becomeIdle i s).li = s.li ∧
    (becomeIdle i s).me = s.me ∧ (becomeIdle i s).wu = s.wu ∧ (becomeIdle i s).mem = s.mem ∧
    (becomeIdle i s).composition = s.composition ∧ (becomeIdle i s).resetLow = s.resetLow ∧
    (becomeIdle i s).freeDraws = s.freeDraws ∧ (becomeIdle i s).pending = s.pending ∧
    (becomeIdle i s).mp.noFlags = s.mp.noFlags := by
  unfold becomeIdle; try dsimp only
  (repeat' split) <;> simp

@[simp] theorem becomeIdle_access :
    (∀ (k' : Fin Config.peerSlots), (becomeIdle i s).slot k' = s.slot k') ∧
    (∀ (k' : Fin Config.watchCount), (becomeIdle i s).watch k' = s.watch k') ∧
    (becomeIdle i s).started = s.started := by
  simp [State.client, State.shareDir, State.grant, State.slot, State.watch, State.started]

@[simp] theorem becomeIdle_cfg : (becomeIdle i s).mp.cfg = s.mp.cfg :=
  MaintPort.cfg_of_noFlags (by simp)

@[simp] theorem becomeIdle_flags {m : Nat} (h : s.mp.flags.getLsbD m = true) :
    (becomeIdle i s).mp.flags.getLsbD m = true := by
  unfold becomeIdle; try dsimp only
  (repeat' split) <;> simp [h]

end

/-! ## closeEntry -/

section
variable (i : Fin Config.clientCount) (n : Nat)
variable (s : State)

@[simp] theorem closeEntry_frame :
    (closeEntry i n s).tb = s.tb ∧ (closeEntry i n s).pt = s.pt ∧ (closeEntry i n s).li = s.li ∧
    (closeEntry i n s).me = s.me ∧ (closeEntry i n s).wu = s.wu ∧ (closeEntry i n s).mem = s.mem ∧
    (closeEntry i n s).composition = s.composition ∧ (closeEntry i n s).resetLow = s.resetLow ∧
    (closeEntry i n s).freeDraws = s.freeDraws ∧ (closeEntry i n s).pending = s.pending ∧
    (closeEntry i n s).mp.noFlags = s.mp.noFlags := by
  unfold closeEntry; try dsimp only
  (repeat' split) <;> simp

@[simp] theorem closeEntry_access :
    (∀ (k' : Fin Config.peerSlots), (closeEntry i n s).slot k' = s.slot k') ∧
    (∀ (k' : Fin Config.watchCount), (closeEntry i n s).watch k' = s.watch k') ∧
    (closeEntry i n s).started = s.started := by
  simp [State.client, State.shareDir, State.grant, State.slot, State.watch, State.started]

@[simp] theorem closeEntry_cfg : (closeEntry i n s).mp.cfg = s.mp.cfg :=
  MaintPort.cfg_of_noFlags (by simp)

@[simp] theorem closeEntry_flags {m : Nat} (h : s.mp.flags.getLsbD m = true) :
    (closeEntry i n s).mp.flags.getLsbD m = true := by
  unfold closeEntry; try dsimp only
  (repeat' split) <;> simp [h]

end

/-! ## stepWalk -/

section
variable (w : Walk)
variable (s : State)

@[simp] theorem stepWalk_frame :
    (stepWalk w s).pt = s.pt ∧ (stepWalk w s).li = s.li ∧ (stepWalk w s).me = s.me ∧ (stepWalk w s).wu = s.wu ∧
    (stepWalk w s).mem = s.mem ∧ (stepWalk w s).composition = s.composition ∧
    (stepWalk w s).resetLow = s.resetLow ∧ (stepWalk w s).freeDraws = s.freeDraws ∧
    (stepWalk w s).pending = s.pending ∧ (stepWalk w s).mp.noFlags = s.mp.noFlags := by
  unfold stepWalk; try dsimp only
  (repeat' split) <;> simp

@[simp] theorem stepWalk_access :
    (∀ (k' : Fin Config.peerSlots), (stepWalk w s).slot k' = s.slot k') ∧
    (∀ (k' : Fin Config.watchCount), (stepWalk w s).watch k' = s.watch k') ∧ (stepWalk w s).started = s.started := by
  simp [State.client, State.shareDir, State.grant, State.slot, State.watch, State.started]

@[simp] theorem stepWalk_cfg : (stepWalk w s).mp.cfg = s.mp.cfg :=
  MaintPort.cfg_of_noFlags (by simp)

@[simp] theorem stepWalk_flags {m : Nat} (h : s.mp.flags.getLsbD m = true) :
    (stepWalk w s).mp.flags.getLsbD m = true := by
  unfold stepWalk; try dsimp only
  (repeat' split) <;> simp [h]

end

/-! ## wakeClient -/

section
variable (i : Fin Config.clientCount)
variable (s : State)

@[simp] theorem wakeClient_frame :
    (wakeClient i s).tb = s.tb ∧ (wakeClient i s).pt = s.pt ∧ (wakeClient i s).li = s.li ∧
    (wakeClient i s).me = s.me ∧ (wakeClient i s).wu = s.wu ∧ (wakeClient i s).lw = s.lw ∧
    (wakeClient i s).mc = s.mc ∧ (wakeClient i s).mp = s.mp ∧ (wakeClient i s).mem = s.mem ∧
    (wakeClient i s).composition = s.composition ∧ (wakeClient i s).resetLow = s.resetLow ∧
    (wakeClient i s).freeDraws = s.freeDraws ∧ (wakeClient i s).pending = s.pending := by
  unfold wakeClient; try dsimp only
  (repeat' split) <;> simp

@[simp] theorem wakeClient_access :
    (∀ (k' : Fin Config.peerSlots), (wakeClient i s).slot k' = s.slot k') ∧
    (∀ (k' : Fin Config.watchCount), (wakeClient i s).watch k' = s.watch k') ∧
    (wakeClient i s).started = s.started := by
  simp [State.client, State.shareDir, State.grant, State.slot, State.watch, State.started]

end

/-! ## blockClient -/

section
variable (i : Fin Config.clientCount)
variable (s : State)

@[simp] theorem blockClient_frame :
    (blockClient i s).tb = s.tb ∧ (blockClient i s).pt = s.pt ∧ (blockClient i s).li = s.li ∧
    (blockClient i s).me = s.me ∧ (blockClient i s).wu = s.wu ∧ (blockClient i s).lw = s.lw ∧
    (blockClient i s).mc = s.mc ∧ (blockClient i s).mp = s.mp ∧ (blockClient i s).mem = s.mem ∧
    (blockClient i s).composition = s.composition ∧ (blockClient i s).resetLow = s.resetLow ∧
    (blockClient i s).freeDraws = s.freeDraws ∧ (blockClient i s).pending = s.pending := by
  unfold blockClient; try dsimp only
  (repeat' split) <;> simp

@[simp] theorem blockClient_access :
    (∀ (k' : Fin Config.peerSlots), (blockClient i s).slot k' = s.slot k') ∧
    (∀ (k' : Fin Config.watchCount), (blockClient i s).watch k' = s.watch k') ∧
    (blockClient i s).started = s.started := by
  simp [State.client, State.shareDir, State.grant, State.slot, State.watch, State.started]

end

/-! ## unblockClient -/

section
variable (i : Fin Config.clientCount)
variable (s : State)

@[simp] theorem unblockClient_frame :
    (unblockClient i s).tb = s.tb ∧ (unblockClient i s).pt = s.pt ∧ (unblockClient i s).li = s.li ∧
    (unblockClient i s).me = s.me ∧ (unblockClient i s).wu = s.wu ∧ (unblockClient i s).lw = s.lw ∧
    (unblockClient i s).mc = s.mc ∧ (unblockClient i s).mp = s.mp ∧ (unblockClient i s).mem = s.mem ∧
    (unblockClient i s).composition = s.composition ∧ (unblockClient i s).resetLow = s.resetLow ∧
    (unblockClient i s).freeDraws = s.freeDraws ∧ (unblockClient i s).pending = s.pending := by
  unfold unblockClient; try dsimp only
  (repeat' split) <;> simp

@[simp] theorem unblockClient_access :
    (∀ (k' : Fin Config.peerSlots), (unblockClient i s).slot k' = s.slot k') ∧
    (∀ (k' : Fin Config.watchCount), (unblockClient i s).watch k' = s.watch k') ∧
    (unblockClient i s).started = s.started := by
  simp [State.client, State.shareDir, State.grant, State.slot, State.watch, State.started]

end

/-! ## setClientTier -/

section
variable (i : Fin Config.clientCount) (t : Tier)
variable (s : State)

@[simp] theorem setClientTier_frame :
    (setClientTier i t s).tb = s.tb ∧ (setClientTier i t s).pt = s.pt ∧ (setClientTier i t s).li = s.li ∧
    (setClientTier i t s).me = s.me ∧ (setClientTier i t s).wu = s.wu ∧ (setClientTier i t s).lw = s.lw ∧
    (setClientTier i t s).mc = s.mc ∧ (setClientTier i t s).mp = s.mp ∧ (setClientTier i t s).mem = s.mem ∧
    (setClientTier i t s).composition = s.composition ∧ (setClientTier i t s).resetLow = s.resetLow ∧
    (setClientTier i t s).freeDraws = s.freeDraws ∧ (setClientTier i t s).pending = s.pending := by
  unfold setClientTier; try dsimp only
  (repeat' split) <;> simp

@[simp] theorem setClientTier_access :
    (∀ (k' : Fin Config.peerSlots), (setClientTier i t s).slot k' = s.slot k') ∧
    (∀ (k' : Fin Config.watchCount), (setClientTier i t s).watch k' = s.watch k') ∧
    (setClientTier i t s).started = s.started := by
  simp [State.client, State.shareDir, State.grant, State.slot, State.watch, State.started]

end

/-! ## loadClientAllowance -/

section
variable (i : Fin Config.clientCount) (v : Word)
variable (s : State)

@[simp] theorem loadClientAllowance_frame :
    (loadClientAllowance i v s).tb = s.tb ∧ (loadClientAllowance i v s).se = s.se ∧
    (loadClientAllowance i v s).pt = s.pt ∧ (loadClientAllowance i v s).li = s.li ∧
    (loadClientAllowance i v s).me = s.me ∧ (loadClientAllowance i v s).wu = s.wu ∧
    (loadClientAllowance i v s).lw = s.lw ∧ (loadClientAllowance i v s).mc = s.mc ∧
    (loadClientAllowance i v s).mp = s.mp ∧ (loadClientAllowance i v s).mem = s.mem ∧
    (loadClientAllowance i v s).composition = s.composition ∧ (loadClientAllowance i v s).resetLow = s.resetLow
    ∧ (loadClientAllowance i v s).freeDraws = s.freeDraws ∧ (loadClientAllowance i v s).pending = s.pending := by
  unfold loadClientAllowance; try dsimp only
  (repeat' split) <;> simp

@[simp] theorem loadClientAllowance_access :
    (∀ (d' : Dir), (loadClientAllowance i v s).shareDir d' = s.shareDir d') ∧
    (∀ (k' : Fin Config.peerSlots), (loadClientAllowance i v s).slot k' = s.slot k') ∧
    (∀ (k' : Fin Config.watchCount), (loadClientAllowance i v s).watch k' = s.watch k') ∧
    (loadClientAllowance i v s).started = s.started := by
  simp [State.client, State.shareDir, State.grant, State.slot, State.watch, State.started]

end

/-! ## viewChange -/

section
variable (a : Word) (b : BitVec 4) (c : ViewChange)
variable (s : State)

@[simp] theorem viewChange_frame :
    (viewChange a b c s).tb = s.tb ∧ (viewChange a b c s).se = s.se ∧ (viewChange a b c s).pt = s.pt ∧
    (viewChange a b c s).li = s.li ∧ (viewChange a b c s).ct = s.ct ∧ (viewChange a b c s).me = s.me ∧
    (viewChange a b c s).wu = s.wu ∧ (viewChange a b c s).mem = s.mem ∧
    (viewChange a b c s).composition = s.composition ∧ (viewChange a b c s).resetLow = s.resetLow ∧
    (viewChange a b c s).freeDraws = s.freeDraws ∧ (viewChange a b c s).pending = s.pending ∧
    (viewChange a b c s).mp.noFlags = s.mp.noFlags := by
  unfold viewChange; try dsimp only
  (repeat' split) <;> simp

@[simp] theorem viewChange_access :
    (∀ (i' : Fin Config.clientCount), (viewChange a b c s).client i' = s.client i') ∧
    (∀ (d' : Dir), (viewChange a b c s).shareDir d' = s.shareDir d') ∧
    (∀ (d' : Dir) (i' : Fin Config.clientCount), (viewChange a b c s).grant d' i' = s.grant d' i') ∧
    (∀ (k' : Fin Config.peerSlots), (viewChange a b c s).slot k' = s.slot k') ∧
    (∀ (k' : Fin Config.watchCount), (viewChange a b c s).watch k' = s.watch k') ∧
    (viewChange a b c s).started = s.started := by
  simp [State.client, State.shareDir, State.grant, State.slot, State.watch, State.started]

@[simp] theorem viewChange_cfg : (viewChange a b c s).mp.cfg = s.mp.cfg :=
  MaintPort.cfg_of_noFlags (by simp)

@[simp] theorem viewChange_flags {m : Nat} (h : s.mp.flags.getLsbD m = true) :
    (viewChange a b c s).mp.flags.getLsbD m = true := by
  unfold viewChange; try dsimp only
  (repeat' split) <;> simp [h]

end

/-! ## removePeer -/

section
variable (k : Fin Config.peerSlots) (c : ViewChange)
variable (s : State)

@[simp] theorem removePeer_frame :
    (removePeer k c s).tb = s.tb ∧ (removePeer k c s).se = s.se ∧ (removePeer k c s).li = s.li ∧
    (removePeer k c s).ct = s.ct ∧ (removePeer k c s).me = s.me ∧ (removePeer k c s).wu = s.wu ∧
    (removePeer k c s).mem = s.mem ∧ (removePeer k c s).composition = s.composition ∧
    (removePeer k c s).resetLow = s.resetLow ∧ (removePeer k c s).freeDraws = s.freeDraws ∧
    (removePeer k c s).pending = s.pending ∧ (removePeer k c s).mp.noFlags = s.mp.noFlags := by
  unfold removePeer; try dsimp only
  (repeat' split) <;> simp

@[simp] theorem removePeer_access :
    (∀ (i' : Fin Config.clientCount), (removePeer k c s).client i' = s.client i') ∧
    (∀ (d' : Dir), (removePeer k c s).shareDir d' = s.shareDir d') ∧
    (∀ (d' : Dir) (i' : Fin Config.clientCount), (removePeer k c s).grant d' i' = s.grant d' i') ∧
    (∀ (k' : Fin Config.watchCount), (removePeer k c s).watch k' = s.watch k') ∧
    (removePeer k c s).started = s.started := by
  simp [State.client, State.shareDir, State.grant, State.slot, State.watch, State.started]

@[simp] theorem removePeer_cfg : (removePeer k c s).mp.cfg = s.mp.cfg :=
  MaintPort.cfg_of_noFlags (by simp)

@[simp] theorem removePeer_flags {m : Nat} (h : s.mp.flags.getLsbD m = true) :
    (removePeer k c s).mp.flags.getLsbD m = true := by
  unfold removePeer; try dsimp only
  (repeat' split) <;> simp [h]

end

/-! ## refreshPeer -/

section
variable (k : Fin Config.peerSlots) (e : PeerEntry)
variable (s : State)

@[simp] theorem refreshPeer_frame :
    (refreshPeer k e s).tb = s.tb ∧ (refreshPeer k e s).se = s.se ∧ (refreshPeer k e s).li = s.li ∧
    (refreshPeer k e s).ct = s.ct ∧ (refreshPeer k e s).me = s.me ∧ (refreshPeer k e s).wu = s.wu ∧
    (refreshPeer k e s).lw = s.lw ∧ (refreshPeer k e s).mc = s.mc ∧ (refreshPeer k e s).mp = s.mp ∧
    (refreshPeer k e s).mem = s.mem ∧ (refreshPeer k e s).composition = s.composition ∧
    (refreshPeer k e s).resetLow = s.resetLow ∧ (refreshPeer k e s).freeDraws = s.freeDraws ∧
    (refreshPeer k e s).pending = s.pending := by
  unfold refreshPeer; try dsimp only
  (repeat' split) <;> simp

@[simp] theorem refreshPeer_access :
    (∀ (i' : Fin Config.clientCount), (refreshPeer k e s).client i' = s.client i') ∧
    (∀ (d' : Dir), (refreshPeer k e s).shareDir d' = s.shareDir d') ∧
    (∀ (d' : Dir) (i' : Fin Config.clientCount), (refreshPeer k e s).grant d' i' = s.grant d' i') ∧
    (∀ (k' : Fin Config.watchCount), (refreshPeer k e s).watch k' = s.watch k') ∧
    (refreshPeer k e s).started = s.started := by
  simp [State.client, State.shareDir, State.grant, State.slot, State.watch, State.started]

end

/-! ## updatePeer -/

section
variable (k : Fin Config.peerSlots) (e : PeerEntry) (n : Notice)
variable (s : State)

@[simp] theorem updatePeer_frame :
    (updatePeer k e n s).tb = s.tb ∧ (updatePeer k e n s).se = s.se ∧ (updatePeer k e n s).li = s.li ∧
    (updatePeer k e n s).ct = s.ct ∧ (updatePeer k e n s).me = s.me ∧ (updatePeer k e n s).wu = s.wu ∧
    (updatePeer k e n s).mem = s.mem ∧ (updatePeer k e n s).composition = s.composition ∧
    (updatePeer k e n s).resetLow = s.resetLow ∧ (updatePeer k e n s).freeDraws = s.freeDraws ∧
    (updatePeer k e n s).pending = s.pending ∧ (updatePeer k e n s).mp.noFlags = s.mp.noFlags := by
  unfold updatePeer; try dsimp only
  (repeat' split) <;> simp

@[simp] theorem updatePeer_access :
    (∀ (i' : Fin Config.clientCount), (updatePeer k e n s).client i' = s.client i') ∧
    (∀ (d' : Dir), (updatePeer k e n s).shareDir d' = s.shareDir d') ∧
    (∀ (d' : Dir) (i' : Fin Config.clientCount), (updatePeer k e n s).grant d' i' = s.grant d' i') ∧
    (∀ (k' : Fin Config.watchCount), (updatePeer k e n s).watch k' = s.watch k') ∧
    (updatePeer k e n s).started = s.started := by
  simp [State.client, State.shareDir, State.grant, State.slot, State.watch, State.started]

@[simp] theorem updatePeer_cfg : (updatePeer k e n s).mp.cfg = s.mp.cfg :=
  MaintPort.cfg_of_noFlags (by simp)

@[simp] theorem updatePeer_flags {m : Nat} (h : s.mp.flags.getLsbD m = true) :
    (updatePeer k e n s).mp.flags.getLsbD m = true := by
  unfold updatePeer; try dsimp only
  (repeat' split) <;> simp [h]

end

/-! ## storePeer -/

section
variable (k : Fin Config.peerSlots) (n : Notice)
variable (s : State)

@[simp] theorem storePeer_frame :
    (storePeer k n s).tb = s.tb ∧ (storePeer k n s).se = s.se ∧ (storePeer k n s).li = s.li ∧
    (storePeer k n s).ct = s.ct ∧ (storePeer k n s).me = s.me ∧ (storePeer k n s).wu = s.wu ∧
    (storePeer k n s).mem = s.mem ∧ (storePeer k n s).composition = s.composition ∧
    (storePeer k n s).resetLow = s.resetLow ∧ (storePeer k n s).freeDraws = s.freeDraws ∧
    (storePeer k n s).pending = s.pending ∧ (storePeer k n s).mp.noFlags = s.mp.noFlags := by
  unfold storePeer; try dsimp only
  (repeat' split) <;> simp

@[simp] theorem storePeer_access :
    (∀ (i' : Fin Config.clientCount), (storePeer k n s).client i' = s.client i') ∧
    (∀ (d' : Dir), (storePeer k n s).shareDir d' = s.shareDir d') ∧
    (∀ (d' : Dir) (i' : Fin Config.clientCount), (storePeer k n s).grant d' i' = s.grant d' i') ∧
    (∀ (k' : Fin Config.watchCount), (storePeer k n s).watch k' = s.watch k') ∧
    (storePeer k n s).started = s.started := by
  simp [State.client, State.shareDir, State.grant, State.slot, State.watch, State.started]

@[simp] theorem storePeer_cfg : (storePeer k n s).mp.cfg = s.mp.cfg :=
  MaintPort.cfg_of_noFlags (by simp)

@[simp] theorem storePeer_flags {m : Nat} (h : s.mp.flags.getLsbD m = true) :
    (storePeer k n s).mp.flags.getLsbD m = true := by
  unfold storePeer; try dsimp only
  (repeat' split) <;> simp [h]

end

/-! ## newPeer -/

section
variable (n : Notice)
variable (s : State)

@[simp] theorem newPeer_frame :
    (newPeer n s).tb = s.tb ∧ (newPeer n s).se = s.se ∧ (newPeer n s).li = s.li ∧ (newPeer n s).ct = s.ct ∧
    (newPeer n s).me = s.me ∧ (newPeer n s).wu = s.wu ∧ (newPeer n s).mem = s.mem ∧
    (newPeer n s).composition = s.composition ∧ (newPeer n s).resetLow = s.resetLow ∧
    (newPeer n s).freeDraws = s.freeDraws ∧ (newPeer n s).pending = s.pending ∧
    (newPeer n s).mp.noFlags = s.mp.noFlags := by
  unfold newPeer; try dsimp only
  (repeat' split) <;> simp

@[simp] theorem newPeer_access :
    (∀ (i' : Fin Config.clientCount), (newPeer n s).client i' = s.client i') ∧
    (∀ (d' : Dir), (newPeer n s).shareDir d' = s.shareDir d') ∧
    (∀ (d' : Dir) (i' : Fin Config.clientCount), (newPeer n s).grant d' i' = s.grant d' i') ∧
    (∀ (k' : Fin Config.watchCount), (newPeer n s).watch k' = s.watch k') ∧ (newPeer n s).started = s.started := by
  simp [State.client, State.shareDir, State.grant, State.slot, State.watch, State.started]

@[simp] theorem newPeer_cfg : (newPeer n s).mp.cfg = s.mp.cfg :=
  MaintPort.cfg_of_noFlags (by simp)

@[simp] theorem newPeer_flags {m : Nat} (h : s.mp.flags.getLsbD m = true) :
    (newPeer n s).mp.flags.getLsbD m = true := by
  unfold newPeer; try dsimp only
  (repeat' split) <;> simp [h]

end

/-! ## takeNotice -/

section
variable (n : Notice)
variable (s : State)

@[simp] theorem takeNotice_frame :
    (takeNotice n s).tb = s.tb ∧ (takeNotice n s).se = s.se ∧ (takeNotice n s).li = s.li ∧
    (takeNotice n s).ct = s.ct ∧ (takeNotice n s).me = s.me ∧ (takeNotice n s).wu = s.wu ∧
    (takeNotice n s).mem = s.mem ∧ (takeNotice n s).composition = s.composition ∧
    (takeNotice n s).resetLow = s.resetLow ∧ (takeNotice n s).freeDraws = s.freeDraws ∧
    (takeNotice n s).pending = s.pending ∧ (takeNotice n s).mp.noFlags = s.mp.noFlags := by
  unfold takeNotice; try dsimp only
  (repeat' split) <;> simp

@[simp] theorem takeNotice_access :
    (∀ (i' : Fin Config.clientCount), (takeNotice n s).client i' = s.client i') ∧
    (∀ (d' : Dir), (takeNotice n s).shareDir d' = s.shareDir d') ∧
    (∀ (d' : Dir) (i' : Fin Config.clientCount), (takeNotice n s).grant d' i' = s.grant d' i') ∧
    (∀ (k' : Fin Config.watchCount), (takeNotice n s).watch k' = s.watch k') ∧
    (takeNotice n s).started = s.started := by
  simp [State.client, State.shareDir, State.grant, State.slot, State.watch, State.started]

@[simp] theorem takeNotice_cfg : (takeNotice n s).mp.cfg = s.mp.cfg :=
  MaintPort.cfg_of_noFlags (by simp)

@[simp] theorem takeNotice_flags {m : Nat} (h : s.mp.flags.getLsbD m = true) :
    (takeNotice n s).mp.flags.getLsbD m = true := by
  unfold takeNotice; try dsimp only
  (repeat' split) <;> simp [h]

end

/-! ## agePeer -/

section
variable (k : Fin Config.peerSlots)
variable (s : State)

@[simp] theorem agePeer_frame :
    (agePeer k s).tb = s.tb ∧ (agePeer k s).se = s.se ∧ (agePeer k s).li = s.li ∧ (agePeer k s).ct = s.ct ∧
    (agePeer k s).me = s.me ∧ (agePeer k s).wu = s.wu ∧ (agePeer k s).mem = s.mem ∧
    (agePeer k s).composition = s.composition ∧ (agePeer k s).resetLow = s.resetLow ∧
    (agePeer k s).freeDraws = s.freeDraws ∧ (agePeer k s).pending = s.pending ∧
    (agePeer k s).mp.noFlags = s.mp.noFlags := by
  unfold agePeer; try dsimp only
  (repeat' split) <;> simp

@[simp] theorem agePeer_access :
    (∀ (i' : Fin Config.clientCount), (agePeer k s).client i' = s.client i') ∧
    (∀ (d' : Dir), (agePeer k s).shareDir d' = s.shareDir d') ∧
    (∀ (d' : Dir) (i' : Fin Config.clientCount), (agePeer k s).grant d' i' = s.grant d' i') ∧
    (∀ (k' : Fin Config.watchCount), (agePeer k s).watch k' = s.watch k') ∧ (agePeer k s).started = s.started := by
  simp [State.client, State.shareDir, State.grant, State.slot, State.watch, State.started]

@[simp] theorem agePeer_cfg : (agePeer k s).mp.cfg = s.mp.cfg :=
  MaintPort.cfg_of_noFlags (by simp)

@[simp] theorem agePeer_flags {m : Nat} (h : s.mp.flags.getLsbD m = true) :
    (agePeer k s).mp.flags.getLsbD m = true := by
  unfold agePeer; try dsimp only
  (repeat' split) <;> simp [h]

end

/-! ## agePeers -/

section
variable (ks : List (Fin Config.peerSlots))
variable (s : State)

@[simp] theorem agePeers_frame :
    (agePeers ks s).tb = s.tb ∧ (agePeers ks s).se = s.se ∧ (agePeers ks s).li = s.li ∧
    (agePeers ks s).ct = s.ct ∧ (agePeers ks s).me = s.me ∧ (agePeers ks s).wu = s.wu ∧
    (agePeers ks s).mem = s.mem ∧ (agePeers ks s).composition = s.composition ∧
    (agePeers ks s).resetLow = s.resetLow ∧ (agePeers ks s).freeDraws = s.freeDraws ∧
    (agePeers ks s).pending = s.pending ∧ (agePeers ks s).mp.noFlags = s.mp.noFlags := by
  induction ks generalizing s with
  | nil => simp [agePeers]
  | cons a rest ih => simp only [agePeers]; (repeat' split) <;> simp [ih]

@[simp] theorem agePeers_access :
    (∀ (i' : Fin Config.clientCount), (agePeers ks s).client i' = s.client i') ∧
    (∀ (d' : Dir), (agePeers ks s).shareDir d' = s.shareDir d') ∧
    (∀ (d' : Dir) (i' : Fin Config.clientCount), (agePeers ks s).grant d' i' = s.grant d' i') ∧
    (∀ (k' : Fin Config.watchCount), (agePeers ks s).watch k' = s.watch k') ∧
    (agePeers ks s).started = s.started := by
  simp [State.client, State.shareDir, State.grant, State.slot, State.watch, State.started]

@[simp] theorem agePeers_cfg : (agePeers ks s).mp.cfg = s.mp.cfg :=
  MaintPort.cfg_of_noFlags (by simp)

@[simp] theorem agePeers_flags {m : Nat} (h : s.mp.flags.getLsbD m = true) :
    (agePeers ks s).mp.flags.getLsbD m = true := by
  induction ks generalizing s with
  | nil => exact h
  | cons a rest ih => simp only [agePeers]; (repeat' split) <;> simp [ih, h]

end

/-! ## takeEdge -/

section
variable (s : State)

@[simp] theorem takeEdge_frame :
    (takeEdge s).tb = s.tb ∧ (takeEdge s).se = s.se ∧ (takeEdge s).li = s.li ∧ (takeEdge s).ct = s.ct ∧
    (takeEdge s).me = s.me ∧ (takeEdge s).wu = s.wu ∧ (takeEdge s).lw = s.lw ∧ (takeEdge s).mc = s.mc ∧
    (takeEdge s).mp = s.mp ∧ (takeEdge s).mem = s.mem ∧ (takeEdge s).composition = s.composition ∧
    (takeEdge s).resetLow = s.resetLow ∧ (takeEdge s).freeDraws = s.freeDraws ∧ (takeEdge s).pending = s.pending := by
  unfold takeEdge; try dsimp only
  (repeat' split) <;> simp

@[simp] theorem takeEdge_access :
    (∀ (i' : Fin Config.clientCount), (takeEdge s).client i' = s.client i') ∧
    (∀ (d' : Dir), (takeEdge s).shareDir d' = s.shareDir d') ∧
    (∀ (d' : Dir) (i' : Fin Config.clientCount), (takeEdge s).grant d' i' = s.grant d' i') ∧
    (∀ (k' : Fin Config.watchCount), (takeEdge s).watch k' = s.watch k') ∧ (takeEdge s).started = s.started := by
  simp [State.client, State.shareDir, State.grant, State.slot, State.watch, State.started]

end

/-! ## applyPendingEdge -/

section
variable (s : State)

@[simp] theorem applyPendingEdge_frame :
    (applyPendingEdge s).tb = s.tb ∧ (applyPendingEdge s).se = s.se ∧ (applyPendingEdge s).li = s.li ∧
    (applyPendingEdge s).ct = s.ct ∧ (applyPendingEdge s).me = s.me ∧ (applyPendingEdge s).wu = s.wu ∧
    (applyPendingEdge s).lw = s.lw ∧ (applyPendingEdge s).mc = s.mc ∧ (applyPendingEdge s).mp = s.mp ∧
    (applyPendingEdge s).mem = s.mem ∧ (applyPendingEdge s).composition = s.composition ∧
    (applyPendingEdge s).resetLow = s.resetLow ∧ (applyPendingEdge s).freeDraws = s.freeDraws ∧
    (applyPendingEdge s).pending = s.pending := by
  unfold applyPendingEdge; try dsimp only
  (repeat' split) <;> simp

@[simp] theorem applyPendingEdge_access :
    (∀ (i' : Fin Config.clientCount), (applyPendingEdge s).client i' = s.client i') ∧
    (∀ (d' : Dir), (applyPendingEdge s).shareDir d' = s.shareDir d') ∧
    (∀ (d' : Dir) (i' : Fin Config.clientCount), (applyPendingEdge s).grant d' i' = s.grant d' i') ∧
    (∀ (k' : Fin Config.watchCount), (applyPendingEdge s).watch k' = s.watch k') ∧
    (applyPendingEdge s).started = s.started := by
  simp [State.client, State.shareDir, State.grant, State.slot, State.watch, State.started]

end

/-! ## ageUplink -/

section
variable (s : State)

@[simp] theorem ageUplink_frame :
    (ageUplink s).tb = s.tb ∧ (ageUplink s).se = s.se ∧ (ageUplink s).li = s.li ∧ (ageUplink s).ct = s.ct ∧
    (ageUplink s).me = s.me ∧ (ageUplink s).wu = s.wu ∧ (ageUplink s).lw = s.lw ∧ (ageUplink s).mc = s.mc ∧
    (ageUplink s).mem = s.mem ∧ (ageUplink s).composition = s.composition ∧ (ageUplink s).resetLow = s.resetLow
    ∧ (ageUplink s).freeDraws = s.freeDraws ∧ (ageUplink s).pending = s.pending ∧
    (ageUplink s).mp.noFlags = s.mp.noFlags := by
  unfold ageUplink; try dsimp only
  (repeat' split) <;> simp

@[simp] theorem ageUplink_access :
    (∀ (i' : Fin Config.clientCount), (ageUplink s).client i' = s.client i') ∧
    (∀ (d' : Dir), (ageUplink s).shareDir d' = s.shareDir d') ∧
    (∀ (d' : Dir) (i' : Fin Config.clientCount), (ageUplink s).grant d' i' = s.grant d' i') ∧
    (∀ (k' : Fin Config.watchCount), (ageUplink s).watch k' = s.watch k') ∧ (ageUplink s).started = s.started := by
  simp [State.client, State.shareDir, State.grant, State.slot, State.watch, State.started]

@[simp] theorem ageUplink_cfg : (ageUplink s).mp.cfg = s.mp.cfg :=
  MaintPort.cfg_of_noFlags (by simp)

@[simp] theorem ageUplink_flags {m : Nat} (h : s.mp.flags.getLsbD m = true) :
    (ageUplink s).mp.flags.getLsbD m = true := by
  unfold ageUplink; try dsimp only
  (repeat' split) <;> simp [h]

end

/-! ## supersede -/

section
variable (s : State)

@[simp] theorem supersede_frame :
    (supersede s).tb = s.tb ∧ (supersede s).se = s.se ∧ (supersede s).pt = s.pt ∧ (supersede s).ct = s.ct ∧
    (supersede s).me = s.me ∧ (supersede s).wu = s.wu ∧ (supersede s).lw = s.lw ∧ (supersede s).mc = s.mc ∧
    (supersede s).mem = s.mem ∧ (supersede s).composition = s.composition ∧ (supersede s).resetLow = s.resetLow
    ∧ (supersede s).freeDraws = s.freeDraws ∧ (supersede s).pending = s.pending ∧
    (supersede s).mp.noFlags = s.mp.noFlags := by
  unfold supersede; try dsimp only
  (repeat' split) <;> simp

@[simp] theorem supersede_access :
    (∀ (i' : Fin Config.clientCount), (supersede s).client i' = s.client i') ∧
    (∀ (d' : Dir), (supersede s).shareDir d' = s.shareDir d') ∧
    (∀ (d' : Dir) (i' : Fin Config.clientCount), (supersede s).grant d' i' = s.grant d' i') ∧
    (∀ (k' : Fin Config.peerSlots), (supersede s).slot k' = s.slot k') ∧
    (∀ (k' : Fin Config.watchCount), (supersede s).watch k' = s.watch k') := by
  simp [State.client, State.shareDir, State.grant, State.slot, State.watch, State.started]

@[simp] theorem supersede_cfg : (supersede s).mp.cfg = s.mp.cfg :=
  MaintPort.cfg_of_noFlags (by simp)

@[simp] theorem supersede_flags {m : Nat} (h : s.mp.flags.getLsbD m = true) :
    (supersede s).mp.flags.getLsbD m = true := by
  unfold supersede; try dsimp only
  (repeat' split) <;> simp [h]

end

/-! ## sendRegular -/

section
variable (s : State)

@[simp] theorem sendRegular_frame :
    (sendRegular s).tb = s.tb ∧ (sendRegular s).se = s.se ∧ (sendRegular s).pt = s.pt ∧
    (sendRegular s).ct = s.ct ∧ (sendRegular s).me = s.me ∧ (sendRegular s).wu = s.wu ∧
    (sendRegular s).lw = s.lw ∧ (sendRegular s).mc = s.mc ∧ (sendRegular s).mem = s.mem ∧
    (sendRegular s).composition = s.composition ∧ (sendRegular s).resetLow = s.resetLow ∧
    (sendRegular s).freeDraws = s.freeDraws ∧ (sendRegular s).pending = s.pending ∧
    (sendRegular s).mp.noFlags = s.mp.noFlags := by
  unfold sendRegular; try dsimp only
  (repeat' split) <;> simp

@[simp] theorem sendRegular_access :
    (∀ (i' : Fin Config.clientCount), (sendRegular s).client i' = s.client i') ∧
    (∀ (d' : Dir), (sendRegular s).shareDir d' = s.shareDir d') ∧
    (∀ (d' : Dir) (i' : Fin Config.clientCount), (sendRegular s).grant d' i' = s.grant d' i') ∧
    (∀ (k' : Fin Config.peerSlots), (sendRegular s).slot k' = s.slot k') ∧
    (∀ (k' : Fin Config.watchCount), (sendRegular s).watch k' = s.watch k') := by
  simp [State.client, State.shareDir, State.grant, State.slot, State.watch, State.started]

@[simp] theorem sendRegular_cfg : (sendRegular s).mp.cfg = s.mp.cfg :=
  MaintPort.cfg_of_noFlags (by simp)

@[simp] theorem sendRegular_flags {m : Nat} (h : s.mp.flags.getLsbD m = true) :
    (sendRegular s).mp.flags.getLsbD m = true := by
  unfold sendRegular; try dsimp only
  (repeat' split) <;> simp [h]

end

/-! ## sendLeaving -/

section
variable (s : State)

@[simp] theorem sendLeaving_frame :
    (sendLeaving s).tb = s.tb ∧ (sendLeaving s).se = s.se ∧ (sendLeaving s).pt = s.pt ∧
    (sendLeaving s).ct = s.ct ∧ (sendLeaving s).me = s.me ∧ (sendLeaving s).wu = s.wu ∧
    (sendLeaving s).lw = s.lw ∧ (sendLeaving s).mc = s.mc ∧ (sendLeaving s).mem = s.mem ∧
    (sendLeaving s).composition = s.composition ∧ (sendLeaving s).resetLow = s.resetLow ∧
    (sendLeaving s).freeDraws = s.freeDraws ∧ (sendLeaving s).pending = s.pending ∧
    (sendLeaving s).mp.noFlags = s.mp.noFlags := by
  unfold sendLeaving; try dsimp only
  (repeat' split) <;> simp

@[simp] theorem sendLeaving_access :
    (∀ (i' : Fin Config.clientCount), (sendLeaving s).client i' = s.client i') ∧
    (∀ (d' : Dir), (sendLeaving s).shareDir d' = s.shareDir d') ∧
    (∀ (d' : Dir) (i' : Fin Config.clientCount), (sendLeaving s).grant d' i' = s.grant d' i') ∧
    (∀ (k' : Fin Config.peerSlots), (sendLeaving s).slot k' = s.slot k') ∧
    (∀ (k' : Fin Config.watchCount), (sendLeaving s).watch k' = s.watch k') := by
  simp [State.client, State.shareDir, State.grant, State.slot, State.watch, State.started]

@[simp] theorem sendLeaving_cfg : (sendLeaving s).mp.cfg = s.mp.cfg :=
  MaintPort.cfg_of_noFlags (by simp)

@[simp] theorem sendLeaving_flags {m : Nat} (h : s.mp.flags.getLsbD m = true) :
    (sendLeaving s).mp.flags.getLsbD m = true := by
  unfold sendLeaving; try dsimp only
  (repeat' split) <;> simp [h]

end

/-! ## passCompleted -/

section
variable (s : State)

@[simp] theorem passCompleted_frame :
    (passCompleted s).tb = s.tb ∧ (passCompleted s).se = s.se ∧ (passCompleted s).pt = s.pt ∧
    (passCompleted s).ct = s.ct ∧ (passCompleted s).me = s.me ∧ (passCompleted s).wu = s.wu ∧
    (passCompleted s).lw = s.lw ∧ (passCompleted s).mc = s.mc ∧ (passCompleted s).mem = s.mem ∧
    (passCompleted s).composition = s.composition ∧ (passCompleted s).resetLow = s.resetLow ∧
    (passCompleted s).freeDraws = s.freeDraws ∧ (passCompleted s).pending = s.pending ∧
    (passCompleted s).mp.noFlags = s.mp.noFlags := by
  unfold passCompleted; try dsimp only
  (repeat' split) <;> simp

@[simp] theorem passCompleted_access :
    (∀ (i' : Fin Config.clientCount), (passCompleted s).client i' = s.client i') ∧
    (∀ (d' : Dir), (passCompleted s).shareDir d' = s.shareDir d') ∧
    (∀ (d' : Dir) (i' : Fin Config.clientCount), (passCompleted s).grant d' i' = s.grant d' i') ∧
    (∀ (k' : Fin Config.peerSlots), (passCompleted s).slot k' = s.slot k') ∧
    (∀ (k' : Fin Config.watchCount), (passCompleted s).watch k' = s.watch k') := by
  simp [State.client, State.shareDir, State.grant, State.slot, State.watch, State.started]

@[simp] theorem passCompleted_cfg : (passCompleted s).mp.cfg = s.mp.cfg :=
  MaintPort.cfg_of_noFlags (by simp)

@[simp] theorem passCompleted_flags {m : Nat} (h : s.mp.flags.getLsbD m = true) :
    (passCompleted s).mp.flags.getLsbD m = true := by
  unfold passCompleted; try dsimp only
  (repeat' split) <;> simp [h]

end

/-! ## failAttempt -/

section
variable (s : State)

@[simp] theorem failAttempt_frame :
    (failAttempt s).tb = s.tb ∧ (failAttempt s).se = s.se ∧ (failAttempt s).pt = s.pt ∧
    (failAttempt s).ct = s.ct ∧ (failAttempt s).me = s.me ∧ (failAttempt s).wu = s.wu ∧
    (failAttempt s).lw = s.lw ∧ (failAttempt s).mc = s.mc ∧ (failAttempt s).mem = s.mem ∧
    (failAttempt s).composition = s.composition ∧ (failAttempt s).resetLow = s.resetLow ∧
    (failAttempt s).freeDraws = s.freeDraws ∧ (failAttempt s).pending = s.pending ∧
    (failAttempt s).mp.noFlags = s.mp.noFlags := by
  unfold failAttempt; try dsimp only
  (repeat' split) <;> simp

@[simp] theorem failAttempt_access :
    (∀ (i' : Fin Config.clientCount), (failAttempt s).client i' = s.client i') ∧
    (∀ (d' : Dir), (failAttempt s).shareDir d' = s.shareDir d') ∧
    (∀ (d' : Dir) (i' : Fin Config.clientCount), (failAttempt s).grant d' i' = s.grant d' i') ∧
    (∀ (k' : Fin Config.peerSlots), (failAttempt s).slot k' = s.slot k') ∧
    (∀ (k' : Fin Config.watchCount), (failAttempt s).watch k' = s.watch k') := by
  simp [State.client, State.shareDir, State.grant, State.slot, State.watch, State.started]

@[simp] theorem failAttempt_cfg : (failAttempt s).mp.cfg = s.mp.cfg :=
  MaintPort.cfg_of_noFlags (by simp)

@[simp] theorem failAttempt_flags {m : Nat} (h : s.mp.flags.getLsbD m = true) :
    (failAttempt s).mp.flags.getLsbD m = true := by
  unfold failAttempt; try dsimp only
  (repeat' split) <;> simp [h]

end

/-! ## idConflict -/

section
variable (s : State)

@[simp] theorem idConflict_frame :
    (idConflict s).tb = s.tb ∧ (idConflict s).se = s.se ∧ (idConflict s).pt = s.pt ∧ (idConflict s).ct = s.ct ∧
    (idConflict s).me = s.me ∧ (idConflict s).wu = s.wu ∧ (idConflict s).lw = s.lw ∧ (idConflict s).mc = s.mc ∧
    (idConflict s).mem = s.mem ∧ (idConflict s).composition = s.composition ∧
    (idConflict s).resetLow = s.resetLow ∧ (idConflict s).freeDraws = s.freeDraws ∧
    (idConflict s).pending = s.pending ∧ (idConflict s).mp.noFlags = s.mp.noFlags := by
  unfold idConflict; try dsimp only
  (repeat' split) <;> simp

@[simp] theorem idConflict_access :
    (∀ (i' : Fin Config.clientCount), (idConflict s).client i' = s.client i') ∧
    (∀ (d' : Dir), (idConflict s).shareDir d' = s.shareDir d') ∧
    (∀ (d' : Dir) (i' : Fin Config.clientCount), (idConflict s).grant d' i' = s.grant d' i') ∧
    (∀ (k' : Fin Config.peerSlots), (idConflict s).slot k' = s.slot k') ∧
    (∀ (k' : Fin Config.watchCount), (idConflict s).watch k' = s.watch k') := by
  simp [State.client, State.shareDir, State.grant, State.slot, State.watch, State.started]

@[simp] theorem idConflict_cfg : (idConflict s).mp.cfg = s.mp.cfg :=
  MaintPort.cfg_of_noFlags (by simp)

@[simp] theorem idConflict_flags {m : Nat} (h : s.mp.flags.getLsbD m = true) :
    (idConflict s).mp.flags.getLsbD m = true := by
  unfold idConflict; try dsimp only
  (repeat' split) <;> simp [h]

end

/-! ## enterLineFault -/

section
variable (s : State)

@[simp] theorem enterLineFault_frame :
    (enterLineFault s).tb = s.tb ∧ (enterLineFault s).se = s.se ∧ (enterLineFault s).pt = s.pt ∧
    (enterLineFault s).ct = s.ct ∧ (enterLineFault s).me = s.me ∧ (enterLineFault s).wu = s.wu ∧
    (enterLineFault s).lw = s.lw ∧ (enterLineFault s).mc = s.mc ∧ (enterLineFault s).mem = s.mem ∧
    (enterLineFault s).composition = s.composition ∧ (enterLineFault s).resetLow = s.resetLow ∧
    (enterLineFault s).freeDraws = s.freeDraws ∧ (enterLineFault s).pending = s.pending ∧
    (enterLineFault s).mp.noFlags = s.mp.noFlags := by
  unfold enterLineFault; try dsimp only
  (repeat' split) <;> simp

@[simp] theorem enterLineFault_access :
    (∀ (i' : Fin Config.clientCount), (enterLineFault s).client i' = s.client i') ∧
    (∀ (d' : Dir), (enterLineFault s).shareDir d' = s.shareDir d') ∧
    (∀ (d' : Dir) (i' : Fin Config.clientCount), (enterLineFault s).grant d' i' = s.grant d' i') ∧
    (∀ (k' : Fin Config.peerSlots), (enterLineFault s).slot k' = s.slot k') ∧
    (∀ (k' : Fin Config.watchCount), (enterLineFault s).watch k' = s.watch k') := by
  simp [State.client, State.shareDir, State.grant, State.slot, State.watch, State.started]

@[simp] theorem enterLineFault_cfg : (enterLineFault s).mp.cfg = s.mp.cfg :=
  MaintPort.cfg_of_noFlags (by simp)

@[simp] theorem enterLineFault_flags {m : Nat} (h : s.mp.flags.getLsbD m = true) :
    (enterLineFault s).mp.flags.getLsbD m = true := by
  unfold enterLineFault; try dsimp only
  (repeat' split) <;> simp [h]

end

/-! ## restoreStation -/

section
variable (s : State)

@[simp] theorem restoreStation_frame :
    (restoreStation s).tb = s.tb ∧ (restoreStation s).se = s.se ∧ (restoreStation s).ct = s.ct ∧
    (restoreStation s).me = s.me ∧ (restoreStation s).wu = s.wu ∧ (restoreStation s).lw = s.lw ∧
    (restoreStation s).mc = s.mc ∧ (restoreStation s).mem = s.mem ∧
    (restoreStation s).composition = s.composition ∧ (restoreStation s).resetLow = s.resetLow ∧
    (restoreStation s).freeDraws = s.freeDraws ∧ (restoreStation s).pending = s.pending ∧
    (restoreStation s).mp.noFlags = s.mp.noFlags := by
  unfold restoreStation; try dsimp only
  (repeat' split) <;> simp

@[simp] theorem restoreStation_access :
    (∀ (i' : Fin Config.clientCount), (restoreStation s).client i' = s.client i') ∧
    (∀ (d' : Dir), (restoreStation s).shareDir d' = s.shareDir d') ∧
    (∀ (d' : Dir) (i' : Fin Config.clientCount), (restoreStation s).grant d' i' = s.grant d' i') ∧
    (∀ (k' : Fin Config.watchCount), (restoreStation s).watch k' = s.watch k') := by
  simp [State.client, State.shareDir, State.grant, State.slot, State.watch, State.started]

@[simp] theorem restoreStation_cfg : (restoreStation s).mp.cfg = s.mp.cfg :=
  MaintPort.cfg_of_noFlags (by simp)

@[simp] theorem restoreStation_flags {m : Nat} (h : s.mp.flags.getLsbD m = true) :
    (restoreStation s).mp.flags.getLsbD m = true := by
  unfold restoreStation; try dsimp only
  (repeat' split) <;> simp [h]

end

/-! ## deliverNotice -/

section
variable (n : Notice)
variable (s : State)

@[simp] theorem deliverNotice_frame :
    (deliverNotice n s).tb = s.tb ∧ (deliverNotice n s).se = s.se ∧ (deliverNotice n s).ct = s.ct ∧
    (deliverNotice n s).me = s.me ∧ (deliverNotice n s).wu = s.wu ∧ (deliverNotice n s).mem = s.mem ∧
    (deliverNotice n s).composition = s.composition ∧ (deliverNotice n s).resetLow = s.resetLow ∧
    (deliverNotice n s).freeDraws = s.freeDraws ∧ (deliverNotice n s).pending = s.pending ∧
    (deliverNotice n s).mp.noFlags = s.mp.noFlags := by
  unfold deliverNotice; try dsimp only
  (repeat' split) <;> simp

@[simp] theorem deliverNotice_access :
    (∀ (i' : Fin Config.clientCount), (deliverNotice n s).client i' = s.client i') ∧
    (∀ (d' : Dir), (deliverNotice n s).shareDir d' = s.shareDir d') ∧
    (∀ (d' : Dir) (i' : Fin Config.clientCount), (deliverNotice n s).grant d' i' = s.grant d' i') ∧
    (∀ (k' : Fin Config.watchCount), (deliverNotice n s).watch k' = s.watch k') := by
  simp [State.client, State.shareDir, State.grant, State.slot, State.watch, State.started]

@[simp] theorem deliverNotice_cfg : (deliverNotice n s).mp.cfg = s.mp.cfg :=
  MaintPort.cfg_of_noFlags (by simp)

@[simp] theorem deliverNotice_flags {m : Nat} (h : s.mp.flags.getLsbD m = true) :
    (deliverNotice n s).mp.flags.getLsbD m = true := by
  unfold deliverNotice; try dsimp only
  (repeat' split) <;> simp [h]

end

/-! ## judgeReceived -/

section
variable (b : Byte)
variable (s : State)

@[simp] theorem judgeReceived_frame :
    (judgeReceived b s).tb = s.tb ∧ (judgeReceived b s).se = s.se ∧ (judgeReceived b s).ct = s.ct ∧
    (judgeReceived b s).me = s.me ∧ (judgeReceived b s).wu = s.wu ∧ (judgeReceived b s).mem = s.mem ∧
    (judgeReceived b s).composition = s.composition ∧ (judgeReceived b s).resetLow = s.resetLow ∧
    (judgeReceived b s).freeDraws = s.freeDraws ∧ (judgeReceived b s).pending = s.pending ∧
    (judgeReceived b s).mp.noFlags = s.mp.noFlags := by
  unfold judgeReceived; try dsimp only
  (repeat' split) <;> simp

@[simp] theorem judgeReceived_access :
    (∀ (i' : Fin Config.clientCount), (judgeReceived b s).client i' = s.client i') ∧
    (∀ (d' : Dir), (judgeReceived b s).shareDir d' = s.shareDir d') ∧
    (∀ (d' : Dir) (i' : Fin Config.clientCount), (judgeReceived b s).grant d' i' = s.grant d' i') ∧
    (∀ (k' : Fin Config.watchCount), (judgeReceived b s).watch k' = s.watch k') := by
  simp [State.client, State.shareDir, State.grant, State.slot, State.watch, State.started]

@[simp] theorem judgeReceived_cfg : (judgeReceived b s).mp.cfg = s.mp.cfg :=
  MaintPort.cfg_of_noFlags (by simp)

@[simp] theorem judgeReceived_flags {m : Nat} (h : s.mp.flags.getLsbD m = true) :
    (judgeReceived b s).mp.flags.getLsbD m = true := by
  unfold judgeReceived; try dsimp only
  (repeat' split) <;> simp [h]

end

/-! ## receiveByte -/

section
variable (b : Byte)
variable (s : State)

@[simp] theorem receiveByte_frame :
    (receiveByte b s).tb = s.tb ∧ (receiveByte b s).se = s.se ∧ (receiveByte b s).ct = s.ct ∧
    (receiveByte b s).me = s.me ∧ (receiveByte b s).wu = s.wu ∧ (receiveByte b s).mem = s.mem ∧
    (receiveByte b s).composition = s.composition ∧ (receiveByte b s).resetLow = s.resetLow ∧
    (receiveByte b s).freeDraws = s.freeDraws ∧ (receiveByte b s).pending = s.pending ∧
    (receiveByte b s).mp.noFlags = s.mp.noFlags := by
  unfold receiveByte; try dsimp only
  (repeat' split) <;> simp

@[simp] theorem receiveByte_access :
    (∀ (i' : Fin Config.clientCount), (receiveByte b s).client i' = s.client i') ∧
    (∀ (d' : Dir), (receiveByte b s).shareDir d' = s.shareDir d') ∧
    (∀ (d' : Dir) (i' : Fin Config.clientCount), (receiveByte b s).grant d' i' = s.grant d' i') ∧
    (∀ (k' : Fin Config.watchCount), (receiveByte b s).watch k' = s.watch k') := by
  simp [State.client, State.shareDir, State.grant, State.slot, State.watch, State.started]

@[simp] theorem receiveByte_cfg : (receiveByte b s).mp.cfg = s.mp.cfg :=
  MaintPort.cfg_of_noFlags (by simp)

@[simp] theorem receiveByte_flags {m : Nat} (h : s.mp.flags.getLsbD m = true) :
    (receiveByte b s).mp.flags.getLsbD m = true := by
  unfold receiveByte; try dsimp only
  (repeat' split) <;> simp [h]

end

/-! ## receiveCheck -/

section
variable (b : Byte)
variable (s : State)

@[simp] theorem receiveCheck_frame :
    (receiveCheck b s).tb = s.tb ∧ (receiveCheck b s).se = s.se ∧ (receiveCheck b s).ct = s.ct ∧
    (receiveCheck b s).me = s.me ∧ (receiveCheck b s).wu = s.wu ∧ (receiveCheck b s).mem = s.mem ∧
    (receiveCheck b s).composition = s.composition ∧ (receiveCheck b s).resetLow = s.resetLow ∧
    (receiveCheck b s).freeDraws = s.freeDraws ∧ (receiveCheck b s).pending = s.pending ∧
    (receiveCheck b s).mp.noFlags = s.mp.noFlags := by
  unfold receiveCheck; try dsimp only
  (repeat' split) <;> simp

@[simp] theorem receiveCheck_access :
    (∀ (i' : Fin Config.clientCount), (receiveCheck b s).client i' = s.client i') ∧
    (∀ (d' : Dir), (receiveCheck b s).shareDir d' = s.shareDir d') ∧
    (∀ (d' : Dir) (i' : Fin Config.clientCount), (receiveCheck b s).grant d' i' = s.grant d' i') ∧
    (∀ (k' : Fin Config.watchCount), (receiveCheck b s).watch k' = s.watch k') := by
  simp [State.client, State.shareDir, State.grant, State.slot, State.watch, State.started]

@[simp] theorem receiveCheck_cfg : (receiveCheck b s).mp.cfg = s.mp.cfg :=
  MaintPort.cfg_of_noFlags (by simp)

@[simp] theorem receiveCheck_flags {m : Nat} (h : s.mp.flags.getLsbD m = true) :
    (receiveCheck b s).mp.flags.getLsbD m = true := by
  unfold receiveCheck; try dsimp only
  (repeat' split) <;> simp [h]

end

/-! ## completePass -/

section
variable (n : Snapshot)
variable (s : State)

@[simp] theorem completePass_frame :
    (completePass n s).pt = s.pt ∧ (completePass n s).ct = s.ct ∧ (completePass n s).me = s.me ∧
    (completePass n s).wu = s.wu ∧ (completePass n s).lw = s.lw ∧ (completePass n s).mc = s.mc ∧
    (completePass n s).mem = s.mem ∧ (completePass n s).composition = s.composition ∧
    (completePass n s).resetLow = s.resetLow ∧ (completePass n s).freeDraws = s.freeDraws ∧
    (completePass n s).pending = s.pending ∧ (completePass n s).mp.noFlags = s.mp.noFlags := by
  unfold completePass; try dsimp only
  (repeat' split) <;> simp

@[simp] theorem completePass_access :
    (∀ (i' : Fin Config.clientCount), (completePass n s).client i' = s.client i') ∧
    (∀ (d' : Dir) (i' : Fin Config.clientCount), (completePass n s).grant d' i' = s.grant d' i') ∧
    (∀ (k' : Fin Config.peerSlots), (completePass n s).slot k' = s.slot k') ∧
    (∀ (k' : Fin Config.watchCount), (completePass n s).watch k' = s.watch k') := by
  simp [State.client, State.shareDir, State.grant, State.slot, State.watch, State.started]

@[simp] theorem completePass_cfg : (completePass n s).mp.cfg = s.mp.cfg :=
  MaintPort.cfg_of_noFlags (by simp)

@[simp] theorem completePass_flags {m : Nat} (h : s.mp.flags.getLsbD m = true) :
    (completePass n s).mp.flags.getLsbD m = true := by
  unfold completePass; try dsimp only
  (repeat' split) <;> simp [h]

end

/-! ## publishPass -/

section
variable (n : Snapshot)
variable (s : State)

/-- The three cases of a publish, with the direction's result held opaque. -/
theorem publishPass_cases : publishPass n s = s ∨
    (∃ a, a = publishDir .up n s ∧ publishPass n s = { a with se := { a.se with pass := .passDown } }) ∨
    ∃ a, a = publishDir .down n s ∧ publishPass n s = completePass n a := by
  unfold publishPass
  split
  · exact Or.inl rfl
  · exact Or.inr (Or.inl ⟨_, rfl, rfl⟩)
  · exact Or.inr (Or.inr ⟨_, rfl, rfl⟩)

@[simp] theorem publishPass_frame :
    (publishPass n s).pt = s.pt ∧ (publishPass n s).me = s.me ∧ (publishPass n s).wu = s.wu ∧
    (publishPass n s).lw = s.lw ∧ (publishPass n s).mc = s.mc ∧ (publishPass n s).mem = s.mem ∧
    (publishPass n s).composition = s.composition ∧ (publishPass n s).resetLow = s.resetLow ∧
    (publishPass n s).freeDraws = s.freeDraws ∧ (publishPass n s).pending = s.pending ∧
    (publishPass n s).mp.noFlags = s.mp.noFlags := by
  rcases publishPass_cases n s with h0 | ⟨a, ha, h0⟩ | ⟨a, ha, h0⟩
  · simp [h0]
  · have f := publishDir_frame .up n s
    rw [← ha] at f; rw [h0]; simp [f]
  · have f := publishDir_frame .down n s
    rw [← ha] at f; rw [h0]; simp [f]

@[simp] theorem publishPass_access :
    (∀ (k' : Fin Config.peerSlots), (publishPass n s).slot k' = s.slot k') ∧
    (∀ (k' : Fin Config.watchCount), (publishPass n s).watch k' = s.watch k') := by
  simp [State.client, State.shareDir, State.grant, State.slot, State.watch, State.started]

@[simp] theorem publishPass_cfg : (publishPass n s).mp.cfg = s.mp.cfg :=
  MaintPort.cfg_of_noFlags (by simp)

@[simp] theorem publishPass_flags {m : Nat} (h : s.mp.flags.getLsbD m = true) :
    (publishPass n s).mp.flags.getLsbD m = true := by
  rcases publishPass_cases n s with h0 | ⟨a, ha, h0⟩ | ⟨a, ha, h0⟩
  · simp [h0, h]
  · have f := publishDir_frame .up n s
    rw [← ha] at f; rw [h0]; simp [f, h]
  · have f := publishDir_frame .down n s
    rw [← ha] at f; rw [h0]; simp [f, h]

end

/-! ## countVerdict -/

section
variable (v : Delivery) (k : Fin Config.watchCount)
variable (s : State)

@[simp] theorem countVerdict_frame :
    (countVerdict v k s).tb = s.tb ∧ (countVerdict v k s).se = s.se ∧ (countVerdict v k s).pt = s.pt ∧
    (countVerdict v k s).li = s.li ∧ (countVerdict v k s).ct = s.ct ∧ (countVerdict v k s).me = s.me ∧
    (countVerdict v k s).lw = s.lw ∧ (countVerdict v k s).mc = s.mc ∧ (countVerdict v k s).mem = s.mem ∧
    (countVerdict v k s).composition = s.composition ∧ (countVerdict v k s).resetLow = s.resetLow ∧
    (countVerdict v k s).freeDraws = s.freeDraws ∧ (countVerdict v k s).pending = s.pending ∧
    (countVerdict v k s).mp.noFlags = s.mp.noFlags := by
  unfold countVerdict; try dsimp only
  (repeat' split) <;> simp

@[simp] theorem countVerdict_access :
    (∀ (i' : Fin Config.clientCount), (countVerdict v k s).client i' = s.client i') ∧
    (∀ (d' : Dir), (countVerdict v k s).shareDir d' = s.shareDir d') ∧
    (∀ (d' : Dir) (i' : Fin Config.clientCount), (countVerdict v k s).grant d' i' = s.grant d' i') ∧
    (∀ (k' : Fin Config.peerSlots), (countVerdict v k s).slot k' = s.slot k') ∧
    (countVerdict v k s).started = s.started := by
  simp [State.client, State.shareDir, State.grant, State.slot, State.watch, State.started]

@[simp] theorem countVerdict_cfg : (countVerdict v k s).mp.cfg = s.mp.cfg :=
  MaintPort.cfg_of_noFlags (by simp)

@[simp] theorem countVerdict_flags {m : Nat} (h : s.mp.flags.getLsbD m = true) :
    (countVerdict v k s).mp.flags.getLsbD m = true := by
  unfold countVerdict; try dsimp only
  (repeat' split) <;> simp [h]

end

/-! ## countOthers -/

section
variable (v : Delivery) (ts ks : List (Fin Config.watchCount))
variable (s : State)

@[simp] theorem countOthers_frame :
    (countOthers v ts ks s).tb = s.tb ∧ (countOthers v ts ks s).se = s.se ∧ (countOthers v ts ks s).pt = s.pt ∧
    (countOthers v ts ks s).li = s.li ∧ (countOthers v ts ks s).ct = s.ct ∧ (countOthers v ts ks s).me = s.me ∧
    (countOthers v ts ks s).lw = s.lw ∧ (countOthers v ts ks s).mc = s.mc ∧ (countOthers v ts ks s).mem = s.mem
    ∧ (countOthers v ts ks s).composition = s.composition ∧ (countOthers v ts ks s).resetLow = s.resetLow ∧
    (countOthers v ts ks s).freeDraws = s.freeDraws ∧ (countOthers v ts ks s).pending = s.pending ∧
    (countOthers v ts ks s).mp.noFlags = s.mp.noFlags := by
  induction ks generalizing s with
  | nil => simp [countOthers]
  | cons a rest ih => simp only [countOthers]; (repeat' split) <;> simp [ih]

@[simp] theorem countOthers_access :
    (∀ (i' : Fin Config.clientCount), (countOthers v ts ks s).client i' = s.client i') ∧
    (∀ (d' : Dir), (countOthers v ts ks s).shareDir d' = s.shareDir d') ∧
    (∀ (d' : Dir) (i' : Fin Config.clientCount), (countOthers v ts ks s).grant d' i' = s.grant d' i') ∧
    (∀ (k' : Fin Config.peerSlots), (countOthers v ts ks s).slot k' = s.slot k') ∧
    (countOthers v ts ks s).started = s.started := by
  simp [State.client, State.shareDir, State.grant, State.slot, State.watch, State.started]

@[simp] theorem countOthers_cfg : (countOthers v ts ks s).mp.cfg = s.mp.cfg :=
  MaintPort.cfg_of_noFlags (by simp)

@[simp] theorem countOthers_flags {m : Nat} (h : s.mp.flags.getLsbD m = true) :
    (countOthers v ts ks s).mp.flags.getLsbD m = true := by
  induction ks generalizing s with
  | nil => exact h
  | cons a rest ih => simp only [countOthers]; (repeat' split) <;> simp [ih, h]

end

/-! ## restartTraced -/

section
variable (ks : List (Fin Config.watchCount))
variable (s : State)

@[simp] theorem restartTraced_frame :
    (restartTraced ks s).tb = s.tb ∧ (restartTraced ks s).se = s.se ∧ (restartTraced ks s).pt = s.pt ∧
    (restartTraced ks s).li = s.li ∧ (restartTraced ks s).ct = s.ct ∧ (restartTraced ks s).me = s.me ∧
    (restartTraced ks s).lw = s.lw ∧ (restartTraced ks s).mc = s.mc ∧ (restartTraced ks s).mp = s.mp ∧
    (restartTraced ks s).mem = s.mem ∧ (restartTraced ks s).composition = s.composition ∧
    (restartTraced ks s).resetLow = s.resetLow ∧ (restartTraced ks s).freeDraws = s.freeDraws ∧
    (restartTraced ks s).pending = s.pending := by
  induction ks generalizing s with
  | nil => simp [restartTraced]
  | cons a rest ih => simp only [restartTraced]; (repeat' split) <;> simp [ih]

@[simp] theorem restartTraced_access :
    (∀ (i' : Fin Config.clientCount), (restartTraced ks s).client i' = s.client i') ∧
    (∀ (d' : Dir), (restartTraced ks s).shareDir d' = s.shareDir d') ∧
    (∀ (d' : Dir) (i' : Fin Config.clientCount), (restartTraced ks s).grant d' i' = s.grant d' i') ∧
    (∀ (k' : Fin Config.peerSlots), (restartTraced ks s).slot k' = s.slot k') ∧
    (restartTraced ks s).started = s.started := by
  simp [State.client, State.shareDir, State.grant, State.slot, State.watch, State.started]

end

/-! ## deliverVerdict -/

section
variable (v : Delivery)
variable (s : State)

@[simp] theorem deliverVerdict_frame :
    (deliverVerdict v s).tb = s.tb ∧ (deliverVerdict v s).se = s.se ∧ (deliverVerdict v s).pt = s.pt ∧
    (deliverVerdict v s).li = s.li ∧ (deliverVerdict v s).ct = s.ct ∧ (deliverVerdict v s).me = s.me ∧
    (deliverVerdict v s).mem = s.mem ∧ (deliverVerdict v s).composition = s.composition ∧
    (deliverVerdict v s).resetLow = s.resetLow ∧ (deliverVerdict v s).freeDraws = s.freeDraws ∧
    (deliverVerdict v s).pending = s.pending ∧ (deliverVerdict v s).mp.noFlags = s.mp.noFlags := by
  unfold deliverVerdict; try dsimp only
  (repeat' split) <;> simp

@[simp] theorem deliverVerdict_access :
    (∀ (i' : Fin Config.clientCount), (deliverVerdict v s).client i' = s.client i') ∧
    (∀ (d' : Dir), (deliverVerdict v s).shareDir d' = s.shareDir d') ∧
    (∀ (d' : Dir) (i' : Fin Config.clientCount), (deliverVerdict v s).grant d' i' = s.grant d' i') ∧
    (∀ (k' : Fin Config.peerSlots), (deliverVerdict v s).slot k' = s.slot k') ∧
    (deliverVerdict v s).started = s.started := by
  simp [State.client, State.shareDir, State.grant, State.slot, State.watch, State.started]

@[simp] theorem deliverVerdict_cfg : (deliverVerdict v s).mp.cfg = s.mp.cfg :=
  MaintPort.cfg_of_noFlags (by simp)

@[simp] theorem deliverVerdict_flags {m : Nat} (h : s.mp.flags.getLsbD m = true) :
    (deliverVerdict v s).mp.flags.getLsbD m = true := by
  unfold deliverVerdict; try dsimp only
  (repeat' split) <;> simp [h]

end

/-! ## clearOverflow -/

section
variable (v : Word) (ks : List (Fin Config.watchCount))
variable (s : State)

@[simp] theorem clearOverflow_frame :
    (clearOverflow v ks s).tb = s.tb ∧ (clearOverflow v ks s).se = s.se ∧ (clearOverflow v ks s).pt = s.pt ∧
    (clearOverflow v ks s).li = s.li ∧ (clearOverflow v ks s).ct = s.ct ∧ (clearOverflow v ks s).me = s.me ∧
    (clearOverflow v ks s).lw = s.lw ∧ (clearOverflow v ks s).mc = s.mc ∧ (clearOverflow v ks s).mp = s.mp ∧
    (clearOverflow v ks s).mem = s.mem ∧ (clearOverflow v ks s).composition = s.composition ∧
    (clearOverflow v ks s).resetLow = s.resetLow ∧ (clearOverflow v ks s).freeDraws = s.freeDraws ∧
    (clearOverflow v ks s).pending = s.pending := by
  induction ks generalizing s with
  | nil => simp [clearOverflow]
  | cons a rest ih => simp only [clearOverflow]; (repeat' split) <;> simp [ih]

@[simp] theorem clearOverflow_access :
    (∀ (i' : Fin Config.clientCount), (clearOverflow v ks s).client i' = s.client i') ∧
    (∀ (d' : Dir), (clearOverflow v ks s).shareDir d' = s.shareDir d') ∧
    (∀ (d' : Dir) (i' : Fin Config.clientCount), (clearOverflow v ks s).grant d' i' = s.grant d' i') ∧
    (∀ (k' : Fin Config.peerSlots), (clearOverflow v ks s).slot k' = s.slot k') ∧
    (clearOverflow v ks s).started = s.started := by
  simp [State.client, State.shareDir, State.grant, State.slot, State.watch, State.started]

end

/-! ## refuseRequest -/

section
variable (o : RspOutcome) (r : Request)
variable (s : State)

@[simp] theorem refuseRequest_frame :
    (refuseRequest o r s).tb = s.tb ∧ (refuseRequest o r s).se = s.se ∧ (refuseRequest o r s).pt = s.pt ∧
    (refuseRequest o r s).li = s.li ∧ (refuseRequest o r s).ct = s.ct ∧ (refuseRequest o r s).wu = s.wu ∧
    (refuseRequest o r s).lw = s.lw ∧ (refuseRequest o r s).mc = s.mc ∧ (refuseRequest o r s).mp = s.mp ∧
    (refuseRequest o r s).mem = s.mem ∧ (refuseRequest o r s).composition = s.composition ∧
    (refuseRequest o r s).resetLow = s.resetLow ∧ (refuseRequest o r s).freeDraws = s.freeDraws ∧
    (refuseRequest o r s).pending = s.pending := by
  unfold refuseRequest; try dsimp only
  (repeat' split) <;> simp

@[simp] theorem refuseRequest_access :
    (∀ (i' : Fin Config.clientCount), (refuseRequest o r s).client i' = s.client i') ∧
    (∀ (d' : Dir), (refuseRequest o r s).shareDir d' = s.shareDir d') ∧
    (∀ (d' : Dir) (i' : Fin Config.clientCount), (refuseRequest o r s).grant d' i' = s.grant d' i') ∧
    (∀ (k' : Fin Config.peerSlots), (refuseRequest o r s).slot k' = s.slot k') ∧
    (∀ (k' : Fin Config.watchCount), (refuseRequest o r s).watch k' = s.watch k') ∧
    (refuseRequest o r s).started = s.started := by
  simp [State.client, State.shareDir, State.grant, State.slot, State.watch, State.started]

end

/-! ## presentRequest -/

section
variable (r : Request)
variable (s : State)

@[simp] theorem presentRequest_frame :
    (presentRequest r s).tb = s.tb ∧ (presentRequest r s).se = s.se ∧ (presentRequest r s).pt = s.pt ∧
    (presentRequest r s).li = s.li ∧ (presentRequest r s).ct = s.ct ∧ (presentRequest r s).wu = s.wu ∧
    (presentRequest r s).lw = s.lw ∧ (presentRequest r s).mc = s.mc ∧ (presentRequest r s).mp = s.mp ∧
    (presentRequest r s).mem = s.mem ∧ (presentRequest r s).composition = s.composition ∧
    (presentRequest r s).resetLow = s.resetLow ∧ (presentRequest r s).freeDraws = s.freeDraws ∧
    (presentRequest r s).pending = s.pending := by
  unfold presentRequest; try dsimp only
  (repeat' split) <;> simp

@[simp] theorem presentRequest_access :
    (∀ (i' : Fin Config.clientCount), (presentRequest r s).client i' = s.client i') ∧
    (∀ (d' : Dir), (presentRequest r s).shareDir d' = s.shareDir d') ∧
    (∀ (d' : Dir) (i' : Fin Config.clientCount), (presentRequest r s).grant d' i' = s.grant d' i') ∧
    (∀ (k' : Fin Config.peerSlots), (presentRequest r s).slot k' = s.slot k') ∧
    (∀ (k' : Fin Config.watchCount), (presentRequest r s).watch k' = s.watch k') ∧
    (presentRequest r s).started = s.started := by
  simp [State.client, State.shareDir, State.grant, State.slot, State.watch, State.started]

end

/-! ## completeRecord -/

section
variable (bytes : List Byte)
variable (s : State)

@[simp] theorem completeRecord_frame :
    (completeRecord bytes s).tb = s.tb ∧ (completeRecord bytes s).se = s.se ∧ (completeRecord bytes s).pt = s.pt
    ∧ (completeRecord bytes s).li = s.li ∧ (completeRecord bytes s).ct = s.ct ∧
    (completeRecord bytes s).wu = s.wu ∧ (completeRecord bytes s).lw = s.lw ∧ (completeRecord bytes s).mc = s.mc
    ∧ (completeRecord bytes s).mp = s.mp ∧ (completeRecord bytes s).mem = s.mem ∧
    (completeRecord bytes s).composition = s.composition ∧ (completeRecord bytes s).resetLow = s.resetLow ∧
    (completeRecord bytes s).freeDraws = s.freeDraws ∧ (completeRecord bytes s).pending = s.pending := by
  unfold completeRecord; try dsimp only
  (repeat' split) <;> simp

@[simp] theorem completeRecord_access :
    (∀ (i' : Fin Config.clientCount), (completeRecord bytes s).client i' = s.client i') ∧
    (∀ (d' : Dir), (completeRecord bytes s).shareDir d' = s.shareDir d') ∧
    (∀ (d' : Dir) (i' : Fin Config.clientCount), (completeRecord bytes s).grant d' i' = s.grant d' i') ∧
    (∀ (k' : Fin Config.peerSlots), (completeRecord bytes s).slot k' = s.slot k') ∧
    (∀ (k' : Fin Config.watchCount), (completeRecord bytes s).watch k' = s.watch k') ∧
    (completeRecord bytes s).started = s.started := by
  simp [State.client, State.shareDir, State.grant, State.slot, State.watch, State.started]

end

/-! ## capClient -/

section
variable (i : Fin Config.clientCount)
variable (s : State)

@[simp] theorem capClient_frame :
    (capClient i s).tb = s.tb ∧ (capClient i s).pt = s.pt ∧ (capClient i s).li = s.li ∧
    (capClient i s).me = s.me ∧ (capClient i s).wu = s.wu ∧ (capClient i s).mem = s.mem ∧
    (capClient i s).composition = s.composition ∧ (capClient i s).resetLow = s.resetLow ∧
    (capClient i s).freeDraws = s.freeDraws ∧ (capClient i s).pending = s.pending ∧
    (capClient i s).mp.noFlags = s.mp.noFlags := by
  unfold capClient; try dsimp only
  (repeat' split) <;> simp

@[simp] theorem capClient_access :
    (∀ (k' : Fin Config.peerSlots), (capClient i s).slot k' = s.slot k') ∧
    (∀ (k' : Fin Config.watchCount), (capClient i s).watch k' = s.watch k') ∧
    (capClient i s).started = s.started := by
  simp [State.client, State.shareDir, State.grant, State.slot, State.watch, State.started]

@[simp] theorem capClient_cfg : (capClient i s).mp.cfg = s.mp.cfg :=
  MaintPort.cfg_of_noFlags (by simp)

@[simp] theorem capClient_flags {m : Nat} (h : s.mp.flags.getLsbD m = true) :
    (capClient i s).mp.flags.getLsbD m = true := by
  unfold capClient; try dsimp only
  (repeat' split) <;> simp [h]

end

/-! ## countVolume -/

section
variable (i : Fin Config.clientCount) (n : Nat) (v : Verdict) (y : Reason)
variable (s : State)

@[simp] theorem countVolume_frame :
    (countVolume i n v y s).tb = s.tb ∧ (countVolume i n v y s).pt = s.pt ∧ (countVolume i n v y s).li = s.li ∧
    (countVolume i n v y s).me = s.me ∧ (countVolume i n v y s).wu = s.wu ∧ (countVolume i n v y s).mem = s.mem
    ∧ (countVolume i n v y s).composition = s.composition ∧ (countVolume i n v y s).resetLow = s.resetLow ∧
    (countVolume i n v y s).freeDraws = s.freeDraws ∧ (countVolume i n v y s).pending = s.pending ∧
    (countVolume i n v y s).mp.noFlags = s.mp.noFlags := by
  unfold countVolume; try dsimp only
  (repeat' split) <;> simp

@[simp] theorem countVolume_access :
    (∀ (k' : Fin Config.peerSlots), (countVolume i n v y s).slot k' = s.slot k') ∧
    (∀ (k' : Fin Config.watchCount), (countVolume i n v y s).watch k' = s.watch k') ∧
    (countVolume i n v y s).started = s.started := by
  simp [State.client, State.shareDir, State.grant, State.slot, State.watch, State.started]

@[simp] theorem countVolume_cfg : (countVolume i n v y s).mp.cfg = s.mp.cfg :=
  MaintPort.cfg_of_noFlags (by simp)

@[simp] theorem countVolume_flags {m : Nat} (h : s.mp.flags.getLsbD m = true) :
    (countVolume i n v y s).mp.flags.getLsbD m = true := by
  unfold countVolume; try dsimp only
  (repeat' split) <;> simp [h]

end

/-! ## finishMeter -/

section
variable (r : Request) (d : Dir) (i : Fin Config.clientCount) (v : Verdict) (y : Reason) (g : Nat)
variable (s : State)

@[simp] theorem finishMeter_frame :
    (finishMeter r d i v y g s).tb = s.tb ∧ (finishMeter r d i v y g s).pt = s.pt ∧
    (finishMeter r d i v y g s).li = s.li ∧ (finishMeter r d i v y g s).mem = s.mem ∧
    (finishMeter r d i v y g s).composition = s.composition ∧ (finishMeter r d i v y g s).resetLow = s.resetLow
    ∧ (finishMeter r d i v y g s).freeDraws = s.freeDraws ∧ (finishMeter r d i v y g s).pending = s.pending ∧
    (finishMeter r d i v y g s).mp.noFlags = s.mp.noFlags := by
  unfold finishMeter; try dsimp only
  (repeat' split) <;> simp

@[simp] theorem finishMeter_access :
    (∀ (k' : Fin Config.peerSlots), (finishMeter r d i v y g s).slot k' = s.slot k') ∧
    (finishMeter r d i v y g s).started = s.started := by
  simp [State.client, State.shareDir, State.grant, State.slot, State.watch, State.started]

@[simp] theorem finishMeter_cfg : (finishMeter r d i v y g s).mp.cfg = s.mp.cfg :=
  MaintPort.cfg_of_noFlags (by simp)

@[simp] theorem finishMeter_flags {m : Nat} (h : s.mp.flags.getLsbD m = true) :
    (finishMeter r d i v y g s).mp.flags.getLsbD m = true := by
  unfold finishMeter; try dsimp only
  (repeat' split) <;> simp [h]

end

/-! ## meterShared -/

section
variable (r : Request) (d : Dir) (i : Fin Config.clientCount)
variable (s : State)

@[simp] theorem meterShared_frame :
    (meterShared r d i s).tb = s.tb ∧ (meterShared r d i s).pt = s.pt ∧ (meterShared r d i s).li = s.li ∧
    (meterShared r d i s).mem = s.mem ∧ (meterShared r d i s).composition = s.composition ∧
    (meterShared r d i s).resetLow = s.resetLow ∧ (meterShared r d i s).freeDraws = s.freeDraws ∧
    (meterShared r d i s).pending = s.pending ∧ (meterShared r d i s).mp.noFlags = s.mp.noFlags := by
  unfold meterShared; try dsimp only
  (repeat' split) <;> simp

@[simp] theorem meterShared_access :
    (∀ (k' : Fin Config.peerSlots), (meterShared r d i s).slot k' = s.slot k') ∧
    (meterShared r d i s).started = s.started := by
  simp [State.client, State.shareDir, State.grant, State.slot, State.watch, State.started]

@[simp] theorem meterShared_cfg : (meterShared r d i s).mp.cfg = s.mp.cfg :=
  MaintPort.cfg_of_noFlags (by simp)

@[simp] theorem meterShared_flags {m : Nat} (h : s.mp.flags.getLsbD m = true) :
    (meterShared r d i s).mp.flags.getLsbD m = true := by
  unfold meterShared; try dsimp only
  (repeat' split) <;> simp [h]

end

/-! ## meterActive -/

section
variable (r : Request) (d : Dir) (i : Fin Config.clientCount)
variable (s : State)

@[simp] theorem meterActive_frame :
    (meterActive r d i s).tb = s.tb ∧ (meterActive r d i s).pt = s.pt ∧ (meterActive r d i s).li = s.li ∧
    (meterActive r d i s).mem = s.mem ∧ (meterActive r d i s).composition = s.composition ∧
    (meterActive r d i s).resetLow = s.resetLow ∧ (meterActive r d i s).freeDraws = s.freeDraws ∧
    (meterActive r d i s).pending = s.pending ∧ (meterActive r d i s).mp.noFlags = s.mp.noFlags := by
  unfold meterActive; try dsimp only
  (repeat' split) <;> simp

@[simp] theorem meterActive_access :
    (∀ (k' : Fin Config.peerSlots), (meterActive r d i s).slot k' = s.slot k') ∧
    (meterActive r d i s).started = s.started := by
  simp [State.client, State.shareDir, State.grant, State.slot, State.watch, State.started]

@[simp] theorem meterActive_cfg : (meterActive r d i s).mp.cfg = s.mp.cfg :=
  MaintPort.cfg_of_noFlags (by simp)

@[simp] theorem meterActive_flags {m : Nat} (h : s.mp.flags.getLsbD m = true) :
    (meterActive r d i s).mp.flags.getLsbD m = true := by
  unfold meterActive; try dsimp only
  (repeat' split) <;> simp [h]

end

/-! ## meterEntry -/

section
variable (r : Request) (d : Dir) (i : Fin Config.clientCount)
variable (s : State)

@[simp] theorem meterEntry_frame :
    (meterEntry r d i s).tb = s.tb ∧ (meterEntry r d i s).pt = s.pt ∧ (meterEntry r d i s).li = s.li ∧
    (meterEntry r d i s).mem = s.mem ∧ (meterEntry r d i s).composition = s.composition ∧
    (meterEntry r d i s).resetLow = s.resetLow ∧ (meterEntry r d i s).freeDraws = s.freeDraws ∧
    (meterEntry r d i s).pending = s.pending ∧ (meterEntry r d i s).mp.noFlags = s.mp.noFlags := by
  unfold meterEntry; try dsimp only
  (repeat' split) <;> simp

@[simp] theorem meterEntry_access :
    (∀ (k' : Fin Config.peerSlots), (meterEntry r d i s).slot k' = s.slot k') ∧
    (meterEntry r d i s).started = s.started := by
  simp [State.client, State.shareDir, State.grant, State.slot, State.watch, State.started]

@[simp] theorem meterEntry_cfg : (meterEntry r d i s).mp.cfg = s.mp.cfg :=
  MaintPort.cfg_of_noFlags (by simp)

@[simp] theorem meterEntry_flags {m : Nat} (h : s.mp.flags.getLsbD m = true) :
    (meterEntry r d i s).mp.flags.getLsbD m = true := by
  unfold meterEntry; try dsimp only
  (repeat' split) <;> simp [h]

end

/-! ## attachClient -/

section
variable (i : Fin Config.clientCount) (t : Tier) (g : BitVec 3) (p : BitVec 12)
variable (s : State)

@[simp] theorem attachClient_frame :
    (attachClient i t g p s).1.tb = s.tb ∧ (attachClient i t g p s).1.pt = s.pt ∧
    (attachClient i t g p s).1.li = s.li ∧ (attachClient i t g p s).1.me = s.me ∧
    (attachClient i t g p s).1.wu = s.wu ∧ (attachClient i t g p s).1.lw = s.lw ∧
    (attachClient i t g p s).1.mc = s.mc ∧ (attachClient i t g p s).1.mp = s.mp ∧
    (attachClient i t g p s).1.mem = s.mem ∧ (attachClient i t g p s).1.composition = s.composition ∧
    (attachClient i t g p s).1.resetLow = s.resetLow ∧ (attachClient i t g p s).1.freeDraws = s.freeDraws ∧
    (attachClient i t g p s).1.pending = s.pending := by
  unfold attachClient; try dsimp only
  (repeat' split) <;> simp

@[simp] theorem attachClient_access :
    (∀ (k' : Fin Config.peerSlots), (attachClient i t g p s).1.slot k' = s.slot k') ∧
    (∀ (k' : Fin Config.watchCount), (attachClient i t g p s).1.watch k' = s.watch k') ∧
    (attachClient i t g p s).1.started = s.started := by
  simp [State.client, State.shareDir, State.grant, State.slot, State.watch, State.started]

end

/-! ## moveClient -/

section
variable (i : Fin Config.clientCount) (g : BitVec 3) (p : BitVec 12)
variable (s : State)

@[simp] theorem moveClient_frame :
    (moveClient i g p s).1.tb = s.tb ∧ (moveClient i g p s).1.se = s.se ∧ (moveClient i g p s).1.pt = s.pt ∧
    (moveClient i g p s).1.li = s.li ∧ (moveClient i g p s).1.me = s.me ∧ (moveClient i g p s).1.wu = s.wu ∧
    (moveClient i g p s).1.lw = s.lw ∧ (moveClient i g p s).1.mc = s.mc ∧ (moveClient i g p s).1.mp = s.mp ∧
    (moveClient i g p s).1.mem = s.mem ∧ (moveClient i g p s).1.composition = s.composition ∧
    (moveClient i g p s).1.resetLow = s.resetLow ∧ (moveClient i g p s).1.freeDraws = s.freeDraws ∧
    (moveClient i g p s).1.pending = s.pending := by
  unfold moveClient; try dsimp only
  (repeat' split) <;> simp

@[simp] theorem moveClient_access :
    (∀ (d' : Dir), (moveClient i g p s).1.shareDir d' = s.shareDir d') ∧
    (∀ (k' : Fin Config.peerSlots), (moveClient i g p s).1.slot k' = s.slot k') ∧
    (∀ (k' : Fin Config.watchCount), (moveClient i g p s).1.watch k' = s.watch k') ∧
    (moveClient i g p s).1.started = s.started := by
  simp [State.client, State.shareDir, State.grant, State.slot, State.watch, State.started]

end

/-! ## detachClient -/

section
variable (i : Fin Config.clientCount)
variable (s : State)

@[simp] theorem detachClient_frame :
    (detachClient i s).1.tb = s.tb ∧ (detachClient i s).1.pt = s.pt ∧ (detachClient i s).1.li = s.li ∧
    (detachClient i s).1.me = s.me ∧ (detachClient i s).1.wu = s.wu ∧ (detachClient i s).1.mem = s.mem ∧
    (detachClient i s).1.composition = s.composition ∧ (detachClient i s).1.resetLow = s.resetLow ∧
    (detachClient i s).1.freeDraws = s.freeDraws ∧ (detachClient i s).1.pending = s.pending ∧
    (detachClient i s).1.mp.noFlags = s.mp.noFlags := by
  unfold detachClient; try dsimp only
  (repeat' split) <;> simp

@[simp] theorem detachClient_access :
    (∀ (k' : Fin Config.peerSlots), (detachClient i s).1.slot k' = s.slot k') ∧
    (∀ (k' : Fin Config.watchCount), (detachClient i s).1.watch k' = s.watch k') ∧
    (detachClient i s).1.started = s.started := by
  simp [State.client, State.shareDir, State.grant, State.slot, State.watch, State.started]

@[simp] theorem detachClient_cfg : (detachClient i s).1.mp.cfg = s.mp.cfg :=
  MaintPort.cfg_of_noFlags (by simp)

@[simp] theorem detachClient_flags {m : Nat} (h : s.mp.flags.getLsbD m = true) :
    (detachClient i s).1.mp.flags.getLsbD m = true := by
  unfold detachClient; try dsimp only
  (repeat' split) <;> simp [h]

end

/-! ## flipOrAbsorb -/

section
variable (s : State)

@[simp] theorem flipOrAbsorb_frame :
    (flipOrAbsorb s).se = s.se ∧ (flipOrAbsorb s).pt = s.pt ∧ (flipOrAbsorb s).li = s.li ∧
    (flipOrAbsorb s).me = s.me ∧ (flipOrAbsorb s).wu = s.wu ∧ (flipOrAbsorb s).lw = s.lw ∧
    (flipOrAbsorb s).mc = s.mc ∧ (flipOrAbsorb s).mp = s.mp ∧ (flipOrAbsorb s).mem = s.mem ∧
    (flipOrAbsorb s).composition = s.composition ∧ (flipOrAbsorb s).resetLow = s.resetLow ∧
    (flipOrAbsorb s).freeDraws = s.freeDraws ∧ (flipOrAbsorb s).pending = s.pending := by
  unfold flipOrAbsorb; try dsimp only
  (repeat' split) <;> simp

@[simp] theorem flipOrAbsorb_access :
    (∀ (d' : Dir), (flipOrAbsorb s).shareDir d' = s.shareDir d') ∧
    (∀ (k' : Fin Config.peerSlots), (flipOrAbsorb s).slot k' = s.slot k') ∧
    (∀ (k' : Fin Config.watchCount), (flipOrAbsorb s).watch k' = s.watch k') ∧
    (flipOrAbsorb s).started = s.started := by
  simp [State.client, State.shareDir, State.grant, State.slot, State.watch, State.started]

end

/-! ## ageTable -/

section
variable (s : State)

@[simp] theorem ageTable_frame :
    (ageTable s).tb = s.tb ∧ (ageTable s).se = s.se ∧ (ageTable s).li = s.li ∧ (ageTable s).ct = s.ct ∧
    (ageTable s).me = s.me ∧ (ageTable s).wu = s.wu ∧ (ageTable s).mem = s.mem ∧
    (ageTable s).composition = s.composition ∧ (ageTable s).resetLow = s.resetLow ∧
    (ageTable s).freeDraws = s.freeDraws ∧ (ageTable s).pending = s.pending ∧
    (ageTable s).mp.noFlags = s.mp.noFlags := by
  unfold ageTable; try dsimp only
  (repeat' split) <;> simp

@[simp] theorem ageTable_access :
    (∀ (i' : Fin Config.clientCount), (ageTable s).client i' = s.client i') ∧
    (∀ (d' : Dir), (ageTable s).shareDir d' = s.shareDir d') ∧
    (∀ (d' : Dir) (i' : Fin Config.clientCount), (ageTable s).grant d' i' = s.grant d' i') ∧
    (∀ (k' : Fin Config.watchCount), (ageTable s).watch k' = s.watch k') ∧ (ageTable s).started = s.started := by
  simp [State.client, State.shareDir, State.grant, State.slot, State.watch, State.started]

@[simp] theorem ageTable_cfg : (ageTable s).mp.cfg = s.mp.cfg :=
  MaintPort.cfg_of_noFlags (by simp)

@[simp] theorem ageTable_flags {m : Nat} (h : s.mp.flags.getLsbD m = true) :
    (ageTable s).mp.flags.getLsbD m = true := by
  unfold ageTable; try dsimp only
  (repeat' split) <;> simp [h]

end

/-! ## takeExpiry -/

section
variable (s : State)

@[simp] theorem takeExpiry_frame :
    (takeExpiry s).se = s.se ∧ (takeExpiry s).me = s.me ∧ (takeExpiry s).wu = s.wu ∧ (takeExpiry s).mem = s.mem
    ∧ (takeExpiry s).composition = s.composition ∧ (takeExpiry s).resetLow = s.resetLow ∧
    (takeExpiry s).freeDraws = s.freeDraws ∧ (takeExpiry s).pending = s.pending ∧
    (takeExpiry s).mp.noFlags = s.mp.noFlags := by
  unfold takeExpiry; try dsimp only
  (repeat' split) <;> simp

@[simp] theorem takeExpiry_access :
    (∀ (d' : Dir), (takeExpiry s).shareDir d' = s.shareDir d') ∧
    (∀ (k' : Fin Config.watchCount), (takeExpiry s).watch k' = s.watch k') := by
  simp [State.client, State.shareDir, State.grant, State.slot, State.watch, State.started]

@[simp] theorem takeExpiry_cfg : (takeExpiry s).mp.cfg = s.mp.cfg :=
  MaintPort.cfg_of_noFlags (by simp)

@[simp] theorem takeExpiry_flags {m : Nat} (h : s.mp.flags.getLsbD m = true) :
    (takeExpiry s).mp.flags.getLsbD m = true := by
  unfold takeExpiry; try dsimp only
  (repeat' split) <;> simp [h]

end

/-! ## restartPart -/

section
variable (s : State)

@[simp] theorem restartPart_frame :
    (restartPart s).me = s.me ∧ (restartPart s).wu = s.wu ∧ (restartPart s).lw = s.lw ∧
    (restartPart s).mc = s.mc ∧ (restartPart s).mp = s.mp ∧ (restartPart s).mem = s.mem ∧
    (restartPart s).composition = s.composition ∧ (restartPart s).resetLow = s.resetLow ∧
    (restartPart s).freeDraws = s.freeDraws ∧ (restartPart s).pending = s.pending := by
  unfold restartPart; try dsimp only
  (repeat' split) <;> simp

@[simp] theorem restartPart_access :
    (∀ (k' : Fin Config.watchCount), (restartPart s).watch k' = s.watch k') := by
  simp [State.client, State.shareDir, State.grant, State.slot, State.watch, State.started]

end

end Sys2Proof.Machine
end

