-- ==== Sys2Proof/Laws/Bus.lean ====
section
/-! SUPPORT. The arbiter and the log writer, case by case: what a request finds, and what the writer takes. -/

namespace Sys2Proof.Machine

/-! ## Arbiter (R177) -/

theorem MemController.arbitrate_busy {m : MemController} (h : m.phase ≠ .idle) : m.arbitrate = m := by
  simp [MemController.arbitrate, h]

theorem MemController.arbitrate_log {m : MemController} (h : m.phase = .idle) (hl : m.logRequest.isSome = true) :
    m.arbitrate = m.grantLog := by
  simp [MemController.arbitrate, h, hl]

theorem MemController.arbitrate_window {m : MemController} {r : WindowRequest} (h : m.phase = .idle)
    (hl : m.logRequest = none) (hs : m.slot = some r) : m.arbitrate = m.grantWindow r := by
  simp [MemController.arbitrate, h, hl, hs]

theorem MemController.arbitrate_nothing {m : MemController} (hl : m.logRequest = none) (hs : m.slot = none) :
    m.arbitrate = m := by
  simp [MemController.arbitrate, hl, hs]

/-- Whoever is granted the bus has it out of IDLE. -/
theorem MemController.enter_phase (dir : AccessDir) (m : MemController) :
    (m.enter dir).phase = (if m.marker = dir then .setup else .turnaround) ∧ (m.enter dir).owner = m.owner ∧
      (m.enter dir).logRequest = m.logRequest ∧ (m.enter dir).slot = m.slot ∧ (m.enter dir).granted = m.granted ∧
      (m.enter dir).marker = m.marker ∧ (m.enter dir).ready = m.ready ∧ (m.enter dir).address = m.address ∧
      (m.enter dir).data = m.data ∧ (m.enter dir).timeout = m.timeout ∧ (m.enter dir).wordIndex = m.wordIndex := by
  unfold MemController.enter MemController.beginSetup
  split <;> simp_all

/-- Arbitration leaves the requests of the log writer, the window words and the latched data alone. -/
theorem MemController.arbitrate_frame (m : MemController) :
    m.arbitrate.logRequest = m.logRequest ∧ m.arbitrate.ready = m.ready ∧ m.arbitrate.address = m.address ∧
      m.arbitrate.data = m.data ∧ m.arbitrate.timeout = m.timeout ∧
      m.arbitrate.addressHolding = m.addressHolding ∧ m.arbitrate.sampled = m.sampled := by
  unfold MemController.arbitrate
  split
  · split
    · unfold MemController.grantLog MemController.enter MemController.beginSetup
      split <;> simp
    · split
      · unfold MemController.grantWindow MemController.enter MemController.beginSetup
        split <;> simp
      · simp
  · simp

/-! ## Log writer (R162, R164) -/

theorem takeFrom_full (r : Record) (rest : List Record) {s : State} (h : s.lw.index = s.mp.cfg.limit) :
    takeFrom (r :: rest) s = takeFrom rest (loseRecord s) := by
  simp [takeFrom, h]

theorem takeFrom_room (r : Record) (rest : List Record) {s : State} (h : s.lw.index ≠ s.mp.cfg.limit) :
    takeFrom (r :: rest) s =
      placeLogRequest ⟨s.lw.index, r.words⟩
        { s with lw := { s.lw with queue := rest, inFlight := some r, writer := .writing } } := by
  simp [takeFrom, h]

theorem offerRecord_writing (r : Record) {s : State} (h : s.lw.writer = .writing)
    (hq : s.lw.queue.length < Config.recordDepth) :
    offerRecord r s = { s with lw := { s.lw with queue := s.lw.queue ++ [r] } } := by
  simp [offerRecord, hq, writerTake, h]

theorem offerRecord_lost (r : Record) {s : State} (hq : Config.recordDepth ≤ s.lw.queue.length) :
    offerRecord r s = loseRecord s := by
  have : ¬ s.lw.queue.length < Config.recordDepth := by omega
  simp [offerRecord, this]

/-- An IDLE writer with nothing queued takes an offered record at once. -/
theorem offerRecord_idle (r : Record) {s : State} (h : s.lw.writer = .idle) (hq : s.lw.queue = []) :
    offerRecord r s = takeFrom [r] { s with lw := { s.lw with queue := [r] } } := by
  simp [offerRecord, writerTake, h, hq]

/-- After the writer has taken from a list it writes, or has nothing queued. -/
theorem takeFrom_writer (rs : List Record) (s : State) :
    (takeFrom rs s).lw.writer = .writing ∨
      ((takeFrom rs s).lw.queue = [] ∧ (takeFrom rs s).lw.writer = s.lw.writer) := by
  induction rs generalizing s with
  | nil => exact Or.inr ⟨rfl, rfl⟩
  | cons r rest ih =>
    by_cases h : s.lw.index = s.mp.cfg.limit
    · rw [takeFrom_full r rest h]; exact ih (loseRecord s)
    · rw [takeFrom_room r rest h]; exact Or.inl rfl

theorem Record.words_length (r : Record) : r.words.length = 16 := by simp [Record.words]

end Sys2Proof.Machine
end

