-- ==== Sys2Proof/Laws/Items.lean ====
section
/-! SUPPORT. The walk of an item list, item by item (R62, R72). -/

namespace Sys2Proof.Machine

/-- The direction context behind an item. -/
def ListItem.context (ctx : Dir) : ListItem → Dir
  | .dir d => d
  | _ => ctx

/-- The figures behind an item that stands in a context. -/
def ListItem.figures (ctx : Dir) (f : PerDir Figures) : ListItem → PerDir Figures
  | .dir _ => f
  | .load demand weight => f.set ctx { f.get ctx with demand := demand.toNat, weight := weight.toNat }
  | .reserve value => f.set ctx { f.get ctx with reserve := value.toNat }
  | .uplink value => f.set ctx { f.get ctx with uplink := value.toNat }

/-- What the walk holds behind a list of items. -/
def walked : Dir → PerDir Figures → List ListItem → Dir × PerDir Figures
  | ctx, f, [] => (ctx, f)
  | ctx, f, item :: rest => walked (item.context ctx) (item.figures ctx f) rest

theorem ofBytes_wordBytes (w : Word) : ofBytes (lowByte w) (highByte w) = w := by
  unfold ofBytes lowByte highByte
  ext k hk
  rw [BitVec.getElem_append]
  split
  · rw [BitVec.getElem_extractLsb']; simp [BitVec.getLsbD_eq_getElem hk]
  · rw [BitVec.getElem_extractLsb']; rw [BitVec.getLsbD_eq_getElem (by omega)]; congr 1; omega

/-- The walk over one item. -/
theorem walkItems_item (ctx : Dir) (f : PerDir Figures) (item : ListItem) (tail : List Byte) :
    walkItems ctx f (item.bytes ++ tail) = walkItems (item.context ctx) (item.figures ctx f) tail := by
  cases item with
  | dir d => cases d <;> simp [ListItem.bytes, ListItem.context, ListItem.figures, walkItems]
  | load _ _ | reserve _ | uplink _ =>
    simp [ListItem.bytes, ListItem.context, ListItem.figures, walkItems, wordBytes, ofBytes_wordBytes]

/-- The walk over a list of items. -/
theorem walkItems_items (items : List ListItem) (ctx : Dir) (f : PerDir Figures) (tail : List Byte) :
    walkItems ctx f (items.flatMap ListItem.bytes ++ tail) =
      walkItems (walked ctx f items).1 (walked ctx f items).2 tail := by
  induction items generalizing ctx f with
  | nil => rfl
  | cons item rest ih => simp only [List.flatMap_cons, List.append_assoc, walkItems_item, ih, walked]

/-- Two bytes are those of a word. -/
theorem wordBytes_ofBytes (low high : Byte) : wordBytes (ofBytes low high) = [low, high] := by
  simp only [wordBytes, ofBytes, lowByte, highByte]
  congr 1
  · ext k hk; rw [BitVec.getElem_extractLsb', BitVec.getLsbD_append]; simp [hk]
  · congr 1; ext k hk; rw [BitVec.getElem_extractLsb', BitVec.getLsbD_append]; simp [BitVec.getLsbD_eq_getElem hk]

/-- A walk that ends well has read items and END, and nothing behind it. -/
theorem walkItems_some (ctx : Dir) (f g : PerDir Figures) (list : List Byte) (h : walkItems ctx f list = some g) :
    ∃ items : List ListItem, list = items.flatMap ListItem.bytes ++ [0x00] := by
  have step (item : ListItem) (more : List Byte)
      (e : ∃ items : List ListItem, more = items.flatMap ListItem.bytes ++ [0x00]) :
      ∃ items : List ListItem, item.bytes ++ more = items.flatMap ListItem.bytes ++ [0x00] := by
    obtain ⟨items, rfl⟩ := e
    exact ⟨item :: items, by simp⟩
  fun_induction walkItems ctx f list
  all_goals first | (cases h; done) | skip
  case case2 rest hr => exact ⟨[], by simpa using hr⟩
  case case4 ih => exact step (.dir .up) _ (ih h)
  case case5 ih => exact step (.dir .down) _ (ih h)
  case case8 dl dh wl wh _ _ _ ih =>
    simpa [ListItem.bytes, wordBytes_ofBytes] using step (.load (ofBytes dl dh) (ofBytes wl wh)) _ (ih h)
  case case10 low high _ _ _ _ ih =>
    simpa [ListItem.bytes, wordBytes_ofBytes] using step (.reserve (ofBytes low high)) _ (ih h)
  case case12 low high _ _ _ _ _ ih =>
    simpa [ListItem.bytes, wordBytes_ofBytes] using step (.uplink (ofBytes low high)) _ (ih h)

/-! ## The walk gives the listed figures -/

/-- The last value that the items give, or the one from before them. -/
def lastOr (figure : ListItem → Option Word) (items : List ListItem) (before : Nat) : Nat :=
  ((items.filterMap figure).getLast?.map BitVec.toNat).getD before

theorem lastOr_zero (figure : ListItem → Option Word) (items : List ListItem) :
    lastOr figure items 0 = lastGiven figure items := by
  simp only [lastOr, lastGiven, List.getLastD_eq_getLast?]
  cases (items.filterMap figure).getLast? <;> rfl

theorem lastOr_cons (figure : ListItem → Option Word) (item : ListItem) (items : List ListItem) (before : Nat) :
    lastOr figure (item :: items) before = lastOr figure items (((figure item).map BitVec.toNat).getD before) := by
  simp only [lastOr, List.filterMap_cons]
  cases figure item with
  | none => rfl
  | some w => cases items.filterMap figure <;> simp [List.getLast?_cons]

/-- The figures of a direction behind a list of items. -/
theorem walked_figures (items : List ListItem) (d ctx : Dir) (f : PerDir Figures) :
    (walked ctx f items).2.get d =
      let its := itemsOf d ctx items
      let x := f.get d
      { demand := lastOr ListItem.demand its x.demand, weight := lastOr ListItem.weight its x.weight
        reserve := lastOr ListItem.reserved its x.reserve, uplink := lastOr ListItem.uplinked its x.uplink } := by
  induction items generalizing ctx f with
  | nil => rfl
  | cons item rest ih =>
    cases item with
    | dir c => exact ih c f
    | load _ _ | reserve _ | uplink _ =>
      rcases Decidable.em (d = ctx) with rfl | h
      · simp [walked, ListItem.context, ListItem.figures, ih, itemsOf, lastOr_cons, ListItem.demand,
          ListItem.weight, ListItem.reserved, ListItem.uplinked]
      · simp [walked, ListItem.context, ListItem.figures, ih, itemsOf, h, Ne.symm h]

/-- R62, R72: a list is valid exactly when it is items and END behind them, and then it gives the listed figures. -/
theorem walkItems_iff (list : List Byte) (g : PerDir Figures) :
    walkItems .up ⟨Figures.zero, Figures.zero⟩ list = some g ↔
      ∃ items : List ListItem, list = items.flatMap ListItem.bytes ++ [0x00] ∧
        g = ⟨listedFigures items .up, listedFigures items .down⟩ := by
  have figures (items : List ListItem) : (walked .up ⟨Figures.zero, Figures.zero⟩ items).2 =
      ⟨listedFigures items .up, listedFigures items .down⟩ := by
    apply PerDir.eq_of_get
    intro d
    rw [walked_figures]
    cases d <;> simp [Figures.zero, lastOr_zero, listedFigures]
  constructor
  · intro h
    obtain ⟨items, rfl⟩ := walkItems_some _ _ _ _ h
    refine ⟨items, rfl, ?_⟩
    rw [walkItems_items, figures] at h
    simpa [walkItems, eq_comm] using h
  · rintro ⟨items, rfl, rfl⟩
    rw [walkItems_items, figures]
    simp [walkItems]

end Sys2Proof.Machine
end

