-- ==== Sys2Proof/Laws/LevelSearch.lean ====
section
/-! SUPPORT. The level search: the fill rises with the level, and the probes end at the last level of their range whose
fill does not exceed the amount. -/

namespace Sys2Proof.Machine

@[simp] theorem fill_nil (level : Nat) : fill [] level = 0 := rfl

theorem fill_cons (i : Item) (rest : List Item) (level : Nat) :
    fill (i :: rest) level = i.allocation level + fill rest level := by
  simp [fill]

theorem fill_append (a b : List Item) (level : Nat) : fill (a ++ b) level = fill a level + fill b level := by
  simp [fill]

theorem Item.allocation_le_demand (i : Item) (level : Nat) : i.allocation level ≤ i.demand := Nat.min_le_left _ _

theorem Item.allocation_mono (i : Item) {a b : Nat} (h : a ≤ b) : i.allocation a ≤ i.allocation b := by
  unfold Item.allocation
  have : i.weight * a / 64 ≤ i.weight * b / 64 := Nat.div_le_div_right (Nat.mul_le_mul_left _ h)
  omega

@[simp] theorem Item.allocation_zero_level (i : Item) : i.allocation 0 = 0 := by simp [Item.allocation]

theorem Item.allocation_of_weight_zero {i : Item} (h : i.weight = 0) (level : Nat) : i.allocation level = 0 := by
  simp [Item.allocation, h]

theorem fill_mono (items : List Item) {a b : Nat} (h : a ≤ b) : fill items a ≤ fill items b := by
  induction items with
  | nil => exact Nat.le_refl _
  | cons i rest ih =>
    rw [fill_cons, fill_cons]
    exact Nat.add_le_add (i.allocation_mono h) ih

/-- From a level whose fill fits, the probes of the bits below `k` stay in their range, and every level of the range fits
exactly when it is not above their result. -/
theorem probeBits_spec (items : List Item) (amount k level : Nat) (h : fill items level ≤ amount) :
    level ≤ probeBits items amount k level ∧ probeBits items amount k level < level + 2 ^ k ∧
      ∀ x, level ≤ x → x < level + 2 ^ k → (fill items x ≤ amount ↔ x ≤ probeBits items amount k level) := by
  induction k generalizing level with
  | zero =>
    refine ⟨Nat.le_refl _, by simp [probeBits], ?_⟩
    intro x hl hx
    have : x = level := by simp at hx; omega
    subst this
    simp [probeBits, h]
  | succ k ih =>
    simp only [probeBits]
    have hp : 2 ^ (k + 1) = 2 ^ k + 2 ^ k := by rw [Nat.pow_succ]; omega
    have hk : 0 < 2 ^ k := Nat.two_pow_pos k
    split
    · rename_i hfit
      obtain ⟨h1, h2, h3⟩ := ih _ hfit
      refine ⟨by omega, by omega, ?_⟩
      intro x hl hx
      by_cases hx2 : level + 2 ^ k ≤ x
      · exact h3 x hx2 (by omega)
      · refine ⟨fun _ => by omega, fun _ => Nat.le_trans (fill_mono items (by omega)) hfit⟩
    · rename_i hfit
      obtain ⟨h1, h2, h3⟩ := ih _ h
      refine ⟨h1, by omega, ?_⟩
      intro x hl hx
      by_cases hx2 : x < level + 2 ^ k
      · exact h3 x hl hx2
      · refine ⟨fun hf => absurd (Nat.le_trans (fill_mono items (by omega)) hf) hfit, fun hf => by omega⟩

end Sys2Proof.Machine
end

