-- ==== Sys2Proof/Laws/Line.lean ====
section
/-! SUPPORT. What the bit times of the line can change: the counts of the line monitor and of restoration, the readback
marker, and nothing else of the line interface. -/

namespace Sys2Proof.Machine

/-- Bit times change the line monitor, the restoration count and the readback marker alone. -/
theorem LineInterface.bitTimes_eq (line : List LineLevel) (l : LineInterface) :
    let m := line.foldl LineInterface.bitTime l
    m = { l with
      byteLeft := m.byteLeft, afterRecessive := m.afterRecessive, carrierIdle := m.carrierIdle
      recessive := m.recessive, busyLength := m.busyLength, runLength := m.runLength, restoration := m.restoration
      readback := m.readback } := by
  induction line generalizing l with
  | nil => rfl
  | cons b rest ih => intro m; exact (ih (l.bitTime b)).trans (by cases b <;> rfl)

/-- The readback marker stays but where the line, reported idle, shows a recessive bit time first. -/
theorem LineInterface.bitTimes_readback (line : List LineLevel) (l : LineInterface) :
    (line.foldl LineInterface.bitTime l).readback =
      (l.readback && !(l.carrierIdle && line.head? == some .recessive)) := by
  induction line generalizing l with
  | nil => simp
  | cons b rest ih =>
    refine (ih (l.bitTime b)).trans ?_
    cases b
    · simp [LineInterface.bitTime, LineInterface.dominantBit]
    · cases h : l.carrierIdle <;> simp [LineInterface.bitTime, LineInterface.recessiveBit, h]

/-- What levels leave of the line interface. -/
theorem passLevels_li_eq (line : List LineLevel) (s : State) :
    let m := (s.passLevels line).li
    m = { s.li with
      byteLeft := m.byteLeft, afterRecessive := m.afterRecessive, carrierIdle := m.carrierIdle
      recessive := m.recessive, busyLength := m.busyLength, runLength := m.runLength, restoration := m.restoration
      readback := m.readback } := by
  intro m
  have h := LineInterface.bitTimes_eq line s.li
  simp only [m, State.passLevels, State.setLine]
  split <;> (rw [h])

section
variable (line : List LineLevel) (s : State)

@[simp] theorem passLevels_station : (s.passLevels line).li.station = s.li.station := by rw [passLevels_li_eq]
@[simp] theorem passLevels_remembered : (s.passLevels line).li.remembered = s.li.remembered := by rw [passLevels_li_eq]
@[simp] theorem passLevels_expiryCount : (s.passLevels line).li.expiryCount = s.li.expiryCount := by rw [passLevels_li_eq]
@[simp] theorem passLevels_conflict : (s.passLevels line).li.conflict = s.li.conflict := by rw [passLevels_li_eq]
@[simp] theorem passLevels_tx : (s.passLevels line).li.tx = s.li.tx := by rw [passLevels_li_eq]
@[simp] theorem passLevels_notice : (s.passLevels line).li.notice = s.li.notice := by rw [passLevels_li_eq]
@[simp] theorem passLevels_attempts : (s.passLevels line).li.attempts = s.li.attempts := by rw [passLevels_li_eq]
@[simp] theorem passLevels_random : (s.passLevels line).li.random = s.li.random := by rw [passLevels_li_eq]
@[simp] theorem passLevels_cycle : (s.passLevels line).li.cycle = s.li.cycle := by rw [passLevels_li_eq]
@[simp] theorem passLevels_rx : (s.passLevels line).li.rx = s.li.rx := by rw [passLevels_li_eq]
@[simp] theorem passLevels_rxBytes : (s.passLevels line).li.rxBytes = s.li.rxBytes := by rw [passLevels_li_eq]
@[simp] theorem passLevels_rxExpected : (s.passLevels line).li.rxExpected = s.li.rxExpected := by rw [passLevels_li_eq]
@[simp] theorem passLevels_readback : (s.passLevels line).li.readback =
    (s.li.readback && !(s.li.carrierIdle && line.head? == some .recessive)) := by
  have h := LineInterface.bitTimes_readback line s.li
  simp only [State.passLevels, State.setLine]
  split <;> exact h
@[simp] theorem passLevels_overflow : (s.passLevels line).li.overflow = s.li.overflow := by rw [passLevels_li_eq]

@[simp] theorem passLevels_started : (s.passLevels line).started = s.started := by simp [State.started]

@[simp] theorem passLevels_expectsCheck : (s.passLevels line).li.expectsCheck = s.li.expectsCheck := by
  simp [LineInterface.expectsCheck]

end

end Sys2Proof.Machine
end

