-- ==== Sys2Proof/Laws/Memory.lean ====
section
/-! SUPPORT. The record memory: what a read gives after a write, and that every operation keeps the canonical form. -/

namespace Sys2Proof.Machine

theorem Memory.read_of_lt {m : Memory} {a : Nat} (h : ∀ c ∈ m, a < c.1) : m.read a = unwrittenWord := by
  induction m with
  | nil => rfl
  | cons c rest ih =>
    obtain ⟨b, w⟩ := c
    have hb : a < b := h (b, w) (by simp)
    have hne : ¬ b = a := by omega
    simp only [Memory.read, if_neg hne]
    exact ih fun c hc => h c (by simp [hc])

/-- Every address a write lists was listed before or is the one written. -/
theorem Memory.mem_write {m : Memory} {a : Nat} {v : Word} {c : Nat × Word} (h : c ∈ m.write a v) :
    c ∈ m ∨ (c = (a, v) ∧ v ≠ unwrittenWord) := by
  induction m with
  | nil =>
    simp only [Memory.write] at h
    split at h
    · simp at h
    · right; simp_all
  | cons d rest ih =>
    obtain ⟨b, w⟩ := d
    simp only [Memory.write] at h
    split at h
    · split at h
      · exact Or.inl h
      · rcases List.mem_cons.mp h with h | h
        · exact Or.inr ⟨h, by assumption⟩
        · exact Or.inl h
    · split at h
      · split at h
        · exact Or.inl (List.mem_cons_of_mem _ h)
        · rcases List.mem_cons.mp h with h | h
          · exact Or.inr ⟨h, by assumption⟩
          · exact Or.inl (List.mem_cons_of_mem _ h)
      · rcases List.mem_cons.mp h with h | h
        · exact Or.inl (h ▸ List.mem_cons_self ..)
        · rcases ih h with h | h
          · exact Or.inl (List.mem_cons_of_mem _ h)
          · exact Or.inr h

theorem Memory.wf_nil : Memory.wf [] := ⟨List.Pairwise.nil, by simp⟩

/-- A write keeps the canonical form. -/
theorem Memory.wf_write {m : Memory} (h : m.wf) (a : Nat) (v : Word) : (m.write a v).wf := by
  obtain ⟨hp, hv⟩ := h
  refine ⟨?_, ?_⟩
  · clear hv
    induction m with
    | nil =>
      simp only [Memory.write]
      split <;> simp
    | cons d rest ih =>
      obtain ⟨b, w⟩ := d
      obtain ⟨hb, hr⟩ := List.pairwise_cons.mp hp
      simp only [Memory.write]
      split
      · rename_i hab
        split
        · exact hp
        · refine List.pairwise_cons.mpr ⟨?_, hp⟩
          intro c hc
          rcases List.mem_cons.mp hc with hc | hc
          · subst hc; exact hab
          · have := hb c hc; simp at this ⊢; omega
      · split
        · rename_i heq
          split
          · exact hr
          · refine List.pairwise_cons.mpr ⟨?_, hr⟩
            intro c hc
            have := hb c hc
            simp at this ⊢; omega
        · rename_i h1 h2
          refine List.pairwise_cons.mpr ⟨?_, ih hr⟩
          intro c hc
          rcases Memory.mem_write hc with hc | ⟨hc, _⟩
          · exact hb c hc
          · subst hc; simp; omega
  · intro c hc
    rcases Memory.mem_write hc with hc | ⟨hc, hne⟩
    · exact hv c hc
    · subst hc; exact hne

/-- What a word reads as after a write. -/
theorem Memory.read_write {m : Memory} (h : m.wf) (a b : Nat) (v : Word) :
    (m.write a v).read b = if b = a then v else m.read b := by
  have hp := h.1
  clear h
  induction m with
  | nil =>
    simp only [Memory.write]
    split
    · rename_i hv; simp [Memory.read, hv]
    · simp only [Memory.read]
      split <;> split <;> first | rfl | omega
  | cons d rest ih =>
    obtain ⟨c, w⟩ := d
    obtain ⟨hc, hr⟩ := List.pairwise_cons.mp hp
    have hlow : ∀ x, x ≤ c → Memory.read rest x = unwrittenWord := fun x hx =>
      Memory.read_of_lt fun y hy => by have := hc y hy; simp at this; omega
    simp only [Memory.write]
    split
    · rename_i hac
      split
      · rename_i hv
        split
        · rename_i hba
          subst hba
          have : ¬ c = b := by omega
          rw [Memory.read, if_neg this, hlow b (by omega), hv]
        · rfl
      · simp only [Memory.read]
        split <;> split <;> first | rfl | omega | (split <;> first | rfl | omega)
    · split
      · rename_i hac
        subst hac
        split
        · rename_i hv
          split
          · rename_i hba
            subst hba
            rw [hlow b (by omega), hv]
          · rename_i hba
            have : ¬ a = b := fun h => hba h.symm
            rw [Memory.read, if_neg this]
        · simp only [Memory.read]
          split <;> split <;> first | rfl | omega
      · simp only [Memory.read]
        split
        · split <;> first | rfl | omega
        · rw [ih hr]

@[simp] theorem Memory.read_nil (a : Nat) : Memory.read [] a = unwrittenWord := rfl

theorem reset_mem_wf : Memory.wf State.reset.mem := Memory.wf_nil

/-! ## The operations that reach record memory -/

theorem endStrobe_mem_wf {s : State} (h : s.mem.wf) (n : Nat) : (endStrobe n s).mem.wf := by
  unfold endStrobe
  split
  · exact h
  · exact Memory.wf_write h _ _
  · exact h

theorem endStrobeTimedOut_mem_wf {s : State} (h : s.mem.wf) : (endStrobeTimedOut s).mem.wf := by
  unfold endStrobeTimedOut
  split
  · exact h
  · dsimp only
    split
    · exact Memory.wf_write h _ _
    · exact h
  · exact h

theorem cutMemory_wf {s : State} (h : s.mem.wf) : (cutMemory s).wf := by
  unfold cutMemory
  split
  · split
    · exact Memory.wf_write h _ _
    · exact h
  · exact h

end Sys2Proof.Machine
end

