-- ==== Sys2Proof/Laws/Peer.lean ====
section
/-! SUPPORT. The searches of the peer table, and its operations slot by slot. -/

namespace Sys2Proof.Machine

theorem mem_allSlots (k : Fin Config.peerSlots) : k ∈ allSlots := List.mem_finRange k

/-! ## Searches -/

theorem findPeer_some {s : State} {station : Word} {k : Fin Config.peerSlots} (h : s.findPeer station = some k) :
    ∃ e, s.slot k = some e ∧ e.station = station := by
  have := List.find?_some h
  split at this
  · rename_i e he
    exact ⟨e, he, by simpa using this⟩
  · simp at this

theorem findPeer_none {s : State} {station : Word} :
    s.findPeer station = none ↔ ∀ k e, s.slot k = some e → e.station ≠ station := by
  unfold State.findPeer
  rw [List.find?_eq_none]
  constructor
  · intro h k e he heq
    have := h k (mem_allSlots k)
    simp [he, heq] at this
  · intro h k _
    cases he : s.slot k with
    | none => simp
    | some e => simpa using h k e he

theorem emptySlot_none {s : State} : s.emptySlot = none ↔ ∀ k, s.slot k ≠ none := by
  unfold State.emptySlot
  rw [List.find?_eq_none]
  constructor
  · intro h k hk
    simpa [hk] using h k (mem_allSlots k)
  · intro h k _ hk
    exact h k (by simpa using hk)

theorem emptySlot_some {s : State} {k : Fin Config.peerSlots} (h : s.emptySlot = some k) : s.slot k = none := by
  simpa using List.find?_some h

/-! ## Slot by slot -/

theorem slot_removePeer (s : State) (k j : Fin Config.peerSlots) (c : ViewChange) :
    (removePeer k c s).slot j = if j = k then none else s.slot j := by
  unfold removePeer
  split
  · rename_i h
    by_cases hj : j = k
    · subst hj; simp [h]
    · simp [hj]
  · dsimp only
    split <;> simp [slot_setSlot]

theorem slot_storePeer (s : State) (k j : Fin Config.peerSlots) (n : Notice) :
    (storePeer k n s).slot j = if j = k then some (s.mp.cfg.entryOf n) else s.slot j := by
  unfold storePeer
  dsimp only
  split <;> simp [slot_setSlot]

theorem slot_updatePeer (s : State) (k j : Fin Config.peerSlots) (e : PeerEntry) (n : Notice) :
    (updatePeer k e n s).slot j = if j = k then some (s.mp.cfg.entryOf n) else s.slot j := by
  unfold updatePeer
  dsimp only
  split
  · simp [slot_setSlot]
  · split <;> simp [slot_setSlot]

/-- R48 on one slot. -/
theorem slot_agePeer (s : State) (k j : Fin Config.peerSlots) :
    (agePeer k s).slot j =
      if j = k then (s.slot k).bind fun e =>
        if e.purge = true ∨ e.silence + 1 = e.limit then none else some { e with silence := e.silence + 1 }
      else s.slot j := by
  unfold agePeer
  split
  · rename_i h
    by_cases hj : j = k
    · subst hj; simp [h]
    · simp [hj]
  · rename_i e h
    split
    · rename_i hp
      rw [slot_removePeer]
      simp [h, hp]
    · split
      · rename_i hp hl
        rw [slot_removePeer]
        simp [h, hl]
      · rename_i hp hl
        simp [slot_setSlot, h, hp, hl]

/-- A list of slots without repeats ages each of its slots once. -/
theorem slot_agePeers (ks : List (Fin Config.peerSlots)) (hn : ks.Nodup) (s : State) (j : Fin Config.peerSlots) :
    (agePeers ks s).slot j = if j ∈ ks then (agePeer j s).slot j else s.slot j := by
  induction ks generalizing s with
  | nil => simp [agePeers]
  | cons k rest ih =>
    obtain ⟨hk, hr⟩ := List.nodup_cons.mp hn
    rw [agePeers, ih hr]
    by_cases hj : j = k
    · subst hj
      simp [hk]
    · by_cases hm : j ∈ rest
      · simp only [hm, if_true, List.mem_cons, hj, false_or, slot_agePeer]
        simp
      · simp [hm, hj, slot_agePeer]

theorem allSlots_nodup : allSlots.Nodup := List.nodup_finRange _

end Sys2Proof.Machine
end

