-- ==== Sys2Proof/Laws/Serial.lean ====
section
/-! SUPPORT. The serial port: clock pulses and what the host samples (R183, R193). -/

namespace Sys2Proof.Machine

/-- A read taken leaves the serial port, and gives the word of its address. -/
theorem takeRead_mp (a : BitVec 7) (s : State) : (takeRead a s).mp = { s.mp with dataOut := s.readWord a } := by
  unfold takeRead
  split
  · rfl
  split
  · rfl
  split
  · simp only [fetchNext]; split <;> simp [setDataOut]
  split
  · rfl
  split
  · rfl
  split
  · rfl
  split <;> rfl

section
variable (b : Bool) (bits : List Bool) (s : State)

/-- What a rising edge makes of the serial port: select input and data output stay. -/
theorem clockEdge_serial : (clockEdge b s).mp.serial =
    let p := s.mp.serial
    if p.active then
      { p.shift b with summary := if p.edges + 1 = 8 then s.summaryByte else p.summary }
    else p := by
  unfold clockEdge
  simp only
  split
  · split
    · simp_all [SerialPort.shift, State.setSerial]; rfl
    · split <;> simp_all [SerialPort.shift, State.setSerial, takeRead_mp]
  · rfl

/-- No edge counts where no transaction is in progress. -/
theorem clockPulse_idle (h : s.mp.serial.active = false) : clockPulse b s = s := by
  simp [clockPulse, clockEdge, clockFall, h]

theorem clockPulses_idle (h : s.mp.serial.active = false) : bits.foldl (fun s b => clockPulse b s) s = s := by
  induction bits with
  | nil => rfl
  | cons b rest ih => rw [List.foldl_cons, clockPulse_idle b s h, ih]

/-- Behind a cut the host samples the one level that stands. -/
theorem sampled_idle (h : s.mp.serial.active = false) : s.sampled bits = bits.map fun _ => s.dataOutput := by
  induction bits with
  | nil => rfl
  | cons b rest ih => simp [State.sampled, clockPulse_idle b s h, ih]

theorem sampled_length : (s.sampled bits).length = bits.length := by
  induction bits generalizing s with
  | nil => rfl
  | cons b rest ih => simp [State.sampled, ih]

theorem sampled_append (more : List Bool) :
    s.sampled (bits ++ more) = s.sampled bits ++ (bits.foldl (fun s b => clockPulse b s) s).sampled more := by
  induction bits generalizing s with
  | nil => rfl
  | cons b rest ih => simp [State.sampled, ih]

end

end Sys2Proof.Machine
end

