-- ==== Sys2Proof/Laws/Share.lean ====
section
/-! SUPPORT. Everything the shared operations on grants do: returns, join grants, and the arrivals and departures built
from them; and the end of a host command. -/

namespace Sys2Proof.Machine

/-- An entry whose grants are `up` and `down`. -/
def ClientEntry.withGrants (e : ClientEntry) (up down : Nat) : ClientEntry :=
  { e with dirs := ⟨{ e.dirs.up with grant := up }, { e.dirs.down with grant := down }⟩ }

/-! ## A running pass's list -/

@[simp] theorem setShareDir_keeps_pass (s : State) (d : Dir) (x : ShareDir) :
    (s.setShareDir d x).se.pass = s.se.pass ∧ (s.setShareDir d x).se.snapshot = s.se.snapshot := ⟨rfl, rfl⟩

@[simp] theorem strike_pass (i : Fin Config.clientCount) (s : State) : (strike i s).se.pass = s.se.pass := rfl

@[simp] theorem strike_shareDir (i : Fin Config.clientCount) (s : State) (d : Dir) :
    (strike i s).shareDir d = s.shareDir d := rfl

theorem strike_snapshot (i : Fin Config.clientCount) (s : State) :
    (strike i s).se.snapshot =
      s.se.snapshot.map fun n => { n with membership := n.membership.filter (· ≠ i) } := rfl

/-! ## Returns (R35, R36) -/

@[simp] theorem returnGrant_pass (k : Nat) (d : Dir) (i : Fin Config.clientCount) (s : State) :
    (returnGrant k d i s).se.pass = s.se.pass ∧ (returnGrant k d i s).se.snapshot = s.se.snapshot ∧
      (returnGrant k d i s).ct.walk = s.ct.walk := ⟨rfl, rfl, rfl⟩

/-- Both directions of a return. -/
theorem client_returnGrants (keep : Nat) (i j : Fin Config.clientCount) (s : State) :
    (returnGrant keep .down i (returnGrant keep .up i s)).client j =
      if j = i then (s.client i).withGrants (min (s.grant .up i) keep) (min (s.grant .down i) keep)
      else s.client j := by
  simp only [client_returnGrant, grant_returnGrant]
  by_cases h : j = i
  · simp [h, ClientEntry.withGrants, ClientEntry.setDir, ClientEntry.dir, PerDir.set, PerDir.get]
  · simp [h]

theorem shareDir_returnGrants (keep : Nat) (i : Fin Config.clientCount) (s : State) (d : Dir) :
    (returnGrant keep .down i (returnGrant keep .up i s)).shareDir d =
      { s.shareDir d with
        remainder := (s.shareDir d).remainder + (s.grant d i - min (s.grant d i) keep) } := by
  cases d <;> simp [grant_returnGrant]

/-- A client that stops being a sharing client holds no grant. -/
theorem client_leaveSharing (i j : Fin Config.clientCount) (s : State) :
    (leaveSharing i s).client j = if j = i then (s.client i).withGrants 0 0 else s.client j := by
  have := client_returnGrants 0 i j s
  simp only [Nat.min_zero] at this
  exact this

/-- Its grants are back in the remainders. -/
theorem shareDir_leaveSharing (i : Fin Config.clientCount) (s : State) (d : Dir) :
    (leaveSharing i s).shareDir d =
      { s.shareDir d with remainder := (s.shareDir d).remainder + s.grant d i } := by
  have := shareDir_returnGrants 0 i s d
  simp only [Nat.min_zero, Nat.sub_zero] at this
  exact this

theorem leaveSharing_pass (i : Fin Config.clientCount) (s : State) :
    (leaveSharing i s).se.pass = s.se.pass ∧ (leaveSharing i s).ct.walk = s.ct.walk := ⟨rfl, rfl⟩

theorem leaveSharing_snapshot (i : Fin Config.clientCount) (s : State) :
    (leaveSharing i s).se.snapshot =
      s.se.snapshot.map fun n => { n with membership := n.membership.filter (· ≠ i) } := rfl

/-- It is on no membership list. -/
theorem leaveSharing_struck (i : Fin Config.clientCount) (s : State) (n : Snapshot)
    (h : (leaveSharing i s).se.snapshot = some n) : i ∉ n.membership := by
  rw [leaveSharing_snapshot, Option.map_eq_some_iff] at h
  obtain ⟨m, _, rfl⟩ := h
  simp

/-! ## Join grants (R34) -/

theorem joinAmount_le (s : State) (d : Dir) (i : Fin Config.clientCount) :
    s.joinAmount d i ≤ (s.shareDir d).remainder := by
  unfold State.joinAmount State.capLimit
  split <;> omega

theorem joinAmount_eq (s : State) (d : Dir) (i : Fin Config.clientCount) :
    s.joinAmount d i =
      if (s.client i).capped = true then
        min s.mp.cfg.cappedRate.toNat (min s.mp.cfg.joinRate.toNat (s.shareDir d).remainder)
      else min s.mp.cfg.joinRate.toNat (s.shareDir d).remainder := rfl

/-- Both directions of a join grant: the two amounts come from the remainders as they were. -/
theorem client_takeJoinGrants (i j : Fin Config.clientCount) (s : State) :
    (takeJoinGrants i s).client j =
      if j = i then (s.client i).withGrants (s.joinAmount .up i) (s.joinAmount .down i) else s.client j := by
  unfold takeJoinGrants takeJoinGrant
  simp only [client_drawGrant, joinAmount_eq, shareDir_drawGrant]
  by_cases h : j = i
  · simp [h, ClientEntry.withGrants, ClientEntry.setDir, ClientEntry.dir, PerDir.set, PerDir.get]
  · simp [h]

theorem shareDir_takeJoinGrants (i : Fin Config.clientCount) (s : State) (d : Dir) :
    (takeJoinGrants i s).shareDir d =
      { s.shareDir d with remainder := (s.shareDir d).remainder - s.joinAmount d i } := by
  unfold takeJoinGrants takeJoinGrant
  simp only [shareDir_drawGrant, joinAmount_eq, client_drawGrant]
  cases d <;> simp [ClientEntry.setDir]

theorem takeJoinGrants_pass (i : Fin Config.clientCount) (s : State) :
    (takeJoinGrants i s).se.pass = s.se.pass ∧ (takeJoinGrants i s).se.snapshot = s.se.snapshot ∧
      (takeJoinGrants i s).ct.walk = s.ct.walk := ⟨rfl, rfl, rfl⟩

/-- A join with full buckets. -/
theorem client_joinWithFullBuckets (i j : Fin Config.clientCount) (s : State) :
    (joinWithFullBuckets i s).client j =
      if j = i then
        ((s.client i).withGrants (s.joinAmount .up i) (s.joinAmount .down i)).fillBuckets s.mp.cfg s.tb.stamp
      else s.client j := by
  unfold joinWithFullBuckets
  simp only [client_setClient, client_takeJoinGrants]
  by_cases h : j = i <;> simp [h]

theorem shareDir_joinWithFullBuckets (i : Fin Config.clientCount) (s : State) (d : Dir) :
    (joinWithFullBuckets i s).shareDir d =
      { s.shareDir d with remainder := (s.shareDir d).remainder - s.joinAmount d i } :=
  shareDir_takeJoinGrants i s d

theorem joinWithFullBuckets_pass (i : Fin Config.clientCount) (s : State) :
    (joinWithFullBuckets i s).se.pass = s.se.pass ∧ (joinWithFullBuckets i s).se.snapshot = s.se.snapshot ∧
      (joinWithFullBuckets i s).ct.walk = s.ct.walk := ⟨rfl, rfl, rfl⟩

/-- R107. -/
theorem wakeClient_eq (i : Fin Config.clientCount) (s : State) :
    wakeClient i s =
      if (s.client i).tier = .operations then s.setClient i { s.client i with state := .active, idleCount := 0 }
      else joinWithFullBuckets i (s.setClient i { s.client i with state := .active, idleCount := 0 }) := rfl

theorem attachFree_eq (i : Fin Config.clientCount) (t : Tier) (g : BitVec 3) (p : BitVec 12) (s : State) :
    attachFree i t g p s =
      if t = .operations then s.setClient i ((s.freshEntry t g p).setStamps s.tb.stamp)
      else joinWithFullBuckets i (s.setClient i (s.freshEntry t g p)) := rfl

/-! ## Removal (R100) -/

theorem client_removeClient (i j : Fin Config.clientCount) (y : RemovalReason) (s : State) :
    (removeClient i y s).client j = if j = i then ClientEntry.free else s.client j := by
  unfold removeClient
  rw [client_setClient]
  by_cases h : j = i
  · simp [h]
  · simp only [h, if_false, client_leaveSharing]; simp

theorem shareDir_removeClient (i : Fin Config.clientCount) (y : RemovalReason) (s : State) (d : Dir) :
    (removeClient i y s).shareDir d =
      { s.shareDir d with remainder := (s.shareDir d).remainder + s.grant d i } := by
  unfold removeClient
  rw [setClient_shareDir, shareDir_leaveSharing]
  simp

theorem removeClient_pass (i : Fin Config.clientCount) (y : RemovalReason) (s : State) :
    (removeClient i y s).se.pass = s.se.pass ∧ (removeClient i y s).ct.walk = s.ct.walk := by
  have h := offerRecord_frame (s.finalRecord i y) s
  unfold removeClient
  refine ⟨?_, ?_⟩
  · show (offerRecord (s.finalRecord i y) s).se.pass = _
    rw [h.2.1]
  · show (offerRecord (s.finalRecord i y) s).ct.walk = _
    simp

theorem removeClient_struck (i : Fin Config.clientCount) (y : RemovalReason) (s : State) (n : Snapshot)
    (h : (removeClient i y s).se.snapshot = some n) : i ∉ n.membership :=
  leaveSharing_struck i _ n h

/-! ## The end of a host command (R108, R188) -/

theorem clientOfArgument_eq {w : Word} {i : Fin Config.clientCount} (h : w.toNat = i.val) :
    clientOfArgument w = some i := by
  have : w.toNat < Config.clientCount := h ▸ i.isLt
  simp only [clientOfArgument, this, dif_pos, Option.some.injEq]
  exact Fin.ext h

theorem clientOfArgument_none {w : Word} (h : 383 < w.toNat) : clientOfArgument w = none := by
  have : ¬ w.toNat < Config.clientCount := by show ¬ w.toNat < 384; omega
  simp [clientOfArgument, this]

theorem slotOfArgument_eq {w : Word} {k : Fin Config.peerSlots} (h : w.toNat = k.val) :
    slotOfArgument w = some k := by
  have : w.toNat < Config.peerSlots := h ▸ k.isLt
  simp only [slotOfArgument, this, dif_pos, Option.some.injEq]
  exact Fin.ext h

theorem slotOfArgument_none {w : Word} (h : 29 < w.toNat) : slotOfArgument w = none := by
  have : ¬ w.toNat < Config.peerSlots := by show ¬ w.toNat < 30; omega
  simp [slotOfArgument, this]

theorem Request.clientIndex_eq {r : Request} {i : Fin Config.clientCount} (h : r.index = i.val) :
    r.clientIndex = some i := by
  have : r.index < Config.clientCount := h ▸ i.isLt
  simp only [Request.clientIndex, this, dif_pos, Option.some.injEq]
  exact Fin.ext h

theorem Request.clientIndex_none {r : Request} (h : 384 ≤ r.index) : r.clientIndex = none := by
  have : ¬ r.index < Config.clientCount := by show ¬ r.index < 384; omega
  simp [Request.clientIndex, this]

/-- A command that R108 lets through acts on its entry. -/
theorem judgeClientCommand_acts {s : State} {i : Fin Config.clientCount} {act : Fin Config.clientCount → State → State}
    (hs : s.started = true) (hi : s.mp.taken0.toNat = i.val) (hf : (s.client i).state ≠ .free) :
    judgeClientCommand true act s = act i s := by
  simp [judgeClientCommand, hs, clientOfArgument_eq hi, hf]

/-- A command whose own effect leaves the port as it was but for flags ends as R188 says. -/
theorem endCommand_ended (o : CommandOutcome) {s u : State} (h : u.mp.noFlags = s.mp.noFlags) :
    (endCommand o u).mp =
      { s.mp with running := false, outcome := o, flags := (endCommand o u).mp.flags } := by
  have := MaintPort.eq_of_noFlags h
  simp only [endCommand, raise_mp]
  rw [this]

theorem flag_endCommand_self (o : CommandOutcome) (s : State) : (endCommand o s).flag .commandDone = true :=
  flag_raise_self _ _

theorem endCommand_flags (o : CommandOutcome) {s : State} {m : Nat} (h : s.mp.flags.getLsbD m = true) :
    (endCommand o s).mp.flags.getLsbD m = true := by
  simp [endCommand, h]

end Sys2Proof.Machine
end

