-- ==== Sys2Proof/Laws/Total.lean ====
section
/-! SUPPORT. The sum of the grants of a direction: what a change of one entry or of all entries makes of it. -/

namespace Sys2Proof.Machine

/-- A sum over a list in which one place has changed. -/
theorem sum_set (l : List Nat) (k : Nat) (x : Nat) (h : k < l.length) : (l.set k x).sum + l[k] = l.sum + x := by
  induction l generalizing k with
  | nil => simp at h
  | cons a rest ih =>
    cases k with
    | zero => simp; omega
    | succ k =>
      have := ih k (by simpa using h)
      simp only [List.set_cons_succ, List.sum_cons, List.getElem_cons_succ]
      omega

/-- Setting one entry changes the total by that entry's grant. -/
theorem grantTotal_setClient (s : State) (i : Fin Config.clientCount) (e : ClientEntry) (d : Dir) :
    (s.setClient i e).grantTotal d + s.grant d i = s.grantTotal d + (e.dir d).grant := by
  have hl : i.val < (s.ct.entries.toList.map fun e => (e.dir d).grant).length := by simp
  have h := sum_set (s.ct.entries.toList.map fun e => (e.dir d).grant) i.val (e.dir d).grant hl
  have hset : (s.setClient i e).grantTotal d =
      ((s.ct.entries.toList.map fun e => (e.dir d).grant).set i.val (e.dir d).grant).sum := by
    unfold State.grantTotal
    rw [setClient_entries, Vector.toList_set, List.map_set]
  have hget : (s.ct.entries.toList.map fun e => (e.dir d).grant)[i.val] = s.grant d i := by
    simp [State.grant, State.client]
  rw [hset, ← hget]
  exact h

/-- An entry set with its grant unchanged leaves the total. -/
theorem grantTotal_setClient_eq (s : State) (i : Fin Config.clientCount) (e : ClientEntry) (d : Dir)
    (h : (e.dir d).grant = s.grant d i) : (s.setClient i e).grantTotal d = s.grantTotal d := by
  have := grantTotal_setClient s i e d
  omega

theorem grantTotal_congr {s t : State} {d : Dir} (h : ∀ i, s.grant d i = t.grant d i) :
    s.grantTotal d = t.grantTotal d := by
  have : (s.ct.entries.toList.map fun e => (e.dir d).grant) = t.ct.entries.toList.map fun e => (e.dir d).grant := by
    apply List.ext_getElem
    · simp
    · intro k h1 h2
      have hk : k < Config.clientCount := by simpa using h1
      have := h ⟨k, hk⟩
      simpa [State.grant, State.client] using this
  simp [State.grantTotal, this]

/-- The total when every grant of the direction is 0. -/
theorem grantTotal_zero {s : State} {d : Dir} (h : ∀ i, s.grant d i = 0) : s.grantTotal d = 0 := by
  simp only [State.grantTotal, List.sum_eq_zero_iff_forall_eq_nat, List.mem_map]
  rintro _ ⟨e, he, rfl⟩
  obtain ⟨k, hk, rfl⟩ := List.getElem_of_mem he
  have hk' : k < Config.clientCount := by simpa using hk
  simpa [State.grant, State.client] using h ⟨k, hk'⟩

theorem grantTotal_drawGrant (s : State) (d : Dir) (i : Fin Config.clientCount) (g : Nat) :
    (drawGrant d i g s).grantTotal d + s.grant d i = s.grantTotal d + g := by
  have h := grantTotal_setClient s i ((s.client i).setDir d { (s.client i).dir d with grant := g }) d
  rw [ClientEntry.dir_setDir, if_pos rfl] at h
  exact h

theorem grantTotal_returnGrant (keep : Nat) (s : State) (d : Dir) (i : Fin Config.clientCount) :
    (returnGrant keep d i s).grantTotal d + s.grant d i = s.grantTotal d + min (s.grant d i) keep := by
  have h := grantTotal_setClient s i
    ((s.client i).setDir d { (s.client i).dir d with grant := min (s.grant d i) keep }) d
  rw [ClientEntry.dir_setDir, if_pos rfl] at h
  exact h

end Sys2Proof.Machine
end

