-- ==== Sys2Proof/Laws/Watch.lean ====
section
/-! SUPPORT. The watch unit watch by watch: counting, restarts and the clearing of overflow flags, over lists of watches
without repeats. -/

namespace Sys2Proof.Machine

theorem watch_countVerdict (v : Delivery) (k j : Fin Config.watchCount) (s : State) :
    (countVerdict v k s).watch j = if j = k then (s.watch k).counted v else s.watch j := by
  unfold countVerdict
  dsimp only
  split <;> simp [watch_setWatch]

/-- Every watch of the list that matches and is not traced counts once; every other stays. -/
theorem watch_countOthers (v : Delivery) (ts ks : List (Fin Config.watchCount)) (hn : ks.Nodup) (s : State)
    (j : Fin Config.watchCount) :
    (countOthers v ts ks s).watch j =
      if j ∈ ks ∧ (s.watch j).isMatch v = true ∧ j ∉ ts then (s.watch j).counted v else s.watch j := by
  induction ks generalizing s with
  | nil => simp [countOthers]
  | cons k rest ih =>
    obtain ⟨hk, hr⟩ := List.nodup_cons.mp hn
    rw [countOthers, ih hr]
    by_cases hj : j = k
    · subst hj
      by_cases hm : (s.watch j).isMatch v = true ∧ j ∉ ts
      · simp [hk, hm, watch_countVerdict]
      · simp only [if_neg hm, hk, false_and, if_false, List.mem_cons, true_or, true_and]
    · by_cases hm : (s.watch k).isMatch v = true ∧ k ∉ ts
      · simp [hm, watch_countVerdict, hj]
      · simp [if_neg hm, hj]

theorem watch_restartTraced (ks : List (Fin Config.watchCount)) (hn : ks.Nodup) (s : State)
    (j : Fin Config.watchCount) :
    (restartTraced ks s).watch j = if j ∈ ks then (s.watch j).restart else s.watch j := by
  induction ks generalizing s with
  | nil => simp [restartTraced]
  | cons k rest ih =>
    obtain ⟨hk, hr⟩ := List.nodup_cons.mp hn
    rw [restartTraced, ih hr]
    by_cases hj : j = k
    · subst hj; simp [hk, watch_setWatch]
    · simp [hj, watch_setWatch]

theorem watch_clearOverflow (v : Word) (ks : List (Fin Config.watchCount)) (hn : ks.Nodup) (s : State)
    (j : Fin Config.watchCount) :
    (clearOverflow v ks s).watch j =
      if j ∈ ks ∧ v.getLsbD (4 + j.val) = true then { s.watch j with overflow := false } else s.watch j := by
  induction ks generalizing s with
  | nil => simp [clearOverflow]
  | cons k rest ih =>
    obtain ⟨hk, hr⟩ := List.nodup_cons.mp hn
    rw [clearOverflow, ih hr]
    by_cases hj : j = k
    · subst hj
      by_cases hv : v.getLsbD (4 + j.val) = true <;> simp [hk, hv, watch_setWatch]
    · by_cases hv : v.getLsbD (4 + k.val) = true <;> simp [hj, hv, watch_setWatch]

theorem allWatches_nodup : allWatches.Nodup := by decide

theorem mem_allWatches (k : Fin Config.watchCount) : k ∈ allWatches := by
  revert k; decide

theorem mem_tracedSet (s : State) (v : Delivery) (k : Fin Config.watchCount) :
    k ∈ s.tracedSet v ↔ (s.watch k).isMatch v = true ∧ (s.watch k).armed = true := by
  simp [State.tracedSet, mem_allWatches]

theorem tracedSet_nodup (s : State) (v : Delivery) : (s.tracedSet v).Nodup := allWatches_nodup.filter _

end Sys2Proof.Machine
end

