-- ==== Sys2Proof/Tests/Slice0.lean ====
section
/-! SUPPORT. Tests: the checks of WellFormed, worked examples of the spec, and for every statement a concrete state and
operands that meet its hypotheses. -/

namespace Sys2Proof.Tests

open Sys2Proof Sys2Proof.Machine

/-! ## WellFormed refuses what it should -/

theorem test_wellFormed_refuses_a_listed_code : (Instr.unknownCommand 12).wellFormed = false := by decide
theorem test_wellFormed_takes_unlisted_codes :
    (Instr.unknownCommand 0).wellFormed = true ∧ (Instr.unknownCommand 13).wellFormed = true := by decide
theorem test_wellFormed_refuses_configWrite_outside :
    (Instr.configWrite 0x3F 0).wellFormed = false ∧ (Instr.configWrite 0x67 0).wellFormed = false := by decide
theorem test_wellFormed_takes_configWrite_at_its_ends :
    (Instr.configWrite 0x40 0).wellFormed = true ∧ (Instr.configWrite 0x66 0).wellFormed = true := by decide
theorem test_wellFormed_refuses_registerWrite_of_a_row :
    (Instr.registerWrite 0x05 0).wellFormed = false ∧ (Instr.registerWrite 0x40 0).wellFormed = false := by decide
theorem test_wellFormed_takes_registerWrite_of_an_argument : (Instr.registerWrite 0x06 0).wellFormed = true := by decide
theorem test_wellFormed_refuses_a_longer_strobe :
    (Instr.strobeEnd 1025).wellFormed = false ∧ (Instr.strobeEnd 1024).wellFormed = true := by decide
theorem test_wellFormed_wants_a_stop_bit_last :
    [Instr.frameReceived 0 [], .carrierIdle [.dominant], .lineByteReceived 0 [.recessive, .dominant]].map Instr.wellFormed =
      [false, false, false] ∧
    [Instr.frameReceived 0 [.recessive], .carrierIdle [.dominant, .recessive],
      .lineByteReceived 0 (byteLevels 0)].map Instr.wellFormed = [true, true, true] := by decide
theorem test_wellFormed_wants_a_dominant_bit_last :
    [Instr.framingError [.recessive], .stuckLine [], .runLengthOverflow [.dominant, .recessive]].map Instr.wellFormed =
      [false, false, false] ∧
    [Instr.framingError [.dominant], .stuckLine [.dominant],
      .runLengthOverflow [.recessive, .dominant]].map Instr.wellFormed = [true, true, true] := by decide
theorem test_wellFormed_wants_the_limit_bit :
    (Instr.busyPeriodLimit []).wellFormed = false ∧ (Instr.busyPeriodLimit [.recessive]).wellFormed = true := by decide
theorem test_wellFormed_wants_a_record_in_progress :
    (Instr.recordStartStrobe 1 [1, 2, 3, 4, 5]).wellFormed = false ∧
      (Instr.recordStartStrobe 1 [1, 2, 3, 4]).wellFormed = true := by decide

/-! ## Worked examples of the spec -/

/-- R63: the check of "123456789". -/
theorem test_crc_example : crc [0x31, 0x32, 0x33, 0x34, 0x35, 0x36, 0x37, 0x38, 0x39] = 0x29B1 := by decide +kernel

/-- R85: the steps the rule works out for station id 2104. -/
theorem test_random_steps :
    stepRandom 0x0838 = 0x041C ∧ stepRandom 0x041C = 0x020E ∧ stepRandom 1 = 0xB400 := by decide

/-- Section 2.9: the train stage and client stage 1 of the worked pass. -/
theorem test_levelSearch_example :
    levelSearch [⟨600, 22⟩, ⟨150, 10⟩, ⟨900, 30⟩] 1000 = 1047 ∧
      levelSearch [⟨200, 4⟩, ⟨60, 2⟩, ⟨40, 2⟩] 130 = 1055 := by decide +kernel

/-- Section 7.8: refill and decision, at an unchanged grant and across a publish; section 7.9: a grant of 0. -/
def bucket (grant committed excess : Nat) (stamp : BitVec 20) : ClientDir :=
  { ClientDir.zero with grant := grant, committed := committed, excess := excess, refillStamp := stamp }

theorem test_refill_example :
    (refillDir ConfigWords.reset false 100005 (bucket 136 4000 27200 100000)).committed = 5360 ∧
      (refillDir ConfigWords.reset false 100150 (bucket 40 7940 200 100020)).committed = 8000 ∧
      (refillDir ConfigWords.reset false 100150 (bucket 40 7940 200 100020)).excess = 8000 ∧
      (refillDir ConfigWords.reset false 4 (bucket 1 0 0 1048570)).committed = 20 := by decide

theorem test_decisions_example :
    (decideDir 9000 (bucket 136 5360 27200 0)).1 = .mark ∧ (decideDir 9000 (bucket 136 5904 200 0)).1 = .drop ∧
      (decideDir 1500 (bucket 136 9440 200 0)).2.committed = 7940 ∧ (decideDir 48 (bucket 0 48 48 0)).1 = .pass := by
  decide

/-- Section 9.8: a watch of bytes that passes the top. -/
theorem test_watch_wraps :
    let w : Watch := { Watch.reset with kind := .bytes, count := 4294965296, traceEnable := true }
    let v : Delivery := ⟨203, .down, 9000, .mark, .metered, 0, 0, 136⟩
    (w.counted v).count = 7000 ∧ (w.counted v).armed = true ∧ (w.counted v).overflow = true := by decide

/-- Table 7-2. -/
theorem test_request_kinds :
    [0x00, 0x01, 0x02, 0x03, 0x04, 0x05, 0x06, 0x07, 0x08].map requestKind =
      [.unknown, .meter .up, .meter .down, .attach .standard, .attach .premium, .attach .operations, .move, .detach,
        .unknown] := by decide

/-- R138: an allowance of 1 MiB and of the most. -/
theorem test_allowance_counts :
    (ClientEntry.free.loadAllowance 1).volume.toNat = 2 ^ 40 - 1048576 ∧
      (ClientEntry.free.loadAllowance 65535).volume.toNat = 2 ^ 40 - 65535 * 1048576 ∧
      (ClientEntry.free.loadAllowance 0).volume = 0 := by decide

/-- R104: lines of its table. -/
def offering (bytes : Nat) : ClientEntry :=
  { ClientEntry.free with
    state := .active, dirs := ⟨{ ClientDir.zero with window1 := bytes }, ClientDir.zero⟩ }

theorem test_demand_estimates :
    [(0, 100), (1, 100), (30000, 100), (250000, 100), (250000, 200), (4294967295, 50)].map
        (fun p => demandEstimate ConfigWords.reset (offering p.1) p.2 .up) = [4, 6, 192, 1567, 786, 65535] ∧
      [(0, 100), (1, 100), (30000, 100), (4294967295, 50)].map
        (fun p => demandEstimate ConfigWords.reset { offering p.1 with tier := .operations } p.2 .up) =
        [0, 2, 188, 16383] := by decide

/-- Section 4.5: the notice of the worked pass has 30 bytes with its sync byte. -/
theorem test_notice_length :
    ({ State.reset with
        se := { ShareEngine.reset with
          dirs := ⟨{ ShareDir.zero with ownDemand := 600, ownWeight := 22, ownReserve := 60 },
            { ShareDir.zero with ownDemand := 1480, ownWeight := 22, ownReserve := 35 }⟩ } } : State).regularNotice.length =
      29 := by decide +kernel

/-- Section 4.6: a received notice with repeats, and its clamps. -/
theorem test_notice_example :
    walkItems .up ⟨Figures.zero, Figures.zero⟩
        ([0x02, 0x90, 0x01, 0x28, 0x23, 0x04, 0xBC, 0x02, 0x01, 0x01, 0x02, 0x00, 0x00, 0x0C, 0x00, 0x01, 0x00, 0x03,
          0x20, 0x4E, 0x01, 0x01, 0x02, 0x2C, 0x01, 0x00, 0x00, 0x00] : List Byte) =
      some ⟨⟨400, 9000, 20000, 700⟩, ⟨300, 0, 0, 0⟩⟩ ∧
    Figures.clamp ⟨400, 9000, 20000, 700⟩ = ⟨400, 8191, 16383, 700⟩ ∧
    Figures.clamp ⟨300, 0, 0, 0⟩ = ⟨300, 1, 0, 0⟩ ∧ Figures.clamp ⟨0, 12, 0, 0⟩ = ⟨0, 0, 0, 0⟩ := by decide +kernel

/-- R82: the bit times of the sync byte, least significant bit first between start and stop bit. -/
theorem test_sync_byte_levels :
    byteLevels 0xD5 = [.dominant, .recessive, .dominant, .recessive, .dominant, .recessive, .dominant, .recessive,
      .recessive, .recessive] := by decide

/-- Tables 7-1 and 7-2: a METER UP of client 259 with length 1,500, its fields low byte first. -/
theorem test_record_of_six_bytes :
    Request.ofRecord [0x11, 0x01, 0x03, 0x01, 0xDC, 0x05] = some ⟨0x11, 0x01, 0x0103, 0x05DC⟩ ∧
      (Request.mk 0x11 0x01 0x0103 0x05DC).index = 259 ∧ (Request.mk 0x11 0x01 0x0103 0x05DC).length = 1500 ∧
      Request.ofRecord [0x11, 0x01, 0x03, 0x01, 0xDC] = none := by decide

/-! ## States that meet the hypotheses of the statements -/

/-- A configuration that passes every check. -/
def cfg : ConfigWords := { ConfigWords.reset with stationId := 7 }

/-- The part in a station state, with a line interface that fits it, two milliseconds before an expiry. -/
def live (station : Station) : State :=
  { State.reset with
    tb := { TimeBase.reset with epochTimer := 2 }
    li := { LineInterface.reset with
      station := station, random := 7
      remembered := if station = .lineFault then .active else .unconfigured
      rx := if station = .unconfigured ∨ station = .lineFault then .off else .waitIdle }
    lw := { LogWriter.reset with index := 0, threshold := 1048576 }
    mp := { MaintPort.reset with cfg := cfg } }

/-- The command with this code runs, with these arguments copied. -/
def running (code : Nat) (arg0 arg1 : Word) (s : State) : State :=
  { s with mp := { s.mp with running := true, started := code, taken0 := arg0, taken1 := arg1 } }

/-- A STANDARD client that holds no grant, ACTIVE. -/
def member : ClientEntry := { ClientEntry.free with state := .active }

def three : Fin Config.clientCount := ⟨3, by decide⟩

/-- Client 3 is `e`. -/
def withClient (e : ClientEntry) (s : State) : State := s.setClient three e

/-- A request for client 3 at the head of the queue. -/
def asking (code : Byte) (argument : Word) (s : State) : State :=
  { s with me := { s.me with queue := [⟨9, code, 3, argument⟩] } }

def slot0 : Fin Config.peerSlots := ⟨0, by decide⟩

/-- A peer in slot 0. -/
def peer (silence limit : Nat) (purge : Bool) : PeerEntry :=
  { station := 9, set := 0, cycle := 3, epochLength := 100, gateway := false, stale := false,
    figures := ⟨Figures.zero, Figures.zero⟩, silence := silence, limit := limit, purge := purge, inView := true }

/-- The bus in a phase, held by a window request. -/
def onBus (phase : BusPhase) (r : WindowRequest) (s : State) : State :=
  { s with mc := { s.mc with phase := phase, owner := .window, granted := some r, ready := false } }

/-- The bus in a phase, held by the log writer, at a word of a record. -/
def recordOnBus (phase : BusPhase) (index : Nat) (s : State) : State :=
  { s with
    lw := { s.lw with writer := .writing, inFlight := some (.idle three 0 ⟨0, 0⟩) }
    mc := { s.mc with
      phase := phase, owner := .log, marker := .write, wordIndex := index, logRequest := some ⟨0, List.replicate 16 5⟩ } }

/-- The line monitor after levels: counts inside and outside a byte, idle after 16, and the run of a stuck line. -/
theorem test_levels_are_counted :
    (((live .active).passLevels (.recessive :: byteLevels 0 ++ [.recessive, .recessive])).li.recessive = 2) ∧
      ((live .active).passLevels (.recessive :: byteLevels 0)).li.busyLength = 10 ∧
      ((live .active).passLevels [.recessive, .dominant, .dominant]).li.byteLeft = 8 ∧
      ((live .active).passLevels (List.replicate 9 .dominant)).li.runLength = 9 := by decide +kernel

theorem test_idle_is_reported_after_sixteen :
    ∃ s t, Answers (.carrierIdle (List.replicate 15 .recessive)) (live .active) s ∧ s.li.carrierIdle = false ∧
      Answers (.carrierIdle [.recessive]) s t ∧ t.li.carrierIdle = true ∧ t.li.rx = .ready :=
  ⟨_, _, rfl, rfl, rfl, rfl, rfl⟩

/-- R183: a read of the identity word and a write of argument 0, bit by bit. -/
theorem test_identity_is_shifted_out :
    (live .active).shiftedOut ((List.range 32).map fun k => (0x80000000 : BitVec 32).getMsbD k) =
      (List.range 32).map fun k => some ((0x00022430 : BitVec 32).getMsbD k) := by decide +kernel

theorem test_argument_is_shifted_in :
    ((live .active).transact ((List.range 32).map fun k => (0x0600BEEF : BitVec 32).getMsbD k)).mp.arg0 = 0xBEEF ∧
      ((live .active).transact ((List.range 31).map fun k => (0x0600BEEF : BitVec 32).getMsbD k)).mp.arg0 = 0 := by
  decide +kernel

theorem client_live (st : Station) (i : Fin Config.clientCount) : (live st).client i = ClientEntry.free := by
  simp [live, State.reset, ClientTable.reset, State.client]

theorem slot_live (st : Station) (k : Fin Config.peerSlots) : (live st).slot k = none := by
  simp [live, State.reset, PeerTable.reset, State.slot]

/-! ### Invariants -/

theorem test_premises_LineAndRestAreKept :
    PartOk (live .active) ∧ ∃ t, step (live .active) = .next t :=
  ⟨⟨⟨by decide, by decide, by decide, by decide, by decide, by decide, by decide, by
      simp [live, Station.onLine], by decide, by decide⟩, fun h => absurd h (by decide)⟩, _, rfl⟩

theorem test_part_in_order_in_lineFault : PartOk (live .lineFault) :=
  ⟨⟨by decide, by decide, by decide, by decide, by decide, by decide, by decide, by
      simp [live, Station.onLine], by decide, by decide⟩, fun h => absurd h (by decide)⟩

/-- A running pass over one member with a grant of 0. -/
def passing (pass : PassState) : State :=
  { withClient member (live .active) with
    se := { ShareEngine.reset with
      pass := pass
      snapshot := some
        { view := [], uplink := ⟨100, 100⟩, members := [⟨three, 0, false, .standard, ⟨10, 10⟩⟩], ops := [], held := false,
          membership := [three] } } }

theorem client_passing (p : PassState) (i : Fin Config.clientCount) :
    (passing p).client i = if i = three then member else ClientEntry.free := by
  show (withClient member (live .active)).client i = _
  simp [withClient, client_setClient, client_live]

theorem grant_passing (p : PassState) (d : Dir) (i : Fin Config.clientCount) : (passing p).grant d i = 0 := by
  rw [State.grant, client_passing]
  split <;> cases d <;> rfl

theorem test_premises_GrantLawIsKept_and_Publish (p : PassState) : SharesOk (passing p) where
  law := ⟨fun d => by rw [grantTotal_zero (grant_passing p d)]; cases d <;> rfl, fun d _ => by cases d <;> rfl⟩
  holders := fun i d _ => grant_passing p d i
  free := fun i h => by
    rw [client_passing] at h ⊢
    split at h
    · simp [member] at h
    · rename_i hi; simp [hi]
  members := fun n hn => by
    obtain rfl : _ = n := Option.some.inj hn
    refine ⟨by decide, by decide, fun i hi => ?_⟩
    obtain rfl : i = three := by simpa using hi
    refine ⟨by simp, ?_⟩
    rw [client_passing, if_pos rfl]
    decide

/-- R36, R8: a capped client and a walk in progress, and a pass in progress. -/
theorem test_premises_capped_and_cycle :
    let s : State := { passing .passDown with tb := { TimeBase.reset with epochTimer := 2, cycleBusy := true } }
    PartOk s ∧ CycleOk s :=
  ⟨⟨test_premises_LineAndRestAreKept.1.line, fun h => absurd h (by decide)⟩, by decide, by decide, by decide⟩

theorem test_premises_capped :
    let s : State := withClient { member with capped := true } (live .active)
    PartOk s ∧ CappedOk s ∧ (s.client three).capped = true := by
  refine ⟨⟨test_premises_LineAndRestAreKept.1.line, fun h => absurd h (by decide)⟩, fun i d h => ?_, ?_⟩
  · simp only [State.grant, withClient, client_setClient, client_live]
    split <;> cases d <;> decide
  · simp only [withClient, client_setClient_self]

theorem test_premises_Publish_runs :
    (passing .passUp).se.snapshot.isSome = true ∧ (passing .passDown).se.pass = .passDown ∧
      ∃ t, step { passing .passUp with pending := [.publish] } = .next t := ⟨rfl, rfl, _, rfl⟩

theorem test_premises_LevelsQueuesAndCounts :
    BucketsOk (live .active) ∧ QueuesOk (live .active) ∧ InputsOk (live .active) ∧ MonitorOk (live .active).li ∧
      ∃ t, step (live .active) = .next t :=
  ⟨fun i d => by rw [client_live]; cases d <;> decide, by unfold QueuesOk; decide, by unfold InputsOk; decide,
    ⟨by decide, by decide, by decide, by decide, by decide, by decide⟩, _, rfl⟩

/-- Peers in slots 0 and 1. -/
def peers : State :=
  ((live .active).setSlot slot0 (some (peer 0 3 false))).setSlot ⟨1, by decide⟩ (some { peer 2 3 true with station := 10 })

theorem slot_peers (k : Fin Config.peerSlots) (e : PeerEntry) (h : peers.slot k = some e) :
    (k = slot0 ∧ e = peer 0 3 false) ∨ (k = ⟨1, by decide⟩ ∧ e = { peer 2 3 true with station := 10 }) := by
  simp only [peers, slot_setSlot, slot_live] at h
  split at h
  · rename_i hk; exact Or.inr ⟨hk, (Option.some.inj h).symm⟩
  · split at h
    · rename_i hk; exact Or.inl ⟨hk, (Option.some.inj h).symm⟩
    · simp at h

theorem test_premises_PeerTable : PeersOk peers where
  entries := fun k e h => by
    rcases slot_peers k e h with ⟨_, rfl⟩ | ⟨_, rfl⟩ <;>
      exact ⟨by decide, fun d => by cases d <;> decide, fun _ d => by cases d <;> decide⟩
  distinct := fun j k e f hj hk h => by
    rcases slot_peers j e hj with ⟨rfl, rfl⟩ | ⟨rfl, rfl⟩ <;> rcases slot_peers k f hk with ⟨rfl, rfl⟩ | ⟨rfl, rfl⟩ <;>
      first | rfl | exact absurd h (by decide)

theorem test_premises_PeerTable_step : PartOk peers ∧ ∃ t, step peers = .next t :=
  ⟨⟨test_premises_LineAndRestAreKept.1.line, fun h => absurd h (by decide)⟩, _, rfl⟩

theorem test_premises_BusStaysInOrder : BusOk (recordOnBus .hold 15 (live .active)) :=
  ⟨by decide, by decide, by decide, by decide, by decide, by decide, by decide, by decide⟩

theorem test_premises_window_BusOk : BusOk (onBus .hold (.read 5) (live .active)) :=
  ⟨by decide, by decide, by decide, by decide, by decide, by decide, by decide, by decide⟩

theorem test_premises_idle_BusOk : BusOk (live .active) :=
  ⟨by decide, by decide, by decide, by decide, by decide, by decide, by decide, by decide⟩

theorem test_premises_LogIndexStaysInTheLog :
    LogOk (recordOnBus .hold 15 (live .active)) ∧ ∃ t, step (recordOnBus .hold 15 (live .active)) = .next t :=
  ⟨⟨fun _ => by unfold ConfigWords.LogAddress; decide, fun _ => by unfold ConfigWords.LogAddress; decide,
    fun _ v h => absurd h (by simp [recordOnBus, live, LogWriter.reset]), fun _ => by decide⟩, _, rfl⟩

/-! ### Rules over all commands -/

theorem test_premises_DeviceReset :
    Memory.wf (onBus .strobe (.write 5 7) { live .active with mem := [(5, 3)] }).mem ∧
      (onBus .strobe (.write 5 7) (live .active)).busAccess = some (.write, 5, 7) := by
  unfold Memory.wf; decide

theorem test_premises_held :
    let s : State := { State.reset with resetLow := true }
    HeldOk s ∧ s.resetLow = true ∧ ∃ t, step s = .next t :=
  ⟨⟨fun _ => by decide, fun _ => by decide, fun _ => by decide⟩, rfl, _, rfl⟩

/-- Out of reset, where every word of the ports acts. -/
theorem test_premises_out_of_reset (st : Station) : (live st).resetLow = false := rfl

theorem test_premises_RecordMemory : Memory.wf (live .active).mem ∧
    ∃ t, Answers (.strobeEnd 0) (onBus .strobe (.write 5 7) (live .active)) t ∧ t.mem ≠ (live .active).mem :=
  ⟨Memory.wf_nil, _, rfl, by decide⟩

theorem test_premises_ConfigurationAndClocks : (running 5 0 0 (live .active)).started = true ∧
    ∃ t, Answers .syncEpoch (running 5 0 0 (live .active)) t ∧ ∀ held, Instr.syncEpoch ≠ .deviceReset held :=
  ⟨by decide, _, rfl, fun _ => by simp⟩

theorem test_premises_FlagsStayRaised : (raise .writeRefused (live .active)).flag .writeRefused = true ∧
    ∃ t, Answers (.interruptFlagsWrite 0x7FFF) (raise .writeRefused (live .active)) t ∧ t.flag .writeRefused = true :=
  ⟨by decide, _, rfl, by decide⟩

theorem test_premises_nothing_waits : (live .active).pending = [] := rfl

/-! ### Time base and station -/

theorem test_premises_Tick : (live .lineFault).started = true ∧ (live .lineFault).tickDue = false ∧
    (live .unconfigured).started = false := by decide

/-- An expiry is due. -/
def expiring (s : State) : State := { s with tb := { s.tb with epochTimer := 0 } }

/-- A gateway one expiry from stale. -/
def gateway (s : State) : State :=
  { s with mp := { s.mp with cfg := { cfg with gateway := 1 } }, pt := { s.pt with staleCount := 15 } }

theorem test_premises_Expiry :
    (expiring peers).started = true ∧ (expiring peers).tb.epochTimer = 0 ∧ InputsOk (expiring peers) ∧
      InputsOk (gateway (expiring peers)) ∧ (gateway (expiring peers)).mp.cfg.gateway = 1 ∧
      (expiring peers).slot slot0 = some (peer 0 3 false) ∧
      (expiring peers).slot ⟨1, by decide⟩ = some { peer 2 3 true with station := 10 } := by
  unfold InputsOk; decide

theorem test_premises_Start :
    (running 1 0 0 (live .unconfigured)).commandRuns 1 = true ∧ (running 1 0 0 (live .unconfigured)).started = false ∧
      cfg.firstInvalid = none ∧ ConfigWords.reset.firstInvalid = some 1 ∧
      { cfg with recordEnables := 4 }.firstInvalid = some 18 ∧ { cfg with epochLength := 1000 }.firstInvalid = none ∧
      { cfg with epochLength := 1001 }.firstInvalid = some 5 ∧ (running 1 0 0 (live .active)).started = true := by decide

theorem test_premises_Restart :
    (running 2 0 0 (live .unconfigured)).commandRuns 2 = true ∧ (running 2 0 0 (live .unconfigured)).started = false ∧
      (running 2 0 0 (live .lineFault)).started = true ∧ (running 2 0 0 (live .silent)).started = true := by decide

theorem test_premises_LeaveAndResume :
    (running 3 0 0 (live .active)).commandRuns 3 = true ∧ (running 3 0 0 (live .active)).li.station = .active ∧
      (running 4 0 0 (live .silent)).commandRuns 4 = true ∧ (running 4 0 0 (live .silent)).li.conflict = false := by
  decide

theorem test_premises_SyncEpoch : (running 5 0 0 (live .listening)).commandRuns 5 = true := by decide

/-! ### Level search and passes -/

theorem test_premises_LevelSearchLimits :
    (∀ i ∈ [Item.mk 65535 8191, ⟨3, 0⟩], i.demand ≤ 65535 ∧ i.weight ≤ 8191) ∧
      (∀ i ∈ [Item.mk 0 5, ⟨3, 0⟩], i.demand = 0 ∨ i.weight = 0) ∧ fill [⟨65535, 1⟩] 4194303 ≤ 65535 := by decide

/-- A walk at an entry. -/
def walking (i : Fin Config.clientCount) (s : State) : State := { s with ct := { s.ct with walk := some ⟨i, 100⟩ } }

theorem test_premises_ClosureStep : (walking three (withClient member (live .active))).ct.walk = some ⟨three, 100⟩ ∧
    ((walking three (withClient member (live .active))).client three).state ≠ .free := by decide +kernel

theorem test_premises_WalkEnds :
    (walking ⟨383, by decide⟩ (live .active)).ct.walk = some ⟨⟨383, by decide⟩, 100⟩ ∧
      (walking ⟨382, by decide⟩ (live .listening)).li.station = .listening := by decide

/-! ### Host commands on clients -/

/-- Client 3 in a state, a tier and blocked or not, with a grant UP, and a command on it. -/
def hosting (code : Nat) (arg1 : Word) (e : ClientEntry) : State := running code 3 arg1 (withClient e (live .active))

theorem client_hosting (code : Nat) (arg1 : Word) (e : ClientEntry) : (hosting code arg1 e).client three = e :=
  client_setClient_self ..

theorem test_premises_ClientCommands :
    (running 6 384 0 (live .active)).mp.taken0.toNat = 384 ∧ (running 8 3 3 (live .active)).commandRuns 8 = true ∧
      (live .active).started = true ∧ (running 6 3 0 (live .active)).mp.taken0.toNat = three.val := by decide

theorem test_premises_hosted (code : Nat) (arg1 : Word) (e : ClientEntry) (h : e.state ≠ .free) :
    (hosting code arg1 e).commandRuns code = true ∧ (hosting code arg1 e).started = true ∧
      (hosting code arg1 e).mp.taken0.toNat = three.val ∧ ((hosting code arg1 e).client three).state ≠ .free :=
  ⟨by simp [State.commandRuns, hosting, running], rfl, rfl, by rw [client_hosting]; exact h⟩

theorem test_premises_Block_and_Unblock :
    ((hosting 6 0 member).client three).blocked = false ∧
      ((hosting 7 0 { member with blocked := true }).client three).blocked = true := by
  simp only [client_hosting]; decide

theorem test_premises_SetTier :
    (hosting 8 2 member).mp.taken1.toNat = Tier.operations.code ∧ (hosting 8 0 member).mp.taken1.toNat = Tier.standard.code ∧
      ((hosting 8 1 { member with tier := .operations }).client three).tier = .operations := by
  simp only [client_hosting]; decide

theorem test_premises_SetAllowance : ((hosting 9 1 member).client three).tier ≠ .operations ∧
    ((hosting 9 1 { member with tier := .operations }).client three).tier = .operations := by
  simp only [client_hosting]; decide

theorem test_premises_Evict : (hosting 10 0 member).lw.writer = .idle ∧ (hosting 10 0 member).lw.queue = [] ∧
    (hosting 10 0 member).lw.index ≠ (hosting 10 0 member).mp.cfg.limit := by decide

theorem test_premises_Reads :
    (running 11 3 0 (live .active)).mp.taken0.toNat = three.val ∧ (running 11 3 0 (live .active)).mp.taken1 = 0 ∧
      (running 11 3 2 (live .active)).mp.taken1 = 2 ∧ (running 11 384 0 (live .active)).mp.taken0.toNat = 384 ∧ (running 11 3 3 (live .active)).mp.taken1.toNat = 3 ∧
      (running 12 29 0 (live .unconfigured)).mp.taken0.toNat = 29 ∧
      (running 12 30 0 (live .unconfigured)).commandRuns 12 = true ∧
      ∃ e, (running 12 0 0 peers).slot slot0 = some e ∧ e.silence < 256 ∧ e.limit < 256 :=
  ⟨by decide, by decide, by decide, by decide, by decide, by decide, by decide, peer 0 3 false, by decide, by decide, by decide⟩

/-! ### Peer table -/

theorem test_premises_CompositionEdge_and_Uplink :
    ({ live .active with pt := { PeerTable.reset with settle := 10 } } : State).pt.settle = 10 ∧
      (gateway (live .active)).mp.cfg.gateway = 1 ∧ (live .active).mp.cfg.gateway ≠ 1 := by decide

/-- A full table, whose entries have the given silence counts by slot. -/
def fullTable (silence : Nat → Nat) : State :=
  { live .active with
    pt := { PeerTable.reset with
      slots := Vector.ofFn fun k => some { peer (silence k.val) 9 false with station := BitVec.ofNat 16 (100 + k.val) } } }

theorem slot_fullTable (f : Nat → Nat) (k : Fin Config.peerSlots) :
    (fullTable f).slot k = some { peer (f k.val) 9 false with station := BitVec.ofNat 16 (100 + k.val) } := by
  simp [State.slot, fullTable]

theorem test_premises_fullTable (f : Nat → Nat) : PeersOk (fullTable f) where
  entries := fun k e h => by
    rw [slot_fullTable] at h
    obtain rfl := Option.some.inj h
    refine ⟨fun h => ?_, fun d => by cases d <;> simp [peer, PerDir.get, Figures.zero],
      fun _ d => by cases d <;> simp [peer, PerDir.get, Figures.zero]⟩
    have hk : k.val < 30 := k.isLt
    have : (BitVec.ofNat 16 (100 + k.val)).toNat = 7 := congrArg BitVec.toNat h
    rw [BitVec.toNat_ofNat] at this
    omega
  distinct := fun j k e g hj hk h => by
    rw [slot_fullTable] at hj hk
    obtain rfl := Option.some.inj hj
    obtain rfl := Option.some.inj hk
    have h1 : j.val < 30 := j.isLt
    have h2 : k.val < 30 := k.isLt
    have : (BitVec.ofNat 16 (100 + j.val)).toNat = (BitVec.ofNat 16 (100 + k.val)).toNat := congrArg BitVec.toNat h
    rw [BitVec.toNat_ofNat, BitVec.toNat_ofNat] at this
    exact Fin.ext (by omega)

/-- All at silence 0, and slot 2 the lowest of the largest silence. -/
theorem test_premises_full_cases :
    (∀ k, ∃ e, (fullTable fun _ => 0).slot k = some e ∧ e.silence = 0) ∧
      ∃ e, (fullTable fun k => if k = 2 ∨ k = 5 then 4 else 1).slot ⟨2, by decide⟩ = some e ∧ 1 ≤ e.silence ∧
        ∀ j f, (fullTable fun k => if k = 2 ∨ k = 5 then 4 else 1).slot j = some f →
          f.silence ≤ e.silence ∧ (j < ⟨2, by decide⟩ → f.silence < e.silence) := by
  refine ⟨fun k => ⟨_, slot_fullTable _ k, rfl⟩, _, slot_fullTable _ _, by decide, fun j f h => ?_⟩
  rw [slot_fullTable] at h
  obtain rfl := Option.some.inj h
  revert j; decide

/-! ### Notices, frames, line -/

theorem test_premises_OwnNotices : (live .active).mp.cfg.firstInvalid = none ∧
    ∀ d, ((live .active).shareDir d).ownDemand ≤ 65535 ∧ ((live .active).shareDir d).ownWeight ≤ 65535 ∧
      ((live .active).shareDir d).ownReserve ≤ 65535 ∧ (live .active).uplinkInForce d ≤ 65535 :=
  ⟨by decide, fun d => by cases d <;> decide⟩

/-- The receiver holds these bytes of a frame and expects so many more. -/
def receiving (bytes : List Byte) (expected : Nat) : State :=
  { live .active with
    li := { (live .active).li with rx := .receiving, rxBytes := bytes, rxExpected := expected } }

/-- The LEAVING notice of a station. -/
def noticeOf (station : Word) : List Byte :=
  ({ live .active with mp := { MaintPort.reset with cfg := { cfg with stationId := station } } } : State).leavingNotice

theorem test_premises_FrameIsJudged (bytes : List Byte) (h : bytes ≠ []) :
    (receiving bytes 1).started = true ∧ (receiving bytes 1).li.expectsCheck = true :=
  ⟨rfl, by cases bytes <;> simp_all [receiving, LineInterface.expectsCheck]⟩

theorem test_frames_of_both_kinds :
    [noticeOf 7, noticeOf 9].map (fun b => (judgeFrame (b.take 7) (ofBytes (b.getD 7 0) (b.getD 8 0))).map (·.station)) =
      [some 7, some 9] ∧ judgeFrame ((noticeOf 9).take 7) 0 = none := by decide +kernel

/-- R62: contexts named more than once, and the last value for a direction. -/
theorem test_last_value_of_each_direction :
    let items : List ListItem :=
      [.load 5 1, .dir .down, .uplink 9, .load 0x0100 3, .dir .up, .dir .up, .load 7 2, .reserve 4]
    let f : PerDir Figures := ⟨⟨7, 2, 4, 0⟩, ⟨256, 3, 0, 9⟩⟩
    walkItems .up ⟨Figures.zero, Figures.zero⟩ (items.flatMap ListItem.bytes ++ [0x00]) = some f ∧
      ⟨listedFigures items .up, listedFigures items .down⟩ = f := by decide

/-- A header, codes and payloads on either side of R72's limits. -/
theorem test_premises_ItemLists :
    (List.replicate 6 (0 : Byte)).length = 6 ∧ 4 < (5 : Byte).toNat ∧ ¬ 4 < (4 : Byte).toNat ∧ 1 < (2 : Byte).toNat ∧
      [(1 : Byte), 0, 1].length < 4 ∧ [(1 : Byte)].length < 2 ∧ [(0 : Byte)] ≠ [] := by decide

theorem test_premises_BytesBuild :
    (live .active).li.expectsCheck = false ∧ (receiving [] 1).li.expectsCheck = false ∧
      (receiving [6] 8).li.expectsCheck = false ∧
      ({ live .active with li := { (live .active).li with rx := .ready } } : State).li.expectsCheck = false ∧
      ({ live .active with li := { (live .active).li with rx := .ready } } : State).li.readback = false ∧
      ({ live .active with li := { (live .active).li with rx := .ready, readback := true } } : State).li.expectsCheck =
        false := by decide

/-- The transmitter in a state, with a notice. -/
def sending (tx : TxState) (attempts : Nat) : State :=
  { live .active with
    li := { (live .active).li with
      tx := tx, notice := some [0], attempts := attempts, carrierIdle := true, recessive := 16, afterRecessive := true } }

/-- R70, section 5.6: an attempt cut by RESTART within its sync byte leaves the other station's frame untaken. -/
theorem test_cut_attempt_stays_readback :
    ∃ s t u, Answers .attemptStart { sending .defer 0 with li := { (sending .defer 0).li with rx := .ready } } s ∧
      Answers .restart (running 2 0 0 s) t ∧ t.li.tx = .idle ∧ t.li.rx = .ready ∧
      Answers (.lineByteReceived 0xD5 (byteLevels 0xD5)) t u ∧ u.li.rx = .waitIdle ∧ u.li.readback = false :=
  ⟨_, _, _, rfl, rfl, rfl, rfl, rfl, rfl, rfl⟩

/-- R70, R87: an attempt whose start bit reads recessive has begun no frame, and the next station's frame is taken. -/
theorem test_hidden_start_bit_leaves_the_next_frame :
    ∃ s t u, Answers .attemptStart { sending .defer 0 with li := { (sending .defer 0).li with rx := .ready } } s ∧
      Answers .readbackMismatch s t ∧ t.li.readback = true ∧
      Answers (.lineByteReceived 0xD5 (.recessive :: byteLevels 0xD5)) t u ∧ u.li.rx = .receiving :=
  ⟨_, _, _, rfl, rfl, rfl, rfl, rfl⟩

theorem test_premises_AttemptStart :
    (sending .defer 0).started = true ∧ ((sending .defer 0).passLevels [.recessive]).li.carrierIdle = true ∧
      ((sending .defer 0).passLevels [.dominant]).li.carrierIdle = false := by decide

theorem test_premises_Transmitter :
    (sending .jitter 0).li.jitterLeft = 0 ∧ (sending .defer 0).li.carrierIdle = true ∧ (sending .backoff 1).li.tx = .backoff ∧
      (sending .sending 1).li.tx = .sending ∧ (sending .sending 7).li.attempts ≤ 7 ∧
      (sending .sending 8).li.attempts = 8 := by decide

/-- The line has been dominant for so many bit times. -/
def dominantFor (n : Nat) (s : State) : State := { s with li := { s.li with runLength := n } }

theorem test_premises_LineFault :
    (live .active).li.station ≠ .lineFault ∧ (live .lineFault).li.station = .lineFault ∧
      2000 ≤ ((dominantFor 1999 (live .active)).passLevels [.dominant]).li.runLength ∧
      ((dominantFor 4094 (live .lineFault)).passLevels [.dominant]).li.runLength = 4095 ∧
      (live .lineFault).mp.cfg.epochLength.toNat ≤
        ({ live .lineFault with li := { (live .lineFault).li with restoration := 100 } } : State).li.restoration := by
  decide +kernel

theorem test_premises_Carrier :
    ((live .active).passLevels (List.replicate 16 .recessive)).li.recessive = 16 ∧
      ((live .active).passLevels [.recessive]).li.busyLength = 0 ∧
      ((live .active).passLevels [.recessive, .dominant]).li.busyLength ≠ 0 ∧
      ((live .active).passLevels (.dominant :: List.replicate 760 .recessive)).li.busyLength = 761 := by decide +kernel

/-! ### Metering port -/

theorem test_premises_Requests :
    (live .active).me.queue.length < 32 ∧ (live .unconfigured).started = false ∧ (live .unconfigured).me.refusal = none ∧
      32 ≤ ({ live .active with me := { MeterEngine.reset with queue := List.replicate 32 ⟨0, 1, 3, 5⟩ } } : State).me.queue.length ∧
      ({ live .active with me := { MeterEngine.reset with refusal := some ⟨1, .busy, .none, 1⟩ } } : State).me.refusal =
        some ⟨1, .busy, .none, 1⟩ := by decide

/-- R121: a request presented just before START is answered NOT_READY behind it. -/
theorem test_refusal_outlives_start :
    let s := running 1 0 0 (live .unconfigured)
    ∃ t u v, Answers (.requestPresented 9 1 (3, 0) (5, 0)) (s.setMe { s.me with partialRecord := [9, 1, 3, 0, 5] }) t ∧
      Answers (.start false) t u ∧ u.li.station = .listening ∧ Answers .refusalSent u v ∧
      v.me.lane = some ⟨9, .notReady, .none, 1⟩ := ⟨_, _, _, rfl, rfl, rfl, rfl, rfl⟩

/-- The six bytes of a record behind the strobe's byte and behind five, and a record in progress that is another's. -/
theorem test_premises_record_in_progress (s : State) :
    (s.setMe { s.me with partialRecord := [9] }).me.partialRecord ++ [1, 3, 0, 5, 0] = [9, 1, 3, 0, 5, 0] ∧
      (s.setMe { s.me with partialRecord := [9, 1, 3, 0, 5] }).me.partialRecord ++ [0] = [9, 1, 3, 0, 5, 0] ∧
      ∀ rest, (s.setMe { s.me with partialRecord := [8] }).me.partialRecord ++ rest ≠ [9, 1, 3, 0, 5, 0] :=
  ⟨rfl, rfl, fun _ h => absurd (List.cons.inj h).1 (by decide)⟩

/-- A record started and completed is queued. -/
theorem test_record_is_queued :
    ∃ s t, Answers (.recordStartStrobe 9 [1, 3]) (live .active) s ∧ Answers (.requestPresented 9 1 (3, 0) (5, 0)) s t ∧
      t.me.queue = [⟨9, 1, 3, 5⟩] := ⟨_, _, rfl, rfl, by decide⟩

/-- The request at the head, on client 3 being `e`. -/
def asked (code : Byte) (argument : Word) (e : ClientEntry) : State := asking code argument (withClient e (live .active))

theorem client_asked (code : Byte) (argument : Word) (e : ClientEntry) : (asked code argument e).client three = e :=
  client_setClient_self ..

theorem turnHead_asked (code : Byte) (argument : Word) (e : ClientEntry) :
    (asked code argument e).turnHead = some ⟨9, code, 3, argument⟩ := rfl

theorem test_premises_Checks :
    requestKind 0x08 = .unknown ∧ (Request.mk 9 0x01 384 5).index = 384 ∧ (Request.mk 9 0x01 0x7FF 5).index = 511 ∧
      (Request.mk 9 0x02 383 0xC000).length = 0 ∧ (Request.mk 9 0x02 383 0).index = 383 := by decide

/-- An ATTACH of group 0 or 1 where one group exists, and a MOVE to the same point. -/
theorem test_premises_Attachment :
    (Request.mk 9 0x03 3 0x0005).group.toNat < cfg.groupCount.toNat ∧
      ¬ (Request.mk 9 0x03 3 0x1005).group.toNat < cfg.groupCount.toNat ∧
      (Request.mk 9 0x03 3 5).index = three.val ∧ ((asked 0x03 5 ClientEntry.free).client three).state = .free ∧
      ((asked 0x06 0 member).client three).group = (Request.mk 9 0x06 3 0).group ∧
      ((asked 0x07 0 member).client three).state ≠ .free := by
  simp only [client_asked]; decide

theorem test_premises_MeterOutside :
    ((asked 0x01 5 { member with blocked := true }).client three).blocked = true ∧
      ((asked 0x01 5 { member with tier := .operations }).client three).tier = .operations ∧
      (Request.mk 9 0x01 3 5).length ≠ 0 := by
  simp only [client_asked]; decide

/-- The most a METER adds to a count that does not cross, and no allowance. -/
theorem test_premises_MeterRefills :
    ((asked 0x02 16383 member).client three).sharing = true ∧ ((asked 0x02 16383 member).client three).allowance = 0 ∧
      (Request.mk 9 0x02 3 16383).length ≠ 0 ∧
      ((asked 0x02 16383 { member with allowance := 1, volume := BitVec.ofNat 40 (2 ^ 40 - 16384) }).client three).volume.toNat +
        (Request.mk 9 0x02 3 16383).length < 2 ^ 40 := by
  simp only [client_asked]; decide

theorem test_premises_MeterWakes : ((asked 0x01 5 { member with state := .idle }).client three).state = .idle ∧
    ((asked 0x01 5 { member with state := .idle }).client three).blocked = false := by
  simp only [client_asked]; decide

/-- The last byte of an allowance, and the byte after it, of an entry not capped. -/
theorem test_premises_Crossing :
    let e : ClientEntry := { member with allowance := 1, volume := BitVec.ofNat 40 (2 ^ 40 - 16383) }
    e.volumeCounts .pass .metered = true ∧ e.volume.toNat + 16383 = 2 ^ 40 ∧ e.volume.toNat + 16382 < 2 ^ 40 ∧
      e.capped = false := by decide

/-- A METER that crosses while its direction is unshared, and one that its committed bucket admits. -/
theorem test_premises_crossing_METER :
    let e : ClientEntry := { member with allowance := 1, volume := BitVec.ofNat 40 (2 ^ 40 - 5) }
    ((asked 0x01 5 e).client three).sharing = true ∧ ((asked 0x01 5 e).shareDir .up).sharesValid = false ∧
      ((asked 0x01 5 e).client three).capped = false ∧ ((asked 0x01 5 e).client three).allowance ≠ 0 ∧
      2 ^ 40 ≤ ((asked 0x01 5 e).client three).volume.toNat + (Request.mk 9 0x01 3 5).length ∧
      (Request.mk 9 0x01 3 5).length ≤ min (max 2048 (2 * 0 * 100)) (5 + 2 * 0 * 3) := by
  simp only [client_asked]; decide

/-- The crossing METER caps its client. -/
theorem test_crossing_METER_caps :
    ∃ t, Answers .meter (asked 0x01 5 { member with allowance := 1, volume := BitVec.ofNat 40 (2 ^ 40 - 5) }) t ∧
      (t.client three).capped = true ∧ (t.client three).volume = 0 ∧ t.flag .clientCapped = true :=
  ⟨_, rfl, rfl, rfl, rfl⟩

/-! ### Watches, log, bus, port -/

theorem test_premises_WatchWords : ((live .active).watch 0).maskEmpty = true ∧
    ({ Watch.reset with maskUp := true, maskDrop := true } : Watch).maskEmpty = false := by decide

/-- Watch 0 armed and matching every PASS upward, watch 1 one frame from its top. -/
def watched : State :=
  let w : Watch := { Watch.reset with enable := true, scopeAll := true, maskUp := true, maskPass := true, traceEnable := true }
  ((live .active).setWatch 0 { w with armed := true, overflow := true }).setWatch 1 { w with count := 0xFFFFFFFF }

/-- A delivery that watch 0 traces and that overflows watch 1, whose flags its record shows. -/
theorem test_premises_Delivery :
    let v : Delivery := ⟨three, .up, 64, .pass, .unshared, 0, 0, 0⟩
    watched.tracedSet v = [0] ∧ watched.lw.writer = .idle ∧ watched.lw.queue = [] ∧
      watched.lw.index ≠ watched.mp.cfg.limit ∧
      (deliverVerdict v watched).lw.inFlight =
        some (.trace [true, false, false, false] [true, true, false, false] v 0 0) ∧
      (live .active).tracedSet v = [] := by decide +kernel

theorem test_premises_LogWords :
    (live .active).started = true ∧ (live .unconfigured).started = false ∧ cfg.LogAddress 0 ∧ cfg.LogAddress 16 ∧
      ¬ cfg.LogAddress 8 ∧ cfg.LogAddress 1048576 ∧ ¬ cfg.LogAddress 1048592 := by
  unfold ConfigWords.LogAddress; decide

theorem test_premises_Offered :
    (live .active).lw.writer = .idle ∧ (live .active).lw.index ≠ (live .active).mp.cfg.limit ∧
      ({ live .active with lw := { LogWriter.reset with index := 1048576 } } : State).lw.index = cfg.limit ∧
      (recordOnBus .hold 3 (live .active)).lw.writer = .writing := by decide

/-- An IDLE writer while the window holds the bus, and a full queue, which is in order. -/
theorem test_premises_Offered_bus_held_and_full_queue :
    let s := recordOnBus .hold 3 (live .active)
    let full : State := { s with lw := { s.lw with queue := List.replicate 8 (.idle three 1 ⟨0, 0⟩) } }
    (onBus .hold (.read 5) (live .active)).lw.writer = .idle ∧ (onBus .hold (.read 5) (live .active)).mc.phase ≠ .idle ∧
      (live .active).mc.phase = .idle ∧ 8 ≤ full.lw.queue.length ∧ full.lw.writer = .writing ∧ BusOk full ∧
      BusOk (onBus .hold (.read 5) (live .active)) :=
  ⟨by decide, by decide, by decide, by decide, rfl,
    ⟨by decide, by decide, by decide, by decide, by decide, by decide, by decide, by decide⟩,
    ⟨by decide, by decide, by decide, by decide, by decide, by decide, by decide, by decide⟩⟩

theorem test_premises_WindowWords :
    (recordOnBus .hold 3 (live .active)).mc.phase ≠ .idle ∧ (live .active).mc.phase = .idle ∧
      (live .active).mc.ready = true ∧ (onBus .hold (.read 5) (live .active)).mc.ready = false ∧
      (recordOnBus .hold 3 (live .active)).mc.ready = true ∧ (recordOnBus .hold 3 (live .active)).started = true := by decide

theorem test_premises_AccessPhases :
    (onBus .turnaround (.read 5) (live .active)).mc.owner = .window ∧
      (recordOnBus .turnaround 0 (live .active)).mc.owner = .log ∧ (onBus .setup (.read 5) (live .active)).mc.phase = .setup ∧
      (onBus .strobe (.read 5) (live .active)).busAccess = some (.read, 5, 0) ∧
      (recordOnBus .strobe 15 (live .active)).busAccess = some (.write, 15, 5) ∧
      1024 ≤ (cfg.waitLimit.toNat + 1) * 16 := by decide

theorem test_premises_WaitTimeout :
    ({ onBus .strobe (.write 5 7) (live .active) with
        mp := { MaintPort.reset with cfg := { cfg with waitEnable := 1 } } } : State).mp.cfg.waitEnable = 1 ∧
      Memory.wf (onBus .strobe (.write 5 7) (live .active)).mem := ⟨by decide, Memory.wf_nil⟩

theorem test_premises_AccessEnds :
    (recordOnBus .hold 14 (live .active)).mc.wordIndex < 15 ∧ 15 ≤ (recordOnBus .hold 15 (live .active)).mc.wordIndex ∧
      (recordOnBus .hold 15 (live .active)).lw.queue = [] ∧ (recordOnBus .hold 15 (live .active)).mc.timedOut = false ∧
      (onBus .hold (.read 5) (live .active)).mc.granted = some (.read 5) := by
  decide

/-- A record behind the one in flight: taken at its end, or lost where the end fills the log. -/
theorem test_premises_waiting_records :
    let s := recordOnBus .hold 15 (live .active)
    let r : Record := .idle three 1 ⟨0, 0⟩
    let waiting : State := { s with lw := { s.lw with queue := [r] } }
    let last : State := { waiting with lw := { waiting.lw with index := 1048560 } }
    waiting.mc.phase = .hold ∧ waiting.mc.owner = .log ∧ waiting.lw.index + 16 ≠ waiting.mp.cfg.limit ∧
      last.lw.index + 16 = last.mp.cfg.limit ∧ BusOk waiting ∧ BusOk last :=
  ⟨rfl, rfl, by decide, by decide, ⟨by decide, by decide, by decide, by decide, by decide, by decide, by decide, by decide⟩,
    ⟨by decide, by decide, by decide, by decide, by decide, by decide, by decide, by decide⟩⟩

theorem test_premises_PortWords :
    (live .unconfigured).started = false ∧ (live .active).started = true ∧ (0x40 : BitVec 7).toNat = 0x40 ∧
      (0x66 : BitVec 7).toNat ≤ 0x66 ∧ (0x67 : BitVec 7).toNat = 0x67 ∧ 8 ≤ (List.replicate 8 false).length ∧
      (refuseWrite .locked 0x40 (live .active)).mp.refused = some (.locked, 0x40) ∧
      (live .active).mp.refused = none := by decide

set_option maxRecDepth 4000 in
/-- A read of 20 edges of the log index low word stands: the latch holds the index's high part. Of the word's bits the host has
received the four highest, and the rest is lost. -/
theorem test_short_read_stands :
    let s : State := { live .active with lw := { LogWriter.reset with index := 0x1C010 } }
    let bits := true :: (List.range 7).map (fun k => (0x0C : BitVec 7).getMsbD k) ++ List.replicate 12 false
    (s.transact bits).lw.indexLatch = 1 ∧ (s.transact bits).mp.dataOut = 0 ∧
      (s.shiftedOut bits).drop 16 = [some true, some true, some false, some false] := ⟨rfl, rfl, rfl⟩

/-- The select input is inactive where a transaction begins, and active with it. -/
theorem test_premises_select :
    (live .active).mp.serial.selected = false ∧ (beginTransaction (live .active)).mp.serial.selected = true ∧
      (beginTransaction (live .active)).mp.serial.active = true ∧ (beginTransaction (live .active)).mp.serial.edges < 32 :=
  ⟨rfl, rfl, rfl, by decide⟩

/-- R193: a transaction that device reset cuts in the middle goes on without effect until select has been inactive. -/
theorem test_reset_cuts_a_transaction :
    ∃ t, Answers (.deviceReset true) (clockPulse true (beginTransaction (live .active))) t ∧
      t.mp.serial.selected = true ∧ t.dataOutput = some false ∧ clockPulse true t = t ∧
      (endTransaction t).dataOutput = none ∧ (endTransaction t).mp.serial.active = false :=
  ⟨_, rfl, rfl, rfl, rfl, rfl, rfl⟩

theorem test_premises_Commands :
    (live .active).mp.running = false ∧ (running 5 0 0 (live .active)).mp.running = true ∧ (12 : Word).toNat ≤ 12 ∧
      12 < (13 : Word).toNat := by decide

/-! ### Steps end to end -/

/-- A configuration word, an accepted command, and START bring the part up in LISTENING. -/
theorem test_start_brings_the_part_up :
    ∃ t, step { running 1 0 0 (live .unconfigured) with pending := [.start false] } = .next t ∧
      t.li.station = .listening ∧ t.lw.threshold = 1048576 ∧ t.flag .commandDone = true := ⟨_, rfl, by decide, by decide, by decide⟩

/-- A METER of a member before any publish passes UNSHARED. -/
theorem test_meter_passes_unshared :
    ∃ t, Answers .meter (asked 0x01 64 member) t ∧ t.me.lane = some ⟨9, .pass, .unshared, 0x01⟩ ∧ t.me.queue = [] :=
  ⟨_, rfl, rfl, rfl⟩

end Sys2Proof.Tests
end

section
/-! ## Proofs: the level search (R11, R14) -/

namespace Sys2Proof.Machine

/-! ### What the search answers -/

theorem levelSearch_le_top (items : List Item) (amount : Nat) : levelSearch items amount ≤ 4194303 := by
  have h := (probeBits_spec items amount 22 0 (by simp [fill])).2.1
  unfold levelSearch
  omega

/-- R11: a level in range fits exactly when it is not above the level found. -/
theorem fill_le_iff_le_levelSearch (items : List Item) (amount : Nat) {level : Nat} (h : level ≤ 4194303) :
    fill items level ≤ amount ↔ level ≤ levelSearch items amount :=
  (probeBits_spec items amount 22 0 (by simp [fill])).2.2 level (Nat.zero_le _) (by omega)

theorem fill_levelSearch_le (items : List Item) (amount : Nat) :
    fill items (levelSearch items amount) ≤ amount :=
  (fill_le_iff_le_levelSearch items amount (levelSearch_le_top items amount)).2 (Nat.le_refl _)

theorem levelSearch_eq_top_iff (items : List Item) (amount : Nat) :
    levelSearch items amount = 4194303 ↔ fill items 4194303 ≤ amount := by
  have := levelSearch_le_top items amount
  rw [fill_le_iff_le_levelSearch items amount (Nat.le_refl _)]
  omega

/-- The search sees its items through their fill alone. -/
theorem levelSearch_congr {items items' : List Item} (h : ∀ level, fill items level = fill items' level)
    (amount : Nat) : levelSearch items amount = levelSearch items' amount := by
  apply Nat.le_antisymm
  · rw [← fill_le_iff_le_levelSearch items' amount (levelSearch_le_top _ _), ← h]
    exact fill_levelSearch_le items amount
  · rw [← fill_le_iff_le_levelSearch items amount (levelSearch_le_top _ _), h]
    exact fill_levelSearch_le items' amount

theorem fill_perm {items items' : List Item} (h : items.Perm items') (level : Nat) :
    fill items level = fill items' level :=
  (h.map _).sum_nat

theorem levelSearch_perm {items items' : List Item} (h : items.Perm items') (amount : Nat) :
    levelSearch items amount = levelSearch items' amount :=
  levelSearch_congr (fill_perm h) amount

/-! ### At the limits -/

theorem fill_eq_zero_iff (items : List Item) (level : Nat) :
    fill items level = 0 ↔ ∀ i ∈ items, i.allocation level = 0 := by
  simp [fill, List.sum_eq_zero_iff_forall_eq_nat]

theorem Item.allocation_eq_zero_iff (i : Item) (level : Nat) :
    i.allocation level = 0 ↔ (0 < i.demand → i.weight * level < 64) := by
  unfold Item.allocation
  omega

theorem Item.allocation_of_no_claim {i : Item} (h : i.demand = 0 ∨ i.weight = 0) (level : Nat) :
    i.allocation level = 0 := by
  rcases h with h | h
  · simp [Item.allocation, h]
  · exact Item.allocation_of_weight_zero h level

/-- At the top level, 65,535 and 63/64 per unit of weight, a 16-bit demand is met in full. -/
theorem Item.allocation_top {i : Item} (hd : i.demand ≤ 65535) (hw : 1 ≤ i.weight) :
    i.allocation 4194303 = i.demand := by
  unfold Item.allocation
  have : 1 * 4194303 ≤ i.weight * 4194303 := Nat.mul_le_mul_right _ hw
  omega

theorem fill_top (items : List Item) (hd : ∀ i ∈ items, i.demand ≤ 65535) :
    fill items 4194303 = ((items.filter fun i => 1 ≤ i.weight).map Item.demand).sum := by
  induction items with
  | nil => rfl
  | cons i rest ih =>
    rw [fill_cons, ih fun j hj => hd j (List.mem_cons_of_mem _ hj)]
    by_cases hw : 1 ≤ i.weight
    · simp [hw, Item.allocation_top (hd i List.mem_cons_self) hw]
    · have hw' : i.weight = 0 := by omega
      simp [hw', Item.allocation_of_weight_zero hw']

theorem fill_append_of_weight_zero (items : List Item) {more : List Item} (h : ∀ i ∈ more, i.weight = 0)
    (level : Nat) : fill (items ++ more) level = fill items level := by
  have : fill more level = 0 :=
    (fill_eq_zero_iff more level).2 fun i hi => Item.allocation_of_weight_zero (h i hi) level
  rw [fill_append, this, Nat.add_zero]

/-! ### The statements -/

/-- Settles O21: the probes decide fitting for every level of their range, and see the items through the fill alone. -/
theorem levelSearchFindsTheLargestLevel : Obligations.LevelSearchFindsTheLargestLevel := by
  intro items amount
  refine ⟨fun _ => rfl, by simp [fill], fun _ _ h => fill_mono items h, levelSearch_le_top items amount,
    fun _ h => fill_le_iff_le_levelSearch items amount h, fun i _ => ⟨rfl, i.allocation_le_demand _⟩,
    fill_levelSearch_le items amount, fun _ h => levelSearch_perm h.symm amount⟩

/-- Settles O22: the five limits of R14, each from the level the search finds there. -/
theorem levelSearchAtItsLimits : Obligations.LevelSearchAtItsLimits := by
  intro items amount hrange top given
  have hfits : fill items top ≤ amount := fill_levelSearch_le items amount
  refine ⟨?_, ?_, ?_, fun i _ hw => Item.allocation_of_weight_zero hw _,
    fun more amount' hmore => levelSearch_congr (fill_append_of_weight_zero items hmore) amount'⟩
  · intro hzero
    refine ⟨fun level hlevel => ?_, (fill_eq_zero_iff items top).1 (by omega), by omega⟩
    rw [← fill_le_iff_le_levelSearch items amount hlevel, hzero, Nat.le_zero, fill_eq_zero_iff]
    exact forall₂_congr fun i _ => i.allocation_eq_zero_iff level
  · intro hnone
    have hempty (level : Nat) : fill items level = 0 :=
      (fill_eq_zero_iff items level).2 fun i hi => Item.allocation_of_no_claim (hnone i hi) level
    have hgiven : given = 0 := hempty top
    exact ⟨(levelSearch_eq_top_iff items amount).2 (by rw [hempty]; omega),
      fun i hi => Item.allocation_of_no_claim (hnone i hi) top, by rw [hgiven]; rfl⟩
  · intro hall
    have htop : top = 4194303 := (levelSearch_eq_top_iff items amount).2 hall
    have hgiven : given = fill items 4194303 := by rw [← htop]; rfl
    rw [htop, hgiven, fill_top items fun i hi => (hrange i hi).1]
    exact ⟨rfl, fun i hi hw => Item.allocation_top (hrange i hi).1 hw, rfl⟩

end Sys2Proof.Machine
end

section
/-! ## Proofs: what a command can do to the grants, the shares and the cycle -/

namespace Sys2Proof.Machine

/-! ### One client's standing -/

/-- R28: a client that does not share holds no grant. -/
def HoldsAsSharer (s : State) (i : Fin Config.clientCount) : Prop :=
  (s.client i).sharing = false → ∀ d, s.grant d i = 0

/-- R95: a FREE entry has every field 0. -/
def ClearIfFree (s : State) (i : Fin Config.clientCount) : Prop :=
  (s.client i).state = .free → s.client i = ClientEntry.free

/-- R36: a capped client's grants are within the capped rate. -/
def WithinCap (s : State) (i : Fin Config.clientCount) : Prop :=
  (s.client i).capped = true → ∀ d, s.grant d i ≤ s.mp.cfg.cappedRate.toNat

/-- The entries agree in what makes a sharing client, in the CAPPED flag, and in the grants. -/
structure ClientEntry.SameStanding (e f : ClientEntry) : Prop where
  state : f.state = e.state
  tier : f.tier = e.tier
  blocked : f.blocked = e.blocked
  capped : f.capped = e.capped
  grant : ∀ d, (f.dir d).grant = (e.dir d).grant

theorem ClientEntry.SameStanding.refl (e : ClientEntry) : e.SameStanding e := ⟨rfl, rfl, rfl, rfl, fun _ => rfl⟩

theorem ClientEntry.SameStanding.sharing {e f : ClientEntry} (h : e.SameStanding f) : f.sharing = e.sharing := by
  simp [ClientEntry.sharing, h.state, h.tier, h.blocked]

/-- A direction rewritten with its grant kept. -/
theorem ClientEntry.SameStanding.setDir (e : ClientEntry) (d : Dir) {x : ClientDir} (h : x.grant = (e.dir d).grant) :
    e.SameStanding (e.setDir d x) where
  state := rfl
  tier := rfl
  blocked := rfl
  capped := rfl
  grant d' := by
    rw [ClientEntry.dir_setDir]
    split
    · next hd => rw [h, hd]
    · rfl

theorem ClientEntry.SameStanding.trans {e f g : ClientEntry} (h : e.SameStanding f) (k : f.SameStanding g) :
    e.SameStanding g where
  state := k.state.trans h.state
  tier := k.tier.trans h.tier
  blocked := k.blocked.trans h.blocked
  capped := k.capped.trans h.capped
  grant d := (k.grant d).trans (h.grant d)

/-- Both directions rewritten with their grants kept. -/
theorem ClientEntry.SameStanding.mapDirs (e : ClientEntry) {f : ClientDir → ClientDir}
    (h : ∀ x, (f x).grant = x.grant) : e.SameStanding { e with dirs := e.dirs.map f } where
  state := rfl
  tier := rfl
  blocked := rfl
  capped := rfl
  grant d := by simp [ClientEntry.dir, h]

theorem ClientEntry.sameStanding_fillBuckets (c : ConfigWords) (stamp : BitVec 20) (e : ClientEntry) :
    e.SameStanding (e.fillBuckets c stamp) := .mapDirs e fun _ => rfl

theorem ClientEntry.sameStanding_closeDir (c : ConfigWords) (length : Nat) (d : Dir) (e : ClientEntry) :
    e.SameStanding (e.closeDir c length d) := by
  apply ClientEntry.SameStanding.setDir
  unfold ClientDir.clearWindow
  split <;> rfl

theorem ClientEntry.sameStanding_closed (c : ConfigWords) (length : Nat) (e : ClientEntry) :
    e.SameStanding (e.closed c length) := by
  have h := (e.sameStanding_closeDir c length .up).trans (ClientEntry.sameStanding_closeDir c length .down _)
  exact ⟨h.state, h.tier, h.blocked, h.capped, h.grant⟩

theorem ClientEntry.sameStanding_countWindow (d : Dir) (length : Nat) (e : ClientEntry) :
    e.SameStanding (e.countWindow d length) := by
  apply ClientEntry.SameStanding.setDir
  split <;> rfl

theorem ClientEntry.sameStanding_countVerdict (d : Dir) (length : Nat) (v : Verdict) (why : Reason) (e : ClientEntry) :
    e.SameStanding (e.countVerdict d length v why) := by
  have h := e.sameStanding_countWindow d length
  unfold ClientEntry.countVerdict
  split
  · exact ⟨rfl, rfl, rfl, rfl, fun _ => rfl⟩
  all_goals exact ⟨h.state, h.tier, h.blocked, h.capped, h.grant⟩

theorem ClientEntry.sameStanding_flip (e : ClientEntry) : e.SameStanding e.flip := by
  unfold ClientEntry.flip
  split <;> exact ⟨rfl, rfl, rfl, rfl, fun _ => rfl⟩

theorem decideDir_grant (length : Nat) (x : ClientDir) : (decideDir length x).2.grant = x.grant := by
  unfold decideDir
  split
  · rfl
  · split <;> rfl

/-! ### Nothing of it -/

/-- The share engine, the client table, the cycle busy marker and the configuration are as they were. -/
structure Untouched (s t : State) : Prop where
  se : t.se = s.se
  ct : t.ct = s.ct
  busy : t.tb.cycleBusy = s.tb.cycleBusy
  cfg : t.mp.cfg = s.mp.cfg

theorem Untouched.refl (s : State) : Untouched s s := ⟨rfl, rfl, rfl, rfl⟩

theorem Untouched.trans {s t u : State} (h : Untouched s t) (k : Untouched t u) : Untouched s u :=
  ⟨k.se.trans h.se, k.ct.trans h.ct, k.busy.trans h.busy, k.cfg.trans h.cfg⟩

theorem Untouched.ite {p : Prop} [Decidable p] {s t u : State} (h : Untouched s t) (k : Untouched s u) :
    Untouched s (if p then t else u) := by
  split
  · exact h
  · exact k

theorem Untouched.outOfReset {s t : State} (h : Untouched s t) : Untouched s (outOfReset s t) :=
  .ite (.refl s) h

theorem Untouched.client {s t : State} (h : Untouched s t) (i : Fin Config.clientCount) :
    t.client i = s.client i := by simp [State.client, h.ct]

theorem Untouched.shareDir {s t : State} (h : Untouched s t) (d : Dir) : t.shareDir d = s.shareDir d := by
  simp [State.shareDir, h.se]

theorem Untouched.grant {s t : State} (h : Untouched s t) (d : Dir) (i : Fin Config.clientCount) :
    t.grant d i = s.grant d i := by simp [State.grant, h.client]

theorem endCommand_untouched (o : CommandOutcome) (s : State) : Untouched s (endCommand o s) := ⟨rfl, rfl, rfl, rfl⟩

theorem refuseWrite_untouched (c : RefusedCause) (a : BitVec 7) (s : State) : Untouched s (refuseWrite c a s) :=
  ⟨rfl, rfl, rfl, rfl⟩

theorem setLine_untouched (l : LineInterface) (s : State) : Untouched s (s.setLine l) := ⟨rfl, rfl, rfl, rfl⟩

theorem passLevels_untouched (line : List LineLevel) (s : State) : Untouched s (s.passLevels line) :=
  ⟨rfl, rfl, rfl, rfl⟩

theorem setWatch_untouched (k : Fin Config.watchCount) (w : Watch) (s : State) : Untouched s (s.setWatch k w) :=
  ⟨rfl, rfl, rfl, rfl⟩

theorem respond_untouched (r : Request) (o : RspOutcome) (y : Reason) (s : State) : Untouched s (respond r o y s) :=
  ⟨rfl, rfl, rfl, rfl⟩

theorem dequeue_untouched (s : State) : Untouched s (dequeue s) := ⟨rfl, rfl, rfl, rfl⟩

theorem placeWindowRequest_untouched (r : WindowRequest) (m : MemController) (s : State) :
    Untouched s (placeWindowRequest r { s with mc := m }) := by constructor <;> simp

theorem offerRecord_untouched (r : Record) (s : State) : Untouched s (offerRecord r s) := by
  constructor <;> simp

theorem deliverVerdict_untouched (v : Delivery) (s : State) : Untouched s (deliverVerdict v s) := by
  constructor <;> simp

theorem sendLeaving_untouched (s : State) : Untouched s (sendLeaving s) := by constructor <;> simp

theorem failAttempt_untouched (s : State) : Untouched s (failAttempt s) := by constructor <;> simp

theorem receiveByte_untouched (b : Byte) (s : State) : Untouched s (receiveByte b s) := by constructor <;> simp

theorem receiveCheck_untouched (b : Byte) (s : State) : Untouched s (receiveCheck b s) := by constructor <;> simp

theorem enterLineFault_untouched (s : State) : Untouched s (enterLineFault s) := by constructor <;> simp

theorem restoreStation_untouched (s : State) : Untouched s (restoreStation s) := by constructor <;> simp

theorem completeRecord_untouched (bytes : List Byte) (s : State) : Untouched s (completeRecord bytes s) := by
  constructor <;> simp

theorem endStrobe_untouched (n : Nat) (s : State) : Untouched s (endStrobe n s) := by constructor <;> simp

theorem endStrobeTimedOut_untouched (s : State) : Untouched s (endStrobeTimedOut s) := by constructor <;> simp

theorem endAccess_untouched (s : State) : Untouched s (endAccess s) := by constructor <;> simp

theorem takeEdge_untouched (s : State) : Untouched s (takeEdge s) := by constructor <;> simp

theorem clearOverflow_untouched (v : Word) (ks : List (Fin Config.watchCount)) (s : State) :
    Untouched s (clearOverflow v ks s) := by constructor <;> simp

theorem leaveTrain_untouched (s : State) : Untouched s (leaveTrain s) :=
  .ite (((setLine_untouched _ s).trans (sendLeaving_untouched _)).trans (endCommand_untouched _ _))
    (endCommand_untouched _ s)

theorem resumeStation_untouched (s : State) : Untouched s (resumeStation s) :=
  .ite ((setLine_untouched _ s).trans (endCommand_untouched _ _)) (endCommand_untouched _ s)

theorem syncEpoch_untouched (s : State) : Untouched s (syncEpoch s) :=
  .ite ⟨rfl, rfl, rfl, rfl⟩ (endCommand_untouched _ s)

theorem setWindow_untouched (ws : List Word) (s : State) : Untouched s (setWindow ws s) := ⟨rfl, rfl, rfl, rfl⟩

theorem readClientPage_untouched (s : State) : Untouched s (readClientPage s) := by
  unfold readClientPage
  split
  · exact endCommand_untouched _ s
  · split
    · exact endCommand_untouched _ s
    · exact (setWindow_untouched _ s).trans (endCommand_untouched _ _)

theorem readPeerSlot_untouched (s : State) : Untouched s (readPeerSlot s) := by
  unfold readPeerSlot
  split
  · exact endCommand_untouched _ s
  · exact (setWindow_untouched _ s).trans (endCommand_untouched _ _)

theorem writeCommandCode_untouched (code : Word) (s : State) : Untouched s (writeCommandCode code s) :=
  .ite ⟨rfl, rfl, rfl, rfl⟩ (.ite ⟨rfl, rfl, rfl, rfl⟩ ⟨rfl, rfl, rfl, rfl⟩)

theorem writeUplink_untouched (d : Dir) (v : Word) (s : State) : Untouched s (writeUplink d v s) :=
  .ite ⟨rfl, rfl, rfl, rfl⟩ (refuseWrite_untouched _ _ s)

theorem writeLogIndexLow_untouched (v : Word) (s : State) : Untouched s (writeLogIndexLow v s) := by
  refine .ite (refuseWrite_untouched _ _ s) (.ite (refuseWrite_untouched _ _ s) ?_)
  split <;> exact ⟨rfl, rfl, rfl, rfl⟩

theorem writeThresholdLow_untouched (v : Word) (s : State) : Untouched s (writeThresholdLow v s) :=
  .ite (refuseWrite_untouched _ _ s) (.ite (refuseWrite_untouched _ _ s) ⟨rfl, rfl, rfl, rfl⟩)

theorem writeMemAddrLow_untouched (v : Word) (s : State) : Untouched s (writeMemAddrLow v s) :=
  .ite (refuseWrite_untouched _ _ s) (placeWindowRequest_untouched _ _ s)

theorem writeMemAddrHigh_untouched (v : Word) (s : State) : Untouched s (writeMemAddrHigh v s) :=
  .ite (refuseWrite_untouched _ _ s) ⟨rfl, rfl, rfl, rfl⟩

theorem writeMemData_untouched (v : Word) (s : State) : Untouched s (writeMemData v s) :=
  .ite (refuseWrite_untouched _ _ s) (placeWindowRequest_untouched _ _ s)

theorem fetchNext_untouched (s : State) : Untouched s (fetchNext s) :=
  .ite (placeWindowRequest_untouched _ _ s) (.refl s)

theorem writeWatchCountLow_untouched (k : Fin Config.watchCount) (v : Word) (s : State) :
    Untouched s (writeWatchCountLow k v s) := .ite (refuseWrite_untouched _ _ s) (setWatch_untouched _ _ s)

theorem writeWatchWord_untouched (k : Fin Config.watchCount) (place : Nat) (v : Word) (s : State) :
    Untouched s (writeWatchWord k place v s) := by
  unfold writeWatchWord
  split
  case h_3 => exact writeWatchCountLow_untouched k v s
  all_goals exact setWatch_untouched _ _ s

end Sys2Proof.Machine
end

section
/-! ## Proofs: operations on one client -/

namespace Sys2Proof.Machine

/-- Everything that an operation on one client can do to grants, shares and cycle: it moves amounts between that client's
grants and the remainders, and where it ends the client's sharing it strikes the client from a running pass's list. -/
structure ClientTurn (i : Fin Config.clientCount) (s t : State) : Prop where
  others : OthersKept i s t
  shares : SharesKept s t
  busy : t.tb.cycleBusy = s.tb.cycleBusy
  cfg : t.mp.cfg = s.mp.cfg
  moved : HoldsAsSharer s i → ∀ d,
    t.grant d i + (t.shareDir d).remainder = s.grant d i + (s.shareDir d).remainder
  holds : HoldsAsSharer s i → HoldsAsSharer t i
  clear : ClearIfFree s i → ClearIfFree t i
  capped : WithinCap s i → WithinCap t i
  list : (t.se.snapshot = s.se.snapshot ∧ ((s.client i).sharing = true → (t.client i).sharing = true)) ∨ Struck i s t

theorem Struck.of_eq_left {i : Fin Config.clientCount} {s t u : State} (h : t.se.snapshot = s.se.snapshot)
    (k : Struck i t u) : Struck i s u := by
  unfold Struck at *
  rw [k, h]

theorem Struck.of_eq_right {i : Fin Config.clientCount} {s t u : State} (h : Struck i s t)
    (k : u.se.snapshot = t.se.snapshot) : Struck i s u := k.trans h

theorem Struck.trans {i : Fin Config.clientCount} {s t u : State} (h : Struck i s t) (k : Struck i t u) :
    Struck i s u := by
  unfold Struck at *
  simp [k, h, Function.comp_def]

theorem ClientTurn.trans {i : Fin Config.clientCount} {s t u : State} (h : ClientTurn i s t) (k : ClientTurn i t u) :
    ClientTurn i s u where
  others := ⟨k.others.1.trans h.others.1, fun j hj => (k.others.2 j hj).trans (h.others.2 j hj)⟩
  shares := ⟨k.shares.1.trans h.shares.1, fun d => by rw [k.shares.2, h.shares.2]⟩
  busy := k.busy.trans h.busy
  cfg := k.cfg.trans h.cfg
  moved hs d := (k.moved (h.holds hs) d).trans (h.moved hs d)
  holds hs := k.holds (h.holds hs)
  clear hs := k.clear (h.clear hs)
  capped hs := k.capped (h.capped hs)
  list := by
    rcases h.list with ⟨hl, hsh⟩ | hst <;> rcases k.list with ⟨kl, ksh⟩ | kst
    · exact .inl ⟨kl.trans hl, fun hs => ksh (hsh hs)⟩
    · exact .inr (kst.of_eq_left hl)
    · exact .inr (hst.of_eq_right kl)
    · exact .inr (hst.trans kst)

theorem Untouched.turn {s t : State} (h : Untouched s t) (i : Fin Config.clientCount) : ClientTurn i s t where
  others := ⟨by rw [h.ct], fun j _ => h.client j⟩
  shares := ⟨by rw [h.se], fun d => by rw [h.shareDir]⟩
  busy := h.busy
  cfg := h.cfg
  moved _ d := by rw [h.grant, h.shareDir]
  holds hs := by simpa only [HoldsAsSharer, h.client, h.grant] using hs
  clear hs := by simpa only [ClearIfFree, h.client] using hs
  capped hs := by simpa only [WithinCap, h.client, h.grant, h.cfg] using hs
  list := .inl ⟨by rw [h.se], by rw [h.client]; exact id⟩

theorem ClientTurn.refl (i : Fin Config.clientCount) (s : State) : ClientTurn i s s := (Untouched.refl s).turn i

theorem ClientTurn.untouched {i : Fin Config.clientCount} {s t u : State} (h : ClientTurn i s t)
    (k : Untouched t u) : ClientTurn i s u := h.trans (k.turn i)

theorem ClientTurn.ite {p : Prop} [Decidable p] {i : Fin Config.clientCount} {s t u : State} (h : ClientTurn i s t)
    (k : ClientTurn i s u) : ClientTurn i s (if p then t else u) := by
  split
  · exact h
  · exact k

/-! ### An entry rewritten, a client that joins, and a client that leaves -/

theorem grant_setClient (s : State) (i j : Fin Config.clientCount) (e : ClientEntry) (d : Dir) :
    (s.setClient i e).grant d j = if j = i then (e.dir d).grant else s.grant d j := by
  simp only [State.grant, client_setClient]
  split <;> rfl

@[simp] theorem ClientEntry.grant_withGrants (e : ClientEntry) (up down : Nat) (d : Dir) :
    ((e.withGrants up down).dir d).grant = (PerDir.mk up down).get d := by
  cases d <;> rfl

@[simp] theorem ClientEntry.sharing_withGrants (e : ClientEntry) (up down : Nat) :
    (e.withGrants up down).sharing = e.sharing := rfl

theorem othersKept_setClient (i : Fin Config.clientCount) (e : ClientEntry) (s : State) :
    OthersKept i s (s.setClient i e) := ⟨rfl, fun _ hj => client_setClient_of_ne s hj e⟩

/-- An entry that does not stop sharing is set: a client that may hold grants keeps them. -/
theorem ClientTurn.setsEntry {i : Fin Config.clientCount} {e : ClientEntry} {s : State}
    (hgrant : HoldsAsSharer s i → ∀ d, (e.dir d).grant = s.grant d i)
    (hshare : (s.client i).sharing = true → e.sharing = true)
    (hcap : e.capped = true → (s.client i).capped = true ∧ ∀ d, (e.dir d).grant = s.grant d i)
    (hfree : e.state ≠ .free) : ClientTurn i s (s.setClient i e) where
  others := othersKept_setClient i e s
  shares := ⟨rfl, fun _ => rfl⟩
  busy := rfl
  cfg := rfl
  moved hs d := by rw [grant_setClient, if_pos rfl, hgrant hs, setClient_shareDir]
  holds hs hno d := by
    rw [client_setClient_self] at hno
    rw [grant_setClient, if_pos rfl, hgrant hs]
    exact hs (Bool.eq_false_iff.2 fun h => by simp [hshare h] at hno) d
  clear _ h := absurd (by simpa using h) hfree
  capped hs h d := by
    rw [client_setClient_self] at h
    rw [grant_setClient, if_pos rfl, (hcap h).2]
    exact hs (hcap h).1 d
  list := .inl ⟨rfl, fun h => by rw [client_setClient_self]; exact hshare h⟩

/-- The entry keeps its grants, and stops neither sharing nor being uncapped. -/
theorem ClientTurn.rewrites {i : Fin Config.clientCount} {e : ClientEntry} {s : State}
    (hgrant : ∀ d, (e.dir d).grant = s.grant d i) (hshare : (s.client i).sharing = true → e.sharing = true)
    (hcap : e.capped = true → (s.client i).capped = true) (hfree : e.state ≠ .free) :
    ClientTurn i s (s.setClient i e) :=
  .setsEntry (fun _ => hgrant) hshare (fun h => ⟨hcap h, hgrant⟩) hfree

/-- The entry keeps its standing. -/
theorem ClientTurn.keepsStanding {i : Fin Config.clientCount} {e : ClientEntry} {s : State}
    (hsame : (s.client i).SameStanding e) (hfree : (s.client i).state ≠ .free) : ClientTurn i s (s.setClient i e) :=
  .rewrites hsame.grant (fun h => hsame.sharing.trans h) (fun h => hsame.capped ▸ h) (hsame.state ▸ hfree)

/-- A client that did not share becomes a sharing client, and takes its join grants. -/
theorem ClientTurn.joins {i : Fin Config.clientCount} {e : ClientEntry} {s : State}
    (hno : (s.client i).sharing = false) (hshare : e.sharing = true) :
    ClientTurn i s (takeJoinGrants i (s.setClient i e)) where
  others := ⟨rfl, fun j hj => by rw [client_takeJoinGrants, if_neg hj, client_setClient_of_ne s hj]⟩
  shares := ⟨rfl, fun d => by rw [shareDir_takeJoinGrants, setClient_shareDir]⟩
  busy := rfl
  cfg := rfl
  moved hs d := by
    have hle := joinAmount_le (s.setClient i e) d i
    rw [setClient_shareDir] at hle
    rw [hs hno d, shareDir_takeJoinGrants, State.grant, client_takeJoinGrants, if_pos rfl, setClient_shareDir]
    cases d <;> simp <;> omega
  holds _ h := by
    rw [client_takeJoinGrants, if_pos rfl, client_setClient_self, ClientEntry.sharing_withGrants, hshare] at h
    cases h
  clear _ h := by
    rw [client_takeJoinGrants, if_pos rfl, client_setClient_self] at h
    have hfree : e.state = .free := h
    simp [ClientEntry.sharing, hfree] at hshare
  capped _ h d := by
    rw [client_takeJoinGrants, if_pos rfl] at h
    have hcap : ((s.setClient i e).client i).capped = true := h
    rw [State.grant, client_takeJoinGrants, if_pos rfl, ClientEntry.grant_withGrants]
    cases d <;> simp only [PerDir.get, joinAmount_eq, if_pos hcap] <;> exact Nat.min_le_left _ _
  list := .inl ⟨rfl, fun h => by rw [hno] at h; cases h⟩

theorem ClientTurn.joinsWithFullBuckets {i : Fin Config.clientCount} {e : ClientEntry} {s : State}
    (hno : (s.client i).sharing = false) (hshare : e.sharing = true) :
    ClientTurn i s (joinWithFullBuckets i (s.setClient i e)) := by
  refine (ClientTurn.joins hno hshare).trans (.keepsStanding (ClientEntry.sameStanding_fillBuckets _ _ _) ?_)
  rw [client_takeJoinGrants, if_pos rfl, client_setClient_self]
  intro h
  have hfree : e.state = .free := h
  simp [ClientEntry.sharing, hfree] at hshare

/-- A client returns its grants and is struck, and its entry becomes one that does not share and holds nothing. -/
theorem ClientTurn.leaves {i : Fin Config.clientCount} {e : ClientEntry} {s : State}
    (hgrant : ∀ d, (e.dir d).grant = 0) (hfree : e.state = .free → e = ClientEntry.free) :
    ClientTurn i s ((leaveSharing i s).setClient i e) where
  others := ⟨rfl, fun j hj => by rw [client_setClient_of_ne _ hj, client_leaveSharing, if_neg hj]⟩
  shares := ⟨rfl, fun d => by rw [setClient_shareDir, shareDir_leaveSharing]⟩
  busy := rfl
  cfg := rfl
  moved _ d := by
    rw [grant_setClient, if_pos rfl, hgrant, setClient_shareDir, shareDir_leaveSharing]
    simp only
    omega
  holds _ _ d := by rw [grant_setClient, if_pos rfl, hgrant]
  clear _ h := by
    rw [client_setClient_self] at h ⊢
    exact hfree h
  capped _ _ d := by rw [grant_setClient, if_pos rfl, hgrant]; exact Nat.zero_le _
  list := .inr (leaveSharing_snapshot i s)

/-- R142: what a client holds above the capped rate returns to the remainders. -/
theorem ClientTurn.returnsToCap {i : Fin Config.clientCount} {e : ClientEntry} {s : State}
    (hgrant : ∀ d, (e.dir d).grant = min (s.grant d i) s.mp.cfg.cappedRate.toNat)
    (hshare : e.sharing = (s.client i).sharing) (hfree : e.state ≠ .free) :
    ClientTurn i s ((returnGrant s.mp.cfg.cappedRate.toNat .down i
      (returnGrant s.mp.cfg.cappedRate.toNat .up i s)).setClient i e) where
  others := ⟨rfl, fun j hj => by rw [client_setClient_of_ne _ hj, client_returnGrants, if_neg hj]⟩
  shares := ⟨rfl, fun d => by rw [setClient_shareDir, shareDir_returnGrants]⟩
  busy := rfl
  cfg := rfl
  moved _ d := by
    rw [grant_setClient, if_pos rfl, hgrant, setClient_shareDir, shareDir_returnGrants]
    simp only
    omega
  holds hs hno d := by
    rw [client_setClient_self, hshare] at hno
    rw [grant_setClient, if_pos rfl, hgrant, hs hno d, Nat.zero_min]
  clear _ h := absurd (by simpa using h) hfree
  capped _ _ d := by
    rw [grant_setClient, if_pos rfl, hgrant]
    exact Nat.min_le_right _ _
  list := .inl ⟨rfl, fun h => by rw [client_setClient_self, hshare]; exact h⟩

/-! ### The operations of chapters 6 to 8 -/

theorem client_leaveSharing_self (i : Fin Config.clientCount) (s : State) :
    (leaveSharing i s).client i = (s.client i).withGrants 0 0 := by rw [client_leaveSharing, if_pos rfl]

theorem sharing_eq_false_of_state {e : ClientEntry} (h : e.state ≠ .active) : e.sharing = false := by
  simp [ClientEntry.sharing, h]

theorem blockClient_turn {i : Fin Config.clientCount} {s : State} (hfree : (s.client i).state ≠ .free) :
    ClientTurn i s (blockClient i s) := by
  refine .ite (.refl i s) (.leaves (fun d => ?_) fun h => ?_)
  · rw [client_leaveSharing_self]
    cases d <;> rfl
  · rw [client_leaveSharing_self] at h
    exact absurd h hfree

theorem unblockClient_turn {i : Fin Config.clientCount} {s : State} (hfree : (s.client i).state ≠ .free) :
    ClientTurn i s (unblockClient i s) := by
  unfold unblockClient
  dsimp only
  split
  · exact .refl i s
  · next hb =>
    have hno : (s.client i).sharing = false := by
      simp only [Bool.not_eq_true', Bool.not_eq_false] at hb
      simp [ClientEntry.sharing, hb]
    split
    · next hshare => exact .joins hno hshare
    · exact .rewrites (fun _ => rfl) (fun h => by rw [hno] at h; cases h) id hfree

theorem setClientTier_turn {i : Fin Config.clientCount} (t : Tier) {s : State} (hfree : (s.client i).state ≠ .free) :
    ClientTurn i s (setClientTier i t s) := by
  unfold setClientTier
  dsimp only
  split
  · exact .refl i s
  · split
    · refine .leaves (fun d => ?_) fun h => ?_
      · rw [client_leaveSharing_self]
        cases d <;> rfl
      · rw [client_leaveSharing_self] at h
        exact absurd h hfree
    · next hto =>
      split
      · next hfrom =>
        have hno : (s.client i).sharing = false := by simp [ClientEntry.sharing, hfrom]
        split
        · next hshare => exact .joins hno hshare
        · refine .rewrites (fun d => ?_) (fun h => by rw [hno] at h; cases h) id hfree
          cases d <;> rfl
      · refine .rewrites (fun _ => rfl) (fun h => ?_) id hfree
        simp only [ClientEntry.sharing, Bool.and_eq_true] at h ⊢
        exact ⟨h.1, by simpa using hto⟩

theorem loadClientAllowance_turn {i : Fin Config.clientCount} (v : Word) {s : State}
    (hfree : (s.client i).state ≠ .free) : ClientTurn i s (loadClientAllowance i v s) :=
  .rewrites (fun _ => rfl) id (fun h => by cases h) hfree

theorem removeClient_turn (i : Fin Config.clientCount) (y : RemovalReason) (s : State) :
    ClientTurn i s (removeClient i y s) :=
  ((offerRecord_untouched (s.finalRecord i y) s).turn i).trans
    (.leaves (fun d => by cases d <;> rfl) fun _ => rfl)

theorem becomeIdle_turn (i : Fin Config.clientCount) (s : State) : ClientTurn i s (becomeIdle i s) := by
  have hidle : ClientTurn i s ((leaveSharing i s).setClient i
      { ((leaveSharing i s).client i).zeroEstimates with state := .idle }) := by
    refine .leaves (fun d => ?_) fun h => by cases h
    rw [client_leaveSharing_self]
    cases d <;> rfl
  exact .ite (hidle.untouched (offerRecord_untouched _ _)) hidle

theorem closeEntry_turn (i : Fin Config.clientCount) (length : Nat) (s : State) :
    ClientTurn i s (closeEntry i length s) := by
  unfold closeEntry
  dsimp only
  split
  · exact .refl i s
  · next hfree =>
    have hclosed : ClientTurn i s (s.setClient i ((s.client i).closed s.mp.cfg length)) :=
      .keepsStanding (ClientEntry.sameStanding_closed _ _ _) hfree
    exact .ite (hclosed.trans (becomeIdle_turn i _)) hclosed

theorem wakeClient_turn {i : Fin Config.clientCount} {s : State} (hidle : (s.client i).state = .idle)
    (hblocked : (s.client i).blocked = false) : ClientTurn i s (wakeClient i s) := by
  have hno : (s.client i).sharing = false := sharing_eq_false_of_state (by rw [hidle]; decide)
  rw [wakeClient_eq]
  split
  · exact .rewrites (fun _ => rfl) (fun h => by rw [hno] at h; cases h) id (by simp)
  · next htier => exact .joinsWithFullBuckets hno (by simp [ClientEntry.sharing, hblocked, htier])

theorem attachFree_turn {i : Fin Config.clientCount} (tier : Tier) (g : BitVec 3) (p : BitVec 12) {s : State}
    (hfree : (s.client i).state = .free) : ClientTurn i s (attachFree i tier g p s) := by
  have hno : (s.client i).sharing = false := sharing_eq_false_of_state (by rw [hfree]; decide)
  rw [attachFree_eq]
  split
  · refine .setsEntry (fun hs d => ?_) (fun h => by rw [hno] at h; cases h) (fun h => by cases h) fun h => by cases h
    rw [hs hno d]
    cases d <;> rfl
  · next htier =>
    refine .joinsWithFullBuckets hno ?_
    simp [State.freshEntry, ClientEntry.loadAllowance, ClientEntry.free, ClientEntry.sharing, htier]

theorem attachClient_turn (i : Fin Config.clientCount) (tier : Tier) (g : BitVec 3) (p : BitVec 12) (s : State) :
    ClientTurn i s (attachClient i tier g p s).1 := by
  unfold attachClient
  dsimp only
  split
  · exact .refl i s
  · split
    · next hfree => exact attachFree_turn tier g p hfree
    · split <;> exact .refl i s

theorem moveClient_turn (i : Fin Config.clientCount) (g : BitVec 3) (p : BitVec 12) (s : State) :
    ClientTurn i s (moveClient i g p s).1 := by
  unfold moveClient
  dsimp only
  split
  · exact .refl i s
  · split
    · exact .refl i s
    · next hfree =>
      split
      · exact .refl i s
      · exact .keepsStanding ⟨rfl, rfl, rfl, rfl, fun _ => rfl⟩ hfree

theorem detachClient_turn (i : Fin Config.clientCount) (s : State) : ClientTurn i s (detachClient i s).1 := by
  unfold detachClient
  split
  · exact .refl i s
  · exact removeClient_turn i _ s

/-! ### The METER service -/

theorem refill_turn (d : Dir) {i : Fin Config.clientCount} {s : State} (hfree : (s.client i).state ≠ .free) :
    ClientTurn i s (refill d i s) := .keepsStanding (.setDir _ d rfl) hfree

theorem client_refill_state (d : Dir) (i : Fin Config.clientCount) (s : State) :
    ((refill d i s).client i).state = (s.client i).state := by
  unfold refill
  rw [client_setClient_self]
  rfl

theorem capClient_turn {i : Fin Config.clientCount} {s : State} (hfree : (s.client i).state ≠ .free) :
    ClientTurn i s (capClient i s) := by
  refine ((ClientTurn.returnsToCap (fun d => ?_) ?_ ?_).untouched (offerRecord_untouched _ _)).untouched
    ⟨rfl, rfl, rfl, rfl⟩
  all_goals rw [client_returnGrants, if_pos rfl]
  · cases d <;> rfl
  · rfl
  · exact hfree

theorem countVolume_turn {i : Fin Config.clientCount} (length : Nat) (v : Verdict) (why : Reason) {s : State}
    (hfree : (s.client i).state ≠ .free) : ClientTurn i s (countVolume i length v why s) := by
  unfold countVolume
  dsimp only
  split
  · have hcounted : ClientTurn i s (s.setClient i { s.client i with
        volume := (s.client i).volume + BitVec.ofNat 40 length }) :=
      .keepsStanding ⟨rfl, rfl, rfl, rfl, fun _ => rfl⟩ hfree
    refine .ite (hcounted.trans (capClient_turn ?_)) hcounted
    rw [client_setClient_self]
    exact hfree
  · exact .refl i s

theorem finishMeter_turn (r : Request) (d : Dir) {i : Fin Config.clientCount} (v : Verdict) (why : Reason)
    (grant : Nat) {s : State} (hfree : (s.client i).state ≠ .free) :
    ClientTurn i s (finishMeter r d i v why grant s) := by
  have hsame := (s.client i).sameStanding_countVerdict d r.length v why
  refine (((ClientTurn.keepsStanding hsame hfree).trans (countVolume_turn _ _ _ ?_)).untouched
    (deliverVerdict_untouched _ _)).untouched (respond_untouched _ _ _ _)
  rw [client_setClient_self, hsame.state]
  exact hfree

theorem meterShared_turn (r : Request) (d : Dir) {i : Fin Config.clientCount} {s : State}
    (hfree : (s.client i).state ≠ .free) : ClientTurn i s (meterShared r d i s) := by
  have hrefilled : ((refill d i s).client i).state ≠ .free := by rw [client_refill_state]; exact hfree
  refine ((refill_turn d hfree).trans (.keepsStanding (.setDir _ d (decideDir_grant _ _)) hrefilled)).trans
    (finishMeter_turn _ _ _ _ _ ?_)
  rw [client_setClient_self]
  exact hrefilled

theorem meterActive_turn (r : Request) (d : Dir) {i : Fin Config.clientCount} {s : State}
    (hfree : (s.client i).state ≠ .free) : ClientTurn i s (meterActive r d i s) :=
  .ite (finishMeter_turn _ _ _ _ _ hfree)
    (.ite ((refill_turn d hfree).trans (finishMeter_turn _ _ _ _ _ (by rw [client_refill_state]; exact hfree)))
      (meterShared_turn r d hfree))

theorem client_wakeClient_state (i : Fin Config.clientCount) (s : State) :
    ((wakeClient i s).client i).state = .active := by
  rw [wakeClient_eq]
  split
  · simp
  · rw [client_joinWithFullBuckets, if_pos rfl, client_setClient_self]
    rfl

theorem meterEntry_turn (r : Request) (d : Dir) (i : Fin Config.clientCount) (s : State) :
    ClientTurn i s (meterEntry r d i s) := by
  unfold meterEntry
  dsimp only
  split
  · exact (respond_untouched _ _ _ s).turn i
  · next hfree =>
    split
    · exact finishMeter_turn _ _ _ _ _ hfree
    · next hblocked =>
      split
      · next hidle =>
        exact (wakeClient_turn hidle (by simpa using hblocked)).trans
          (meterActive_turn r d (by rw [client_wakeClient_state]; decide))
      · exact meterActive_turn r d hfree

end Sys2Proof.Machine
end

section
/-! ## Proofs: what each command can do to grants, shares and cycle -/

namespace Sys2Proof.Machine

/-- Before START the configuration may change, and START ends the cycle; the rest is as it was. -/
structure SetUp (s t : State) : Prop where
  notStarted : s.started = false
  se : t.se = s.se
  ct : t.ct = s.ct
  busy : t.tb.cycleBusy = s.tb.cycleBusy ∨ t.tb.cycleBusy = false

/-- Everything that a command can do to grants, shares and cycle. -/
inductive ShareEffect (s t : State) : Prop
  | untouched (h : Untouched s t)
  | setUp (h : SetUp s t)
  | turn (i : Fin Config.clientCount) (h : ClientTurn i s t)
  | expiry (h : t = takeExpiry s)
  | restart (h : t = endCommand .done (restartPart s))
  | walk (w : Walk) (hw : s.ct.walk = some w) (h : t = stepWalk w s)
  | publish (n : Snapshot) (hn : s.se.snapshot = some n) (h : t = publishPass n s)
  | reset (held : Bool) (h : Answers (.deviceReset held) s t)

theorem ShareEffect.same (s : State) : ShareEffect s s := .untouched (.refl s)

theorem ShareEffect.ite {p : Prop} [Decidable p] {s t u : State} (h : p → ShareEffect s t) (k : ¬p → ShareEffect s u) :
    ShareEffect s (if p then t else u) := by
  split
  · next hp => exact h hp
  · next hp => exact k hp

theorem ShareEffect.outOfReset {s t : State} (h : ShareEffect s t) : ShareEffect s (outOfReset s t) :=
  .ite (fun _ => .same s) fun _ => h

/-! ### Host commands and requests -/

/-- A host command that acts on a client acts on one that is not FREE. -/
theorem judgeClientCommand_effect {valid : Bool} {act : Fin Config.clientCount → State → State} {s : State}
    (h : ∀ i, (s.client i).state ≠ .free → ClientTurn i s (act i s)) :
    ShareEffect s (judgeClientCommand valid act s) := by
  unfold judgeClientCommand
  refine .ite (fun _ => .untouched (endCommand_untouched _ s)) fun _ => ?_
  split
  · exact .untouched (endCommand_untouched _ s)
  · next i _ =>
    exact .ite (fun _ => .untouched (endCommand_untouched _ s)) fun _ =>
      .ite (fun _ => .untouched (endCommand_untouched _ s)) fun hfree => .turn i (h i hfree)

/-- A request taken off the queue is refused, or served on its client. -/
theorem onClient_effect {r : Request} {serve : Fin Config.clientCount → State → State} {s : State}
    (h : ∀ i, ClientTurn i (dequeue s) (serve i (dequeue s))) : ShareEffect s (onClient r serve (dequeue s)) := by
  unfold onClient
  split
  · exact .untouched ((dequeue_untouched s).trans (respond_untouched _ _ _ _))
  · next i _ => exact .turn i (((dequeue_untouched s).turn i).trans (h i))

theorem serveMeter_effect (r : Request) (d : Dir) (s : State) : ShareEffect s (serveMeter r d (dequeue s)) :=
  onClient_effect fun i => .ite ((respond_untouched _ _ _ _).turn i) (meterEntry_turn r d i _)

theorem serveAttach_effect (r : Request) (t : Tier) (s : State) : ShareEffect s (serveAttach r t (dequeue s)) :=
  onClient_effect fun i => (attachClient_turn i t _ _ _).untouched (respond_untouched _ _ _ _)

theorem serveMove_effect (r : Request) (s : State) : ShareEffect s (serveMove r (dequeue s)) :=
  onClient_effect fun i => (moveClient_turn i _ _ _).untouched (respond_untouched _ _ _ _)

theorem serveDetach_effect (r : Request) (s : State) : ShareEffect s (serveDetach r (dequeue s)) :=
  onClient_effect fun i => (detachClient_turn i _).untouched (respond_untouched _ _ _ _)

/-! ### START and the words of the port -/

theorem takeStart_effect (b : Bool) (s : State) : ShareEffect s (takeStart b s) := by
  unfold takeStart
  refine .ite (fun _ => .untouched (endCommand_untouched _ s)) fun hs => ?_
  have hs : s.started = false := by simpa using hs
  split
  · exact .untouched ⟨rfl, rfl, rfl, rfl⟩
  · exact .setUp ⟨hs, rfl, rfl, .inr rfl⟩

theorem writeConfig_effect (a : BitVec 7) (v : Word) (s : State) : ShareEffect s (writeConfig a v s) :=
  .ite (fun _ => .untouched (refuseWrite_untouched _ _ s)) fun hs => .setUp ⟨by simpa using hs, rfl, rfl, .inl rfl⟩

/-- R184: of the words of the map only the configuration words reach beyond their own block. -/
theorem writeWord_effect (a : BitVec 7) (v : Word) (s : State) : ShareEffect s (writeWord a v s) := by
  unfold writeWord
  refine .ite (fun _ => .ite (fun _ => writeConfig_effect a v s) fun _ => .untouched (refuseWrite_untouched _ _ s))
    fun _ => .untouched ?_
  refine .ite (refuseWrite_untouched _ _ s) (.ite (writeWatchWord_untouched _ _ v s) ?_)
  split
  case h_1 => exact writeUplink_untouched .up v s
  case h_2 => exact writeUplink_untouched .down v s
  case h_3 => exact writeCommandCode_untouched v s
  case h_9 => exact writeLogIndexLow_untouched v s
  case h_11 => exact writeThresholdLow_untouched v s
  case h_14 => exact writeMemAddrLow_untouched v s
  case h_15 => exact writeMemAddrHigh_untouched v s
  case h_16 => exact writeMemData_untouched v s
  case h_17 => exact clearOverflow_untouched v _ s
  all_goals exact ⟨rfl, rfl, rfl, rfl⟩

/-! ### Every command -/

theorem exec_answers_effect (c : Instr) (s : State) : ∃ t, Answers c s t ∧ ShareEffect s t := by
  cases c with
  | deviceReset held => exact ⟨_, rfl, .reset held rfl⟩
  | millisecondTick b line => exact ⟨_, rfl, .untouched (.ite ⟨rfl, rfl, rfl, rfl⟩ (.refl s))⟩
  | epochExpiry => exact ⟨_, rfl, .ite (fun _ => .expiry rfl) fun _ => .same s⟩
  | start b => exact ⟨_, rfl, .ite (fun _ => takeStart_effect b s) fun _ => .same s⟩
  | restart =>
    exact ⟨_, rfl, .ite (fun _ => .ite (fun _ => .restart rfl) fun _ => .untouched (endCommand_untouched _ s))
      fun _ => .same s⟩
  | leave => exact ⟨_, rfl, .untouched (.ite (leaveTrain_untouched s) (.refl s))⟩
  | resume => exact ⟨_, rfl, .untouched (.ite (resumeStation_untouched s) (.refl s))⟩
  | syncEpoch => exact ⟨_, rfl, .untouched (.ite (syncEpoch_untouched s) (.refl s))⟩
  | block =>
    exact ⟨_, rfl, .ite (fun _ => judgeClientCommand_effect fun i hfree =>
      (blockClient_turn hfree).untouched (endCommand_untouched _ _)) fun _ => .same s⟩
  | unblock =>
    exact ⟨_, rfl, .ite (fun _ => judgeClientCommand_effect fun i hfree =>
      (unblockClient_turn hfree).untouched (endCommand_untouched _ _)) fun _ => .same s⟩
  | setTier =>
    refine ⟨_, rfl, .ite (fun _ => ?_) fun _ => .same s⟩
    split
    · next t _ =>
      exact judgeClientCommand_effect fun i hfree =>
        (setClientTier_turn t hfree).untouched (endCommand_untouched _ _)
    · exact judgeClientCommand_effect fun i _ => .refl i s
  | setAllowance =>
    exact ⟨_, rfl, .ite (fun _ => judgeClientCommand_effect fun i hfree =>
      .ite ((endCommand_untouched _ s).turn i)
        ((loadClientAllowance_turn _ hfree).untouched (endCommand_untouched _ _))) fun _ => .same s⟩
  | evict =>
    exact ⟨_, rfl, .ite (fun _ => judgeClientCommand_effect fun i _ =>
      (removeClient_turn i _ s).untouched (endCommand_untouched _ _)) fun _ => .same s⟩
  | readClient => exact ⟨_, rfl, .untouched (.ite (readClientPage_untouched s) (.refl s))⟩
  | readPeer => exact ⟨_, rfl, .untouched (.ite (readPeerSlot_untouched s) (.refl s))⟩
  | unknownCommand code =>
    exact ⟨_, rfl, .untouched (.outOfReset (.ite (.refl s) (writeCommandCode_untouched code s)))⟩
  | closureStep =>
    refine ⟨_, rfl, ?_⟩
    split
    · next w hw => exact .walk w hw rfl
    · exact .same s
  | publish =>
    refine ⟨_, rfl, ?_⟩
    split
    · next n hn => exact .publish n hn rfl
    · exact .same s
  | compositionEdge =>
    exact ⟨_, rfl, .untouched (.ite ((⟨rfl, rfl, rfl, rfl⟩ : Untouched s
      { s with pt := { s.pt with debounced := s.composition, settle := 0 } }).trans (takeEdge_untouched _)) (.refl s))⟩
  | uplinkWrite d v => exact ⟨_, rfl, .untouched (.outOfReset (writeUplink_untouched d v s))⟩
  | frameReceived b line =>
    exact ⟨_, rfl, .untouched (.ite ((passLevels_untouched line s).trans (receiveCheck_untouched b _)) (.refl s))⟩
  | lineByteReceived b line =>
    exact ⟨_, rfl, .untouched (.ite ((passLevels_untouched line s).trans (receiveByte_untouched b _)) (.refl s))⟩
  | carrierIdle line =>
    exact ⟨_, rfl, .untouched (.ite (.ite ⟨rfl, rfl, rfl, rfl⟩ (passLevels_untouched line s)) (.refl s))⟩
  | busyPeriodStart line =>
    exact ⟨_, rfl, .untouched (.ite (.ite ⟨rfl, rfl, rfl, rfl⟩ (passLevels_untouched line s)) (.refl s))⟩
  | busyPeriodLimit line =>
    exact ⟨_, rfl, .untouched (.ite (.ite ⟨rfl, rfl, rfl, rfl⟩ (passLevels_untouched line s)) (.refl s))⟩
  | framingError line => exact ⟨_, rfl, .untouched (.ite ⟨rfl, rfl, rfl, rfl⟩ (.refl s))⟩
  | jitterExpiry => exact ⟨_, rfl, .untouched (.ite (setLine_untouched _ s) (.refl s))⟩
  | attemptStart line =>
    exact ⟨_, rfl, .untouched (.ite (.ite ⟨rfl, rfl, rfl, rfl⟩ (passLevels_untouched line s)) (.refl s))⟩
  | readbackMismatch => exact ⟨_, rfl, .untouched (.ite (failAttempt_untouched s) (.refl s))⟩
  | noticeSent => exact ⟨_, rfl, .untouched (.ite (setLine_untouched _ s) (.refl s))⟩
  | backoffExpiry => exact ⟨_, rfl, .untouched (.ite (setLine_untouched _ s) (.refl s))⟩
  | stuckLine line =>
    exact ⟨_, rfl, .untouched (.ite (.ite ((passLevels_untouched line s).trans (enterLineFault_untouched _))
      (passLevels_untouched line s)) (.refl s))⟩
  | runLengthOverflow line =>
    exact ⟨_, rfl, .untouched (.ite (.ite ⟨rfl, rfl, rfl, rfl⟩ (passLevels_untouched line s)) (.refl s))⟩
  | lineRestoration => exact ⟨_, rfl, .untouched (.ite (restoreStation_untouched s) (.refl s))⟩
  | requestPresented tag code client argument =>
    exact ⟨_, rfl, .untouched (.outOfReset (completeRecord_untouched _ s))⟩
  | recordStartStrobe b more => exact ⟨_, rfl, .untouched (.outOfReset ⟨rfl, rfl, rfl, rfl⟩)⟩
  | refusalSent =>
    refine ⟨_, rfl, .untouched ?_⟩
    split <;> exact ⟨rfl, rfl, rfl, rfl⟩
  | meter =>
    refine ⟨_, rfl, ?_⟩
    split
    · split
      · exact serveMeter_effect _ _ s
      · exact .same s
    · exact .same s
  | attach =>
    refine ⟨_, rfl, ?_⟩
    split
    · split
      · exact serveAttach_effect _ _ s
      · exact .same s
    · exact .same s
  | move =>
    refine ⟨_, rfl, ?_⟩
    split
    · split
      · exact serveMove_effect _ s
      · exact .same s
    · exact .same s
  | detach =>
    refine ⟨_, rfl, ?_⟩
    split
    · split
      · exact serveDetach_effect _ s
      · exact .same s
    · exact .same s
  | unknownRequest =>
    refine ⟨_, rfl, .untouched ?_⟩
    split
    · split
      · exact (dequeue_untouched s).trans (respond_untouched _ _ _ _)
      · exact .refl s
    · exact .refl s
  | watchModeWrite k v => exact ⟨_, rfl, .untouched (.outOfReset (setWatch_untouched _ _ s))⟩
  | watchCountLowWrite k v => exact ⟨_, rfl, .untouched (.outOfReset (writeWatchCountLow_untouched k v s))⟩
  | watchCountLowRead k => exact ⟨_, rfl, .untouched (.outOfReset ⟨rfl, rfl, rfl, rfl⟩)⟩
  | watchStatusWrite v => exact ⟨_, rfl, .untouched (.outOfReset (clearOverflow_untouched v _ s))⟩
  | logIndexLowWrite v => exact ⟨_, rfl, .untouched (.outOfReset (writeLogIndexLow_untouched v s))⟩
  | logIndexLowRead => exact ⟨_, rfl, .untouched (.outOfReset ⟨rfl, rfl, rfl, rfl⟩)⟩
  | thresholdLowWrite v => exact ⟨_, rfl, .untouched (.outOfReset (writeThresholdLow_untouched v s))⟩
  | thresholdLowRead => exact ⟨_, rfl, .untouched (.outOfReset ⟨rfl, rfl, rfl, rfl⟩)⟩
  | lostCountWrite v => exact ⟨_, rfl, .untouched (.outOfReset ⟨rfl, rfl, rfl, rfl⟩)⟩
  | memAddrLowWrite v => exact ⟨_, rfl, .untouched (.outOfReset (writeMemAddrLow_untouched v s))⟩
  | memDataRead =>
    exact ⟨_, rfl, .untouched (.outOfReset ((⟨rfl, rfl, rfl, rfl⟩ : Untouched s (setDataOut s.mc.data s)).trans
      (fetchNext_untouched _)))⟩
  | memDataWrite v => exact ⟨_, rfl, .untouched (.outOfReset (writeMemData_untouched v s))⟩
  | turnaroundEnd => exact ⟨_, rfl, .untouched (.ite ⟨rfl, rfl, rfl, rfl⟩ (.refl s))⟩
  | setupEnd => exact ⟨_, rfl, .untouched (.ite ⟨rfl, rfl, rfl, rfl⟩ (.refl s))⟩
  | strobeEnd waited =>
    refine ⟨_, rfl, .untouched (.ite ?_ (.refl s))⟩
    split
    · exact endStrobe_untouched _ s
    · exact .refl s
  | waitTimeout => exact ⟨_, rfl, .untouched (.ite (endStrobeTimedOut_untouched s) (.refl s))⟩
  | accessEnd => exact ⟨_, rfl, .untouched (.ite (endAccess_untouched s) (.refl s))⟩
  | configWrite a v =>
    exact ⟨_, rfl, .outOfReset (.ite (fun _ => writeConfig_effect a v s) fun _ => .same s)⟩
  | interruptFlagsWrite v => exact ⟨_, rfl, .untouched (.outOfReset ⟨rfl, rfl, rfl, rfl⟩)⟩
  | interruptEnablesWrite v => exact ⟨_, rfl, .untouched (.outOfReset ⟨rfl, rfl, rfl, rfl⟩)⟩
  | refusedStatusWrite v => exact ⟨_, rfl, .untouched (.outOfReset ⟨rfl, rfl, rfl, rfl⟩)⟩
  | registerWrite a v => exact ⟨_, rfl, .outOfReset (writeWord_effect a v s)⟩
  | commandCodeWrite v => exact ⟨_, rfl, .untouched (.outOfReset (writeCommandCode_untouched v s))⟩

theorem exec_effect {c : Instr} {s t : State} (h : Answers c s t) : ShareEffect s t := by
  obtain ⟨u, hu, heffect⟩ := exec_answers_effect c s
  obtain rfl : u = t := by simpa [Answers, h] using hu.symm
  exact heffect

end Sys2Proof.Machine
end

section
/-! ## Proofs: grants, shares and membership through a step that is no publish (R33, R28, R95) -/

namespace Sys2Proof.Machine

theorem ClientTurn.snapshot_cases {i : Fin Config.clientCount} {s t : State} (h : ClientTurn i s t) {n : Snapshot}
    (hn : t.se.snapshot = some n) : ∃ m, s.se.snapshot = some m ∧ n.members = m.members ∧
      (n = m ∧ ((s.client i).sharing = true → (t.client i).sharing = true) ∨
        n.membership = m.membership.filter (· ≠ i)) := by
  rcases h.list with ⟨hsame, hshare⟩ | hstruck
  · exact ⟨n, by rw [← hsame, hn], rfl, .inl ⟨rfl, hshare⟩⟩
  · rw [hstruck, Option.map_eq_some_iff] at hn
    obtain ⟨m, hm, rfl⟩ := hn
    exact ⟨m, hm, rfl, .inr rfl⟩

/-- The total of a direction changes by the client's own change. -/
theorem ClientTurn.grantTotal {i : Fin Config.clientCount} {s t : State} (h : ClientTurn i s t) (d : Dir) :
    t.grantTotal d + s.grant d i = s.grantTotal d + t.grant d i := by
  have hsame : t.grantTotal d = (s.setClient i (t.client i)).grantTotal d := grantTotal_congr fun j => by
    rw [grant_setClient]
    split
    · next hj => rw [hj]; rfl
    · next hj => rw [State.grant, h.others.2 j hj]; rfl
  rw [hsame]
  exact grantTotal_setClient s i (t.client i) d

theorem GrantLaw.turn {i : Fin Config.clientCount} {s t : State} (h : ClientTurn i s t) (hs : HoldsAsSharer s i)
    (hlaw : GrantLaw s) : GrantLaw t where
  sum d := by
    have hshare : (t.shareDir d).share = (s.shareDir d).share := by rw [h.shares.2]
    have := h.moved hs d
    have := h.grantTotal d
    have := hlaw.sum d
    omega
  before d := by
    rw [h.shares.2]
    exact hlaw.before d

theorem SharesOk.turn {i : Fin Config.clientCount} {s t : State} (h : ClientTurn i s t) (hs : SharesOk s) :
    SharesOk t where
  law := hs.law.turn h fun hno d => hs.holders i d hno
  holders j d hno := by
    by_cases hj : j = i
    · subst hj
      exact h.holds (fun hno d => hs.holders j d hno) hno d
    · rw [h.others.2 j hj] at hno
      rw [State.grant, h.others.2 j hj]
      exact hs.holders j d hno
  free j hfree := by
    by_cases hj : j = i
    · subst hj
      exact h.clear (hs.free j) hfree
    · rw [h.others.2 j hj] at hfree ⊢
      exact hs.free j hfree
  members n hn := by
    obtain ⟨m, hm, hmembers, hlist⟩ := h.snapshot_cases hn
    obtain ⟨hindices, hnodup, hmem⟩ := hs.members m hm
    rw [hmembers]
    refine ⟨hindices, ?_, fun j hj => ?_⟩
    · rcases hlist with ⟨rfl, -⟩ | hfilter
      · exact hnodup
      · rw [hfilter]; exact hnodup.filter _
    · by_cases hji : j = i
      · subst hji
        rcases hlist with ⟨rfl, hshare⟩ | hfilter
        · exact ⟨(hmem j hj).1, hshare (hmem j hj).2⟩
        · simp [hfilter] at hj
      · have hjm : j ∈ m.membership := by
          rcases hlist with ⟨rfl, -⟩ | hfilter
          · exact hj
          · rw [hfilter] at hj; exact (List.mem_filter.1 hj).1
        rw [h.others.2 j hji]
        exact hmem j hjm

/-- Entries that keep their standing, shares that stay, and a pass that stays or ends. -/
theorem SharesOk.of_sameStanding {s t : State} (hs : SharesOk s)
    (hentry : ∀ i, (s.client i).SameStanding (t.client i))
    (hfree : ∀ i, (s.client i).state = .free → t.client i = s.client i)
    (hshare : ∀ d, (t.shareDir d).share = (s.shareDir d).share ∧ (t.shareDir d).remainder = (s.shareDir d).remainder ∧
      (t.shareDir d).sharesValid = (s.shareDir d).sharesValid)
    (hsnapshot : t.se.snapshot = s.se.snapshot ∨ t.se.snapshot = none) : SharesOk t where
  law := by
    refine ⟨fun d => ?_, fun d hv => ?_⟩
    · rw [grantTotal_congr fun i => (hentry i).grant d, (hshare d).1, (hshare d).2.1]
      exact hs.law.sum d
    · rw [(hshare d).1]
      exact hs.law.before d ((hshare d).2.2 ▸ hv)
  holders i d hno := ((hentry i).grant d).trans (hs.holders i d ((hentry i).sharing ▸ hno))
  free i hf := by
    rw [(hentry i).state] at hf
    rw [hfree i hf, hs.free i hf]
  members n hn := by
    rcases hsnapshot with hsame | hnone
    · obtain ⟨hindices, hnodup, hmem⟩ := hs.members n (hsame ▸ hn)
      exact ⟨hindices, hnodup, fun i hi => ⟨(hmem i hi).1, (hentry i).sharing.trans (hmem i hi).2⟩⟩
    · rw [hnone] at hn; cases hn

/-- The same table and the same share engine. -/
theorem SharesOk.congr {s t : State} (hs : SharesOk s) (hse : t.se = s.se) (hct : t.ct.entries = s.ct.entries) :
    SharesOk t := by
  have hclient (i : Fin Config.clientCount) : t.client i = s.client i := by simp [State.client, hct]
  refine hs.of_sameStanding (fun i => hclient i ▸ .refl _) (fun i _ => hclient i) (fun d => ?_) (.inl (by rw [hse]))
  simp [State.shareDir, hse]

/-! ### Nothing shared -/

/-- RESTART and device reset leave no share, no remainder, no grant, and no pass. -/
structure NothingShared (t : State) : Prop where
  se : t.se = ShareEngine.reset
  grant : ∀ d i, t.grant d i = 0

theorem NothingShared.shareDir {t : State} (h : NothingShared t) (d : Dir) : t.shareDir d = ShareDir.zero := by
  rw [State.shareDir, h.se]
  cases d <;> rfl

theorem SharesOk.of_nothingShared {t : State} (h : NothingShared t) (hfree : ∀ i, ClearIfFree t i) : SharesOk t where
  law := ⟨fun d => by rw [grantTotal_zero (h.grant d), h.shareDir]; rfl, fun d _ => by rw [h.shareDir]; rfl⟩
  holders i d _ := h.grant d i
  free := hfree
  members n hn := by rw [h.se] at hn; cases hn

theorem client_of_resetTable {t : State} (h : t.ct = ClientTable.reset) (i : Fin Config.clientCount) :
    t.client i = ClientEntry.free := by
  simp [State.client, h, ClientTable.reset]

theorem nothingShared_of_reset {t : State} (hse : t.se = ShareEngine.reset) (hct : t.ct = ClientTable.reset) :
    NothingShared t where
  se := hse
  grant d i := by
    rw [State.grant, client_of_resetTable hct]
    cases d <;> rfl

theorem SharesOk.of_reset {t : State} (hse : t.se = ShareEngine.reset) (hct : t.ct = ClientTable.reset) : SharesOk t :=
  .of_nothingShared (nothingShared_of_reset hse hct) fun i _ => client_of_resetTable hct i

/-- What a device reset answers, block by block. -/
theorem deviceReset_blocks {held : Bool} {s t : State} (h : Answers (.deviceReset held) s t) :
    t.tb = TimeBase.reset ∧ t.se = ShareEngine.reset ∧ t.ct = ClientTable.reset := by
  cases h
  exact ⟨rfl, rfl, rfl⟩

theorem client_restartPart (s : State) (i : Fin Config.clientCount) :
    (restartPart s).client i = (s.client i).zeroGrants := client_mapEntries _ _ _ _

theorem restartPart_nothingShared (s : State) : NothingShared (restartPart s) where
  se := rfl
  grant d i := by
    rw [State.grant, client_restartPart]
    cases d <;> rfl

theorem restartPart_clearIfFree {s : State} {i : Fin Config.clientCount} (h : ClearIfFree s i) :
    ClearIfFree (restartPart s) i := by
  unfold ClearIfFree
  rw [client_restartPart]
  intro hf
  rw [h hf]
  rfl

theorem NothingShared.untouched {s t : State} (h : NothingShared s) (k : Untouched s t) : NothingShared t :=
  ⟨k.se.trans h.se, fun d i => (k.grant d i).trans (h.grant d i)⟩

/-! ### The epoch cycle -/

/-- R102: the window flip, where it comes about, moves selectors alone. -/
theorem client_takeExpiry (s : State) (i : Fin Config.clientCount) :
    (takeExpiry s).client i = if s.tb.cycleBusy then s.client i else (s.client i).flip := by
  have hframe : (takeExpiry s).client i = (flipOrAbsorb (countExpiry s)).client i := by
    unfold takeExpiry
    dsimp only
    rw [State.client, State.client]
    simp [State.setLine]
  rw [hframe]
  unfold flipOrAbsorb
  split
  · next hbusy => rw [if_pos (show s.tb.cycleBusy = true from hbusy)]; rfl
  · next hbusy =>
    rw [if_neg (show ¬ s.tb.cycleBusy = true from hbusy)]
    exact client_mapEntries _ _ _ _

theorem takeExpiry_sameStanding (s : State) (i : Fin Config.clientCount) :
    (s.client i).SameStanding ((takeExpiry s).client i) := by
  rw [client_takeExpiry]
  split
  · exact .refl _
  · exact ClientEntry.sameStanding_flip _

theorem sharesOk_takeExpiry {s : State} (hs : SharesOk s) : SharesOk (takeExpiry s) := by
  refine hs.of_sameStanding (takeExpiry_sameStanding s) (fun i hfree => ?_) (fun d => by simp) (.inl (by simp))
  rw [client_takeExpiry]
  split
  · rfl
  · simp [ClientEntry.flip, hfree]

/-- The indices of the sharing clients, in ascending order (R15). -/
theorem snapshotMembers_indices (s : State) : s.snapshotMembers.map Member.index =
    (List.finRange Config.clientCount).filter fun i => (s.client i).sharing := by
  unfold State.snapshotMembers
  induction List.finRange Config.clientCount with
  | nil => rfl
  | cons i rest ih =>
    by_cases hshare : (s.client i).sharing = true
    · simp [hshare, ih]
    · simp only [Bool.not_eq_true] at hshare
      simp [hshare, ih]

/-- R15, R26: the pass that a closure starts has the sharing clients on its list. -/
theorem sharesOk_closureComplete {s : State} (hs : SharesOk s) : SharesOk (closureComplete s) := by
  unfold closureComplete
  split
  · refine ⟨⟨hs.law.sum, hs.law.before⟩, hs.holders, hs.free, fun n hn => ?_⟩
    obtain rfl : s.takeSnapshot = n := Option.some.inj hn
    have hnodup : (s.snapshotMembers.map Member.index).Nodup := by
      rw [snapshotMembers_indices]
      exact (List.nodup_finRange _).filter _
    refine ⟨hnodup, hnodup, fun i hi => ⟨hi, ?_⟩⟩
    have hmember : i ∈ s.snapshotMembers.map Member.index := hi
    have hshare : (s.client i).sharing = true := by simpa [snapshotMembers_indices] using hmember
    exact hshare
  · exact hs.congr rfl rfl

theorem sharesOk_stepWalk {s : State} (w : Walk) (hs : SharesOk s) : SharesOk (stepWalk w s) := by
  have hclosed : SharesOk (closeEntry w.next w.length s) := hs.turn (closeEntry_turn _ _ _)
  unfold stepWalk
  dsimp only
  split
  · exact hclosed.congr rfl rfl
  · exact sharesOk_closureComplete (hclosed.congr rfl rfl)

end Sys2Proof.Machine
end

section
/-! ## Proofs: the grants that a publish gives (R23, R24, R29, R30) -/

namespace Sys2Proof.Machine

/-! ### The computed grants -/

theorem mem_allGroups (g : BitVec 3) : g ∈ allGroups := by decide +revert

theorem nodup_heldGroups (n : Snapshot) : n.heldGroups.Nodup := List.Nodup.filter _ (by decide)

theorem mem_groupMembers {n : Snapshot} {g : BitVec 3} {m : Member} :
    m ∈ n.groupMembers g ↔ m ∈ n.members ∧ m.group = g := by simp [Snapshot.groupMembers]

theorem mem_heldGroups {n : Snapshot} {g : BitVec 3} : g ∈ n.heldGroups ↔ ∃ m ∈ n.members, m.group = g := by
  rw [Snapshot.heldGroups, List.mem_filter, Bool.not_eq_true', List.isEmpty_eq_false_iff_exists_mem]
  simp [mem_allGroups, mem_groupMembers]

theorem clientStage_indices (c : ConfigWords) (n : Snapshot) (d : Dir) (g : BitVec 3) (amount : Nat) :
    (clientStage c n d g amount).map Prod.fst = (n.groupMembers g).map Member.index := by
  simp [clientStage, Function.comp_def]

theorem computedGrants_indices (c : ConfigWords) (n : Snapshot) (d : Dir) (share : Nat) :
    (computedGrants c n d share).map Prod.fst = n.heldGroups.flatMap fun g => (n.groupMembers g).map Member.index := by
  simp [computedGrants, List.map_flatMap, clientStage_indices]

/-- Every member of the snapshot gets a computed grant. -/
theorem mem_computedGrants_indices (c : ConfigWords) (n : Snapshot) (d : Dir) (share : Nat)
    (i : Fin Config.clientCount) :
    i ∈ (computedGrants c n d share).map Prod.fst ↔ i ∈ n.members.map Member.index := by
  rw [computedGrants_indices]
  simp only [List.mem_flatMap, List.mem_map, mem_groupMembers, mem_heldGroups]
  constructor
  · rintro ⟨g, -, m, ⟨hm, -⟩, rfl⟩
    exact ⟨m, hm, rfl⟩
  · rintro ⟨m, hm, rfl⟩
    exact ⟨m.group, ⟨m, hm, rfl⟩, m, ⟨hm, rfl⟩, rfl⟩

/-- It gets one: the groups part the members. -/
theorem nodup_computedGrants_indices (c : ConfigWords) (n : Snapshot) (d : Dir) (share : Nat)
    (h : (n.members.map Member.index).Nodup) : ((computedGrants c n d share).map Prod.fst).Nodup := by
  rw [computedGrants_indices, List.nodup_flatMap]
  refine ⟨fun g _ => h.sublist (List.filter_sublist.map _), (nodup_heldGroups n).imp fun {g g'} hne => ?_⟩
  intro i hi hi'
  obtain ⟨m, hm, rfl⟩ := List.mem_map.1 hi
  obtain ⟨m', hm', heq⟩ := List.mem_map.1 hi'
  rw [mem_groupMembers] at hm hm'
  have hsame : m' = m := List.inj_on_of_nodup_map h hm'.1 hm.1 heq
  exact hne (by rw [← hm.2, ← hm'.2, hsame])

/-- R24: a group's computed grants stay within its allocation. -/
theorem clientStage_sum_le (c : ConfigWords) (n : Snapshot) (d : Dir) (g : BitVec 3) (amount : Nat) :
    ((clientStage c n d g amount).map Prod.snd).sum ≤ amount := by
  have h := fill_levelSearch_le ((n.groupMembers g).map (clientItem c d)) amount
  simpa [fill, clientStage, Function.comp_def] using h

theorem sum_flatMap_le {α : Type} (l : List α) (f : α → List Nat) (bound : α → Nat) (h : ∀ x, (f x).sum ≤ bound x) :
    (l.flatMap f).sum ≤ (l.map bound).sum := by
  induction l with
  | nil => exact Nat.le_refl _
  | cons x rest ih =>
    rw [List.flatMap_cons, List.sum_append, List.map_cons, List.sum_cons]
    exact Nat.add_le_add (h x) ih

/-- R23, R24: the computed grants stay within the carriage share. -/
theorem computedGrants_sum_le (c : ConfigWords) (n : Snapshot) (d : Dir) (share : Nat) :
    ((computedGrants c n d share).map Prod.snd).sum ≤ share := by
  have hgroups := fill_levelSearch_le (groupItems c n d) share
  have hstages := sum_flatMap_le n.heldGroups
    (fun g => (clientStage c n d g ((groupItem c n d g).allocation (levelSearch (groupItems c n d) share))).map Prod.snd)
    (fun g => (groupItem c n d g).allocation (levelSearch (groupItems c n d) share))
    fun g => clientStage_sum_le c n d g _
  rw [computedGrants, List.map_flatMap]
  refine Nat.le_trans hstages ?_
  simpa [fill, groupItems, Function.comp_def] using hgroups

/-! ### Giving and redrawing -/

/-- Nothing changes but the grants of a direction and its remainder. -/
structure GrantsOnly (d : Dir) (s t : State) : Prop where
  client : ∀ i, t.client i = (s.client i).setDir d { (s.client i).dir d with grant := t.grant d i }
  shares : ∀ e, t.shareDir e =
    if e = d then { s.shareDir d with remainder := (t.shareDir d).remainder } else s.shareDir e
  pass : t.se.pass = s.se.pass
  snapshot : t.se.snapshot = s.se.snapshot
  walk : t.ct.walk = s.ct.walk
  tb : t.tb = s.tb
  mp : t.mp = s.mp

theorem ClientEntry.setDir_self (e : ClientEntry) (d : Dir) : e.setDir d (e.dir d) = e := by
  cases d <;> rfl

theorem ClientEntry.setDir_setDir (e : ClientEntry) (d : Dir) (x y : ClientDir) :
    (e.setDir d x).setDir d y = e.setDir d y := by
  cases d <;> rfl

theorem GrantsOnly.refl (d : Dir) (s : State) : GrantsOnly d s s where
  client i := (ClientEntry.setDir_self _ d).symm
  shares e := by
    split
    · next he => rw [he]
    · rfl
  pass := rfl
  snapshot := rfl
  walk := rfl
  tb := rfl
  mp := rfl

theorem GrantsOnly.trans {d : Dir} {s t u : State} (h : GrantsOnly d s t) (k : GrantsOnly d t u) : GrantsOnly d s u where
  client i := by rw [k.client, h.client, ClientEntry.setDir_setDir, ClientEntry.dir_setDir, if_pos rfl]
  shares e := by
    rw [k.shares]
    split
    · rw [h.shares d, if_pos rfl]
    · next he => rw [h.shares e, if_neg he]
  pass := k.pass.trans h.pass
  snapshot := k.snapshot.trans h.snapshot
  walk := k.walk.trans h.walk
  tb := k.tb.trans h.tb
  mp := k.mp.trans h.mp

theorem grantsOnly_drawGrant (d : Dir) (i : Fin Config.clientCount) (g : Nat) (s : State) :
    GrantsOnly d s (drawGrant d i g s) where
  client j := by
    rw [client_drawGrant, grant_drawGrant]
    by_cases hj : j = i
    · subst hj; simp
    · simp only [hj, and_false, if_false]
      exact (ClientEntry.setDir_self _ d).symm
  shares e := by simp
  pass := rfl
  snapshot := rfl
  walk := rfl
  tb := rfl
  mp := rfl

theorem grantsOnly_takeJoinGrant (d : Dir) (i : Fin Config.clientCount) (s : State) :
    GrantsOnly d s (takeJoinGrant d i s) := grantsOnly_drawGrant d i _ s

theorem grantsOnly_giveGrants (d : Dir) (ms : List (Fin Config.clientCount))
    (gs : List (Fin Config.clientCount × Nat)) (s : State) : GrantsOnly d s (giveGrants d ms gs s) := by
  induction gs generalizing s with
  | nil => exact .refl d s
  | cons p rest ih =>
    rw [giveGrants]
    split
    · exact (grantsOnly_drawGrant d _ _ s).trans (ih _)
    · exact ih s

theorem grantsOnly_redrawJoiners (d : Dir) (ms is : List (Fin Config.clientCount)) (s : State) :
    GrantsOnly d s (redrawJoiners d ms is s) := by
  induction is generalizing s with
  | nil => exact .refl d s
  | cons i rest ih =>
    rw [redrawJoiners]
    split
    · exact (grantsOnly_takeJoinGrant d _ s).trans (ih _)
    · exact ih s

section
variable {d : Dir} {s t : State} (h : GrantsOnly d s t)
include h

theorem GrantsOnly.sharing (i : Fin Config.clientCount) : (t.client i).sharing = (s.client i).sharing := by
  rw [h.client]; rfl

theorem GrantsOnly.capped (i : Fin Config.clientCount) : (t.client i).capped = (s.client i).capped := by
  rw [h.client]; rfl

theorem GrantsOnly.state (i : Fin Config.clientCount) : (t.client i).state = (s.client i).state := by
  rw [h.client]; rfl

theorem GrantsOnly.grant_of_ne {e : Dir} (he : e ≠ d) (i : Fin Config.clientCount) : t.grant e i = s.grant e i := by
  rw [State.grant, h.client, ClientEntry.dir_setDir, if_neg he]
  rfl

theorem GrantsOnly.client_eq {i : Fin Config.clientCount} (hg : t.grant d i = s.grant d i) :
    t.client i = s.client i := by
  rw [h.client, hg]
  exact ClientEntry.setDir_self _ d

end

/-- Off the list, nothing is given. -/
theorem grant_giveGrants_of_not_mem (d : Dir) {ms : List (Fin Config.clientCount)}
    (gs : List (Fin Config.clientCount × Nat)) (s : State) {i : Fin Config.clientCount} (hi : i ∉ ms) :
    (giveGrants d ms gs s).grant d i = s.grant d i := by
  induction gs generalizing s with
  | nil => rfl
  | cons p rest ih =>
    rw [giveGrants, ih]
    split
    · next hp => rw [grant_drawGrant, if_neg]; rintro ⟨-, rfl⟩; exact hi hp
    · rfl

/-- Who does not share is no joiner. -/
theorem grant_redrawJoiners_of_not_sharing (d : Dir) (ms is : List (Fin Config.clientCount)) {s : State}
    {i : Fin Config.clientCount} (hi : (s.client i).sharing = false) :
    (redrawJoiners d ms is s).grant d i = s.grant d i := by
  induction is generalizing s with
  | nil => rfl
  | cons j rest ih =>
    rw [redrawJoiners]
    split
    · next hj =>
      rw [ih (by rw [(grantsOnly_takeJoinGrant d j s).sharing]; exact hi), takeJoinGrant, grant_drawGrant, if_neg]
      rintro ⟨-, rfl⟩
      rw [hi] at hj
      cases hj.1
    · exact ih hi

/-! ### The grant law while a publish is under way -/

/-- The grant law of a direction, but that grants of the clients in `todo` still count that the publish is to replace. -/
def LawBut (d : Dir) (todo : Finset (Fin Config.clientCount)) (s : State) : Prop :=
  s.grantTotal d + (s.shareDir d).remainder = (s.shareDir d).share + ∑ i ∈ todo, s.grant d i

theorem lawBut_drawGrant {d : Dir} {todo : Finset (Fin Config.clientCount)} {s : State} {i : Fin Config.clientCount}
    {g : Nat} (h : LawBut d todo s) (hi : i ∈ todo) (hg : g ≤ (s.shareDir d).remainder) :
    LawBut d (todo.erase i) (drawGrant d i g s) := by
  have htotal := grantTotal_drawGrant s d i g
  have hsplit : s.grant d i + ∑ j ∈ todo.erase i, s.grant d j = ∑ j ∈ todo, s.grant d j :=
    Finset.add_sum_erase todo (s.grant d) hi
  have hrest : ∑ j ∈ todo.erase i, (drawGrant d i g s).grant d j = ∑ j ∈ todo.erase i, s.grant d j :=
    Finset.sum_congr rfl fun j hj => by
      rw [grant_drawGrant, if_neg]
      rintro ⟨-, rfl⟩
      exact Finset.notMem_erase j todo hj
  unfold LawBut at h ⊢
  rw [hrest, shareDir_drawGrant, if_pos rfl]
  simp only
  omega

theorem capLimit_le (s : State) (i : Fin Config.clientCount) (g : Nat) : s.capLimit i g ≤ g := by
  unfold State.capLimit
  split <;> omega

/-- R29 step 2: the grants of those on the list are replaced. -/
theorem lawBut_giveGrants {d : Dir} {todo : Finset (Fin Config.clientCount)} {s : State}
    {ms : List (Fin Config.clientCount)} {gs : List (Fin Config.clientCount × Nat)} (h : LawBut d todo s)
    (hnodup : (gs.map Prod.fst).Nodup) (htodo : ∀ i ∈ gs.map Prod.fst, i ∈ todo)
    (hsum : (gs.map Prod.snd).sum ≤ (s.shareDir d).remainder) :
    LawBut d (todo.filter fun i => ¬(i ∈ ms ∧ i ∈ gs.map Prod.fst)) (giveGrants d ms gs s) := by
  induction gs generalizing s todo with
  | nil => simpa [giveGrants] using h
  | cons p rest ih =>
    obtain ⟨i, g⟩ := p
    rw [List.map_cons, List.nodup_cons] at hnodup
    rw [List.map_cons, List.sum_cons] at hsum
    have hi : i ∈ todo := htodo i (by simp)
    have hrest : ∀ j ∈ rest.map Prod.fst, j ∈ todo := fun j hj => htodo j (List.mem_cons_of_mem _ hj)
    rw [giveGrants]
    split
    · next hms =>
      have hle := capLimit_le s i g
      have hdrawn := ih (lawBut_drawGrant h hi (g := s.capLimit i g) (by omega)) hnodup.2
        (fun j hj => Finset.mem_erase.2 ⟨fun hji => hnodup.1 (hji ▸ hj), hrest j hj⟩)
        (by rw [shareDir_drawGrant, if_pos rfl]; simp only; omega)
      convert hdrawn using 1
      ext j
      by_cases hji : j = i
      · subst hji; simp [hms]
      · simp [hji]
    · next hms =>
      convert ih h hnodup.2 hrest (by omega) using 1
      ext j
      by_cases hji : j = i
      · subst hji; simp [hms]
      · simp [hji]

/-- R29 step 4, R30: the grants of the joiners are replaced. -/
theorem lawBut_redrawJoiners {d : Dir} {todo : Finset (Fin Config.clientCount)} {s : State}
    {ms is : List (Fin Config.clientCount)} (h : LawBut d todo s) (hnodup : is.Nodup)
    (htodo : ∀ i ∈ is, i ∉ ms → i ∈ todo) :
    LawBut d (todo.filter fun i => ¬(i ∈ is ∧ (s.client i).sharing = true ∧ i ∉ ms)) (redrawJoiners d ms is s) := by
  induction is generalizing s todo with
  | nil => simpa [redrawJoiners] using h
  | cons i rest ih =>
    rw [List.nodup_cons] at hnodup
    have hrest : ∀ j ∈ rest, j ∉ ms → j ∈ todo := fun j hj => htodo j (List.mem_cons_of_mem _ hj)
    rw [redrawJoiners]
    split
    · next hjoin =>
      rw [takeJoinGrant]
      have hdrawn := ih (lawBut_drawGrant h (htodo i List.mem_cons_self hjoin.2) (joinAmount_le s d i)) hnodup.2
        (fun j hj hms => Finset.mem_erase.2 ⟨fun hji => hnodup.1 (hji ▸ hj), hrest j hj hms⟩)
      convert hdrawn using 1
      ext j
      rw [Finset.mem_filter, Finset.mem_filter, (grantsOnly_drawGrant d i _ s).sharing]
      by_cases hji : j = i
      · subst hji; simp [hjoin.1, hjoin.2]
      · simp [hji]
    · next hjoin =>
      convert ih h hnodup.2 hrest using 1
      ext j
      by_cases hji : j = i
      · subst hji
        simp only [Finset.mem_filter]
        tauto
      · simp [hji]

/-! ### The publish of a direction -/

theorem shareDir_setShare (d e : Dir) (held : Bool) (share : Nat) (s : State) :
    (setShare d held share s).shareDir e = if e = d then
      { s.shareDir d with
        share := share, held := if held then (s.shareDir d).held else share, remainder := share, sharesValid := true }
    else s.shareDir e := by
  simp [setShare]

/-- A publish gives and redraws from the share that R22 lays down. -/
theorem grantsOnly_publishDir (d : Dir) (n : Snapshot) (s : State) :
    GrantsOnly d (setShare d n.held (passShare s.mp.cfg n (s.shareDir d).held d) s) (publishDir d n s) :=
  (grantsOnly_giveGrants d _ _ _).trans (grantsOnly_redrawJoiners d _ _ _)

theorem grant_publishDir_of_not_sharing (d : Dir) {n : Snapshot} {s : State} {i : Fin Config.clientCount}
    (hlist : i ∉ n.membership) (hno : (s.client i).sharing = false) :
    (publishDir d n s).grant d i = s.grant d i := by
  unfold publishDir
  dsimp only
  rw [grant_redrawJoiners_of_not_sharing, grant_giveGrants_of_not_mem d _ _ hlist]
  · rfl
  · rw [(grantsOnly_giveGrants d _ _ _).sharing]
    exact hno

/-- For every length, so that no check evaluates a table of clients. -/
theorem sum_map_toList {α : Type} {k : Nat} (v : Vector α k) (f : α → Nat) :
    (v.toList.map f).sum = ∑ i : Fin k, f v[i.val] := by
  rw [← List.sum_ofFn]
  congr 1
  apply List.ext_getElem <;> simp

theorem grantTotal_eq_sum (s : State) (d : Dir) : s.grantTotal d = ∑ i, s.grant d i :=
  sum_map_toList s.ct.entries fun e => (e.dir d).grant

/-- Before the first grant is given, the whole share is in the remainder and every grant is to be replaced. -/
theorem lawBut_setShare (d : Dir) (held : Bool) (share : Nat) (s : State) :
    LawBut d Finset.univ (setShare d held share s) := by
  rw [LawBut, ← grantTotal_eq_sum, shareDir_setShare, if_pos rfl]
  exact Nat.add_comm _ _

/-- Once nobody but clients without a grant is left, the law holds. -/
theorem LawBut.law {d : Dir} {todo : Finset (Fin Config.clientCount)} {s : State} (h : LawBut d todo s)
    (hzero : ∀ i ∈ todo, s.grant d i = 0) :
    s.grantTotal d + (s.shareDir d).remainder = (s.shareDir d).share := by
  rw [h, Finset.sum_eq_zero hzero, Nat.add_zero]

/-- R29, R33: after a publish the direction's grants and remainder add up to its share. -/
theorem publishDir_sum {s : State} {n : Snapshot} (d : Dir) (hs : SharesOk s) (hn : s.se.snapshot = some n) :
    (publishDir d n s).grantTotal d + ((publishDir d n s).shareDir d).remainder =
      ((publishDir d n s).shareDir d).share := by
  obtain ⟨hindices, -, hlist⟩ := hs.members n hn
  have hgiven := lawBut_giveGrants (ms := n.membership)
    (lawBut_setShare d n.held (passShare s.mp.cfg n (s.shareDir d).held d) s)
    (nodup_computedGrants_indices s.mp.cfg n d (passShare s.mp.cfg n (s.shareDir d).held d) hindices)
    (fun _ _ => Finset.mem_univ _)
    (by rw [shareDir_setShare, if_pos rfl]; exact computedGrants_sum_le _ _ _ _)
  have hredrawn := lawBut_redrawJoiners (ms := n.membership) hgiven (List.nodup_finRange Config.clientCount)
    fun i _ hms => Finset.mem_filter.2 ⟨Finset.mem_univ i, fun hgiven => hms hgiven.1⟩
  refine hredrawn.law fun i hi => ?_
  rw [Finset.mem_filter, Finset.mem_filter, (grantsOnly_giveGrants d _ _ _).sharing, setShare_client,
    mem_computedGrants_indices] at hi
  obtain ⟨⟨-, hnotGiven⟩, hnotRedrawn⟩ := hi
  have hms : i ∉ n.membership := fun hms => hnotGiven ⟨hms, (hlist i hms).1⟩
  have hno : (s.client i).sharing = false := by simpa [hms] using hnotRedrawn
  exact (grant_publishDir_of_not_sharing d hms hno).trans (hs.holders i d hno)

theorem shareDir_publishDir_of_ne {d e : Dir} (he : e ≠ d) (n : Snapshot) (s : State) :
    (publishDir d n s).shareDir e = s.shareDir e := by
  rw [(grantsOnly_publishDir d n s).shares, if_neg he, shareDir_setShare, if_neg he]

theorem sharesValid_publishDir (d : Dir) (n : Snapshot) (s : State) :
    ((publishDir d n s).shareDir d).sharesValid = true := by
  rw [(grantsOnly_publishDir d n s).shares, if_pos rfl, shareDir_setShare, if_pos rfl]

/-- R33: the publish of a direction keeps the law in both. -/
theorem grantLaw_publishDir {s : State} {n : Snapshot} (d : Dir) (hs : SharesOk s) (hn : s.se.snapshot = some n) :
    GrantLaw (publishDir d n s) where
  sum e := by
    by_cases he : e = d
    · subst he
      exact publishDir_sum e hs hn
    · rw [grantTotal_congr fun i => (grantsOnly_publishDir d n s).grant_of_ne he i, shareDir_publishDir_of_ne he]
      exact hs.law.sum e
  before e hv := by
    by_cases he : e = d
    · subst he
      rw [sharesValid_publishDir] at hv
      cases hv
    · rw [shareDir_publishDir_of_ne he] at hv ⊢
      exact hs.law.before e hv

theorem sharesOk_publishDir {s : State} {n : Snapshot} (d : Dir) (hs : SharesOk s) (hn : s.se.snapshot = some n) :
    SharesOk (publishDir d n s) := by
  have honly := grantsOnly_publishDir d n s
  have hsharing (i : Fin Config.clientCount) : ((publishDir d n s).client i).sharing = (s.client i).sharing :=
    honly.sharing i
  have hgrant {i : Fin Config.clientCount} (hno : (s.client i).sharing = false) :
      (publishDir d n s).grant d i = s.grant d i :=
    grant_publishDir_of_not_sharing d (fun hms => by
      rw [((hs.members n hn).2.2 i hms).2] at hno
      cases hno) hno
  refine ⟨grantLaw_publishDir d hs hn, fun i e hno => ?_, fun i hfree => ?_, fun m hm => ?_⟩
  · rw [hsharing] at hno
    by_cases he : e = d
    · rw [he, hgrant hno, hs.holders i d hno]
    · rw [honly.grant_of_ne he]
      exact hs.holders i e hno
  · have hfree : (s.client i).state = .free := (honly.state i).symm.trans hfree
    have hno : (s.client i).sharing = false := sharing_eq_false_of_state (by rw [hfree]; decide)
    exact (honly.client_eq (hgrant hno)).trans (hs.free i hfree)
  · obtain ⟨hindices, hnodup, hmem⟩ := hs.members m (honly.snapshot ▸ hm)
    exact ⟨hindices, hnodup, fun i hi => ⟨(hmem i hi).1, (hsharing i).trans (hmem i hi).2⟩⟩

/-! ### The pass -/

theorem completePass_se (n : Snapshot) (s : State) : (completePass n s).se =
    { (storeOwn .down n (storeOwn .up n s)).se with pass := .noPass, snapshot := none } := by
  unfold completePass
  simp

/-- R19, R31: the end of a pass stores own values beside the shares. -/
theorem shareDir_completePass (n : Snapshot) (s : State) (d : Dir) :
    ((completePass n s).shareDir d).share = (s.shareDir d).share ∧
      ((completePass n s).shareDir d).remainder = (s.shareDir d).remainder ∧
      ((completePass n s).shareDir d).sharesValid = (s.shareDir d).sharesValid := by
  rw [State.shareDir, completePass_se]
  cases d <;> exact ⟨rfl, rfl, rfl⟩

theorem sharesOk_completePass {n : Snapshot} {s : State} (hs : SharesOk s) : SharesOk (completePass n s) := by
  have hclient (i : Fin Config.clientCount) : (completePass n s).client i = s.client i := by simp
  exact hs.of_sameStanding (fun i => hclient i ▸ .refl _) (fun i _ => hclient i) (shareDir_completePass n s)
    (.inr (by rw [completePass_se]))

theorem sharesOk_setPass {s : State} (p : PassState) (hs : SharesOk s) :
    SharesOk { s with se := { s.se with pass := p } } :=
  ⟨⟨hs.law.sum, hs.law.before⟩, hs.holders, hs.free, hs.members⟩

theorem sharesOk_publishPass {s : State} {n : Snapshot} (hs : SharesOk s) (hn : s.se.snapshot = some n) :
    SharesOk (publishPass n s) := by
  unfold publishPass
  split
  · exact hs
  · exact sharesOk_setPass .passDown (sharesOk_publishDir .up hs hn)
  · exact sharesOk_completePass (sharesOk_publishDir .down hs hn)

end Sys2Proof.Machine
end

section
/-! ## Proofs: the invariants of grants, shares and cycle (R8, R15, R26, R33, R36) -/

namespace Sys2Proof.Machine

/-! ### A step is a command on the state with the queue's rest -/

theorem step_cases {s t : State} (h : step s = .next t) :
    t = s ∨ ∃ (c : Instr) (rest : List Instr), Answers c { s with pending := rest } t := by
  unfold step at h
  split at h
  · cases h
    exact .inl rfl
  · next c rest _ => exact .inr ⟨c, rest, h⟩

/-- An invariant that does not look at the waiting commands, and that every command keeps from a state in which `pre`
holds, is kept by every step from there. -/
theorem step_keeps {pre inv : State → Prop} (hpre : ∀ s l, pre s → pre { s with pending := l })
    (hinv : ∀ s l, inv s → inv { s with pending := l })
    (hexec : ∀ (c : Instr) (s t : State), pre s → inv s → Answers c s t → inv t) (s t : State) (hp : pre s)
    (hi : inv s) (h : step s = .next t) : inv t := by
  obtain rfl | ⟨c, rest, hc⟩ := step_cases h
  · exact hi
  · exact hexec c _ t (hpre s rest hp) (hinv s rest hi) hc

theorem partOk_pending (s : State) (l : List Instr) (h : PartOk s) : PartOk { s with pending := l } where
  line := h.line
  rest hs :=
    have r := h.rest hs
    { timer := r.timer, slots := r.slots, entries := r.entries, walk := r.walk, pass := r.pass, requests := r.requests
      records := r.records, writer := r.writer, pendingIndex := r.pendingIndex, bus := r.bus
      logRequest := r.logRequest, slot := r.slot }

/-! ### Shares and grants -/

theorem remainder_le_share {s : State} (h : GrantLaw s) (d : Dir) : (s.shareDir d).remainder ≤ (s.shareDir d).share := by
  have := h.sum d
  omega

theorem sharesOk_answers {c : Instr} {s t : State} (hs : SharesOk s) (h : Answers c s t) : SharesOk t := by
  cases exec_effect h with
  | untouched h => exact hs.congr h.se (by rw [h.ct])
  | setUp h => exact hs.congr h.se (by rw [h.ct])
  | turn i h => exact hs.turn h
  | expiry h => exact h ▸ sharesOk_takeExpiry hs
  | restart h =>
    have hrestarted : SharesOk (restartPart s) :=
      .of_nothingShared (restartPart_nothingShared s) fun i => restartPart_clearIfFree (hs.free i)
    exact h ▸ hrestarted.congr rfl rfl
  | walk w _ h => exact h ▸ sharesOk_stepWalk w hs
  | publish n hn h => exact h ▸ sharesOk_publishPass hs hn
  | reset held h =>
    obtain ⟨-, hse, hct⟩ := deviceReset_blocks h
    exact .of_reset hse hct

/-! ### Capped clients -/

theorem cappedOk_iff_withinCap {s : State} : CappedOk s ↔ ∀ i, WithinCap s i :=
  ⟨fun h i hc d => h i d hc, fun h i d hc => h i hc d⟩

theorem CappedOk.of_sameStanding {s t : State} (hs : CappedOk s) (hentry : ∀ i, (s.client i).SameStanding (t.client i))
    (hcfg : t.mp.cfg = s.mp.cfg) : CappedOk t := fun i d hc => by
  rw [State.grant, (hentry i).grant, hcfg]
  exact hs i d ((hentry i).capped ▸ hc)

theorem CappedOk.congr {s t : State} (hs : CappedOk s) (hct : t.ct.entries = s.ct.entries)
    (hcfg : t.mp.cfg = s.mp.cfg) : CappedOk t :=
  hs.of_sameStanding (fun i => by simp only [State.client, hct]; exact .refl _) hcfg

theorem CappedOk.of_nothingShared {t : State} (h : NothingShared t) : CappedOk t := fun i d _ => by
  rw [h.grant]
  exact Nat.zero_le _

theorem CappedOk.turn {i : Fin Config.clientCount} {s t : State} (h : ClientTurn i s t) (hs : CappedOk s) :
    CappedOk t := fun j d hc => by
  by_cases hj : j = i
  · subst hj
    exact h.capped (cappedOk_iff_withinCap.1 hs j) hc d
  · rw [h.others.2 j hj] at hc
    rw [State.grant, h.others.2 j hj, h.cfg]
    exact hs j d hc

/-- A grant that a capped client is given within the capped rate. -/
theorem cappedOk_drawGrant {d : Dir} {i : Fin Config.clientCount} {g : Nat} {s : State} (hs : CappedOk s)
    (hg : (s.client i).capped = true → g ≤ s.mp.cfg.cappedRate.toNat) : CappedOk (drawGrant d i g s) := fun j e hc => by
  rw [(grantsOnly_drawGrant d i g s).capped] at hc
  rw [grant_drawGrant, drawGrant_cfg]
  split
  · next hij => exact hg (hij.2 ▸ hc)
  · exact hs j e hc

theorem capLimit_le_cappedRate {s : State} {i : Fin Config.clientCount} (g : Nat) (h : (s.client i).capped = true) :
    s.capLimit i g ≤ s.mp.cfg.cappedRate.toNat := by
  rw [State.capLimit, if_pos h]
  exact Nat.min_le_left _ _

theorem cappedOk_giveGrants (d : Dir) (ms : List (Fin Config.clientCount)) (gs : List (Fin Config.clientCount × Nat))
    {s : State} (hs : CappedOk s) : CappedOk (giveGrants d ms gs s) := by
  induction gs generalizing s with
  | nil => exact hs
  | cons p rest ih =>
    rw [giveGrants]
    split
    · exact ih (cappedOk_drawGrant hs (capLimit_le_cappedRate _))
    · exact ih hs

theorem cappedOk_redrawJoiners (d : Dir) (ms is : List (Fin Config.clientCount)) {s : State} (hs : CappedOk s) :
    CappedOk (redrawJoiners d ms is s) := by
  induction is generalizing s with
  | nil => exact hs
  | cons i rest ih =>
    rw [redrawJoiners]
    split
    · exact ih (cappedOk_drawGrant hs (capLimit_le_cappedRate _))
    · exact ih hs

theorem cappedOk_publishDir (d : Dir) (n : Snapshot) {s : State} (hs : CappedOk s) : CappedOk (publishDir d n s) :=
  cappedOk_redrawJoiners d _ _ (cappedOk_giveGrants d _ _ (hs.congr rfl rfl))

theorem cappedOk_setPass {s : State} (p : PassState) (hs : CappedOk s) :
    CappedOk { s with se := { s.se with pass := p } } := hs

theorem cappedOk_publishPass (n : Snapshot) {s : State} (hs : CappedOk s) : CappedOk (publishPass n s) := by
  unfold publishPass
  split
  · exact hs
  · exact cappedOk_setPass .passDown (cappedOk_publishDir .up n hs)
  · exact (cappedOk_publishDir .down n hs).congr (by simp) (by simp)

theorem cappedOk_stepWalk (w : Walk) {s : State} (hs : CappedOk s) : CappedOk (stepWalk w s) := by
  have hclosed : CappedOk (closeEntry w.next w.length s) := hs.turn (closeEntry_turn _ _ _)
  unfold stepWalk
  dsimp only
  split
  · exact hclosed.congr rfl rfl
  · exact hclosed.congr (by simp) (by simp)

/-- Before START every entry is FREE, and none is capped. -/
theorem cappedOk_setUp {s t : State} (hpart : PartOk s) (h : SetUp s t) : CappedOk t := fun i d hc => by
  have hclient : t.client i = ClientEntry.free := by
    rw [State.client, h.ct]
    exact (hpart.rest h.notStarted).entries i
  rw [hclient] at hc
  cases hc

theorem cappedOk_answers {c : Instr} {s t : State} (hpart : PartOk s) (hs : CappedOk s) (h : Answers c s t) :
    CappedOk t := by
  cases exec_effect h with
  | untouched h => exact hs.congr (by rw [h.ct]) h.cfg
  | setUp h => exact cappedOk_setUp hpart h
  | turn i h => exact hs.turn h
  | expiry h => exact h ▸ hs.of_sameStanding (takeExpiry_sameStanding s) (by simp)
  | restart h => exact h ▸ .of_nothingShared ((restartPart_nothingShared s).untouched (endCommand_untouched _ _))
  | walk w _ h => exact h ▸ cappedOk_stepWalk w hs
  | publish n _ h => exact h ▸ cappedOk_publishPass n hs
  | reset held h =>
    obtain ⟨-, hse, hct⟩ := deviceReset_blocks h
    exact .of_nothingShared (nothingShared_of_reset hse hct)

/-! ### The epoch cycle -/

theorem CycleOk.congr {s t : State} (hs : CycleOk s) (hbusy : t.tb.cycleBusy = s.tb.cycleBusy)
    (hwalk : t.ct.walk = s.ct.walk) (hpass : t.se.pass = s.se.pass)
    (hsnapshot : t.se.snapshot = none ↔ s.se.snapshot = none) : CycleOk t where
  busy := by rw [hbusy, hwalk, hpass]; exact hs.busy
  snapshot := by rw [hpass, hsnapshot]; exact hs.snapshot
  walk := by rw [hwalk, hpass]; exact hs.walk

/-- Neither a walk nor a pass, and the marker clear. -/
theorem CycleOk.of_idle {t : State} (hbusy : t.tb.cycleBusy = false) (hwalk : t.ct.walk = none)
    (hpass : t.se.pass = .noPass) (hsnapshot : t.se.snapshot = none) : CycleOk t where
  busy := by simp [hbusy, hwalk, hpass]
  snapshot := by simp [hpass, hsnapshot]
  walk _ := hpass

/-- A walk in progress, and the marker set. -/
theorem CycleOk.of_walk {t : State} (hbusy : t.tb.cycleBusy = true) (hwalk : t.ct.walk.isSome = true)
    (hpass : t.se.pass = .noPass) (hsnapshot : t.se.snapshot = none) : CycleOk t where
  busy := by simp [hbusy, hwalk]
  snapshot := by simp [hpass, hsnapshot]
  walk _ := hpass

/-- A pass in progress, and the marker set. -/
theorem CycleOk.of_pass {t : State} (hbusy : t.tb.cycleBusy = true) (hwalk : t.ct.walk = none)
    (hpass : t.se.pass ≠ .noPass) (hsnapshot : t.se.snapshot.isSome = true) : CycleOk t where
  busy := by simp [hbusy, hpass]
  snapshot := by simp [hpass, Option.isSome_iff_ne_none.1 hsnapshot]
  walk h := by simp [hwalk] at h

theorem ClientTurn.snapshot_eq_none_iff {i : Fin Config.clientCount} {s t : State} (h : ClientTurn i s t) :
    t.se.snapshot = none ↔ s.se.snapshot = none := by
  rcases h.list with ⟨hsame, -⟩ | hstruck
  · rw [hsame]
  · rw [hstruck, Option.map_eq_none_iff]

theorem CycleOk.turn {i : Fin Config.clientCount} {s t : State} (h : ClientTurn i s t) (hs : CycleOk s) : CycleOk t :=
  hs.congr h.busy h.others.1 h.shares.1 h.snapshot_eq_none_iff

/-- While a walk is in progress no pass runs. -/
theorem CycleOk.during_walk {s : State} {w : Walk} (hs : CycleOk s) (hw : s.ct.walk = some w) :
    s.tb.cycleBusy = true ∧ s.se.pass = .noPass ∧ s.se.snapshot = none := by
  have hsome : s.ct.walk.isSome = true := by simp [hw]
  have hpass := hs.walk hsome
  exact ⟨hs.busy.2 (.inl hsome), hpass, hs.snapshot.1 hpass⟩

/-- While a pass runs no walk is in progress. -/
theorem CycleOk.during_pass {s : State} (hs : CycleOk s) (hpass : s.se.pass ≠ .noPass) :
    s.tb.cycleBusy = true ∧ s.ct.walk = none ∧ s.se.snapshot.isSome = true :=
  ⟨hs.busy.2 (.inr hpass), Option.not_isSome_iff_eq_none.1 fun h => hpass (hs.walk h),
    Option.isSome_iff_ne_none.2 fun h => hpass (hs.snapshot.2 h)⟩

theorem takeExpiry_tb (s : State) : (takeExpiry s).tb = (flipOrAbsorb (countExpiry s)).tb := by
  unfold takeExpiry
  simp [State.setLine]

theorem takeExpiry_walk (s : State) : (takeExpiry s).ct.walk = (flipOrAbsorb (countExpiry s)).ct.walk := by
  unfold takeExpiry
  simp [State.setLine]

/-- R6, R7: the expiry starts a walk where the cycle is idle, and is absorbed where it is busy. -/
theorem cycleOk_takeExpiry {s : State} (hs : CycleOk s) : CycleOk (takeExpiry s) := by
  by_cases hbusy : s.tb.cycleBusy = true
  · have habsorbed : flipOrAbsorb (countExpiry s) = countExpiry s := if_pos hbusy
    refine hs.congr ?_ ?_ (by simp) (by simp)
    · rw [takeExpiry_tb, habsorbed]; rfl
    · rw [takeExpiry_walk, habsorbed]; rfl
  · have hidle : ¬ s.se.pass ≠ .noPass := fun hpass => hbusy (hs.busy.2 (.inr hpass))
    have hpass : s.se.pass = .noPass := by simpa using hidle
    have hflipped : flipOrAbsorb (countExpiry s) = flipWindows (countExpiry s).tb.windowLength
        ((countExpiry s).setTb { (countExpiry s).tb with cycleBusy := true, windowLength := 0 }) := if_neg hbusy
    refine .of_walk ?_ ?_ (by simpa using hpass) (by simpa using hs.snapshot.1 hpass)
    · rw [takeExpiry_tb, hflipped]; rfl
    · rw [takeExpiry_walk, hflipped]; rfl

/-- R8, R10: RESTART ends a pass and with it the cycle, and leaves a walk in progress. -/
theorem cycleOk_restartPart {s : State} (hs : CycleOk s) : CycleOk (restartPart s) := by
  by_cases hpass : s.se.pass = .noPass
  · have hbusy : (restartPart s).tb.cycleBusy = s.tb.cycleBusy := if_pos hpass
    refine hs.congr hbusy rfl hpass.symm ?_
    rw [hs.snapshot.1 hpass]
    exact ⟨fun _ => rfl, fun _ => rfl⟩
  · exact .of_idle (if_neg hpass) (hs.during_pass hpass).2.1 rfl rfl

theorem cycleOk_closureComplete {s : State} (hbusy : s.tb.cycleBusy = true) (hwalk : s.ct.walk = none)
    (hpass : s.se.pass = .noPass) (hsnapshot : s.se.snapshot = none) : CycleOk (closureComplete s) := by
  unfold closureComplete
  split
  · exact .of_pass hbusy hwalk (by simp) rfl
  · exact .of_idle rfl hwalk hpass hsnapshot

theorem cycleOk_stepWalk {s : State} {w : Walk} (hs : CycleOk s) (hw : s.ct.walk = some w) : CycleOk (stepWalk w s) := by
  have hturn := closeEntry_turn w.next w.length s
  obtain ⟨hbusy, hpass, hsnapshot⟩ := (hs.turn hturn).during_walk (hturn.others.1.trans hw)
  unfold stepWalk
  dsimp only
  split
  · exact .of_walk hbusy rfl hpass hsnapshot
  · exact cycleOk_closureComplete hbusy rfl hpass hsnapshot

theorem completePass_cycle (n : Snapshot) (s : State) :
    (completePass n s).tb.cycleBusy = false ∧ (completePass n s).se.pass = .noPass ∧
      (completePass n s).se.snapshot = none := by
  refine ⟨?_, by rw [completePass_se], by rw [completePass_se]⟩
  unfold completePass
  simp [endCycle]

/-- R26: the publish of UP leads to DOWN, and that of DOWN ends pass and cycle. -/
theorem cycleOk_publishPass {s : State} {n : Snapshot} (hs : CycleOk s) (hn : s.se.snapshot = some n) :
    CycleOk (publishPass n s) := by
  have hpass : s.se.pass ≠ .noPass := fun h => by
    rw [hs.snapshot.1 h] at hn
    cases hn
  obtain ⟨hbusy, hwalk, hsome⟩ := hs.during_pass hpass
  rcases publishPass_cases n s with hsame | ⟨a, ha, hup⟩ | ⟨a, ha, hdown⟩
  · rw [hsame]; exact hs
  · have honly : GrantsOnly .up _ a := ha ▸ grantsOnly_publishDir .up n s
    rw [hup]
    refine .of_pass ?_ (honly.walk.trans hwalk) (by simp) ?_
    · rw [show a.tb = s.tb from honly.tb]; exact hbusy
    · rw [show a.se.snapshot = s.se.snapshot from honly.snapshot]; exact hsome
  · have honly : GrantsOnly .down _ a := ha ▸ grantsOnly_publishDir .down n s
    obtain ⟨hended, hno, hnone⟩ := completePass_cycle n a
    rw [hdown]
    refine .of_idle hended ?_ hno hnone
    rw [(completePass_frame n a).2.1]
    exact honly.walk.trans hwalk

/-- Before START neither a walk nor a pass runs, and START leaves the marker clear. -/
theorem cycleOk_setUp {s t : State} (hpart : PartOk s) (hs : CycleOk s) (h : SetUp s t) : CycleOk t := by
  have hrest := hpart.rest h.notStarted
  have hidle : s.tb.cycleBusy = false := by
    rw [← Bool.not_eq_true, hs.busy, hrest.walk, hrest.pass]
    simp [ShareEngine.reset]
  refine .of_idle ?_ (by rw [h.ct]; exact hrest.walk) (by rw [h.se, hrest.pass]; rfl) (by rw [h.se, hrest.pass]; rfl)
  rcases h.busy with hsame | hclear
  · exact hsame.trans hidle
  · exact hclear

theorem cycleOk_answers {c : Instr} {s t : State} (hpart : PartOk s) (hs : CycleOk s) (h : Answers c s t) :
    CycleOk t := by
  cases exec_effect h with
  | untouched h => exact hs.turn (h.turn ⟨0, by decide⟩)
  | setUp h => exact cycleOk_setUp hpart hs h
  | turn i h => exact hs.turn h
  | expiry h => exact h ▸ cycleOk_takeExpiry hs
  | restart h => exact h ▸ (cycleOk_restartPart hs).congr rfl rfl rfl Iff.rfl
  | walk w hw h => exact h ▸ cycleOk_stepWalk hs hw
  | publish n hn h => exact h ▸ cycleOk_publishPass hs hn
  | reset held h =>
    obtain ⟨htb, hse, hct⟩ := deviceReset_blocks h
    exact .of_idle (by rw [htb]; rfl) (by rw [hct]; rfl) (by rw [hse]; rfl) (by rw [hse]; rfl)

/-! ### The statement -/

/-- R34: a join grant moves an amount from the remainder to one grant. -/
theorem takeJoinGrant_moves {s : State} {d : Dir} {i : Fin Config.clientCount} :
    (takeJoinGrant d i s).grant d i + ((takeJoinGrant d i s).shareDir d).remainder = (s.shareDir d).remainder := by
  have hle := joinAmount_le s d i
  rw [takeJoinGrant, grant_drawGrant, if_pos ⟨rfl, rfl⟩, shareDir_drawGrant, if_pos rfl]
  simp only
  omega

/-- R35, R36: a return moves an amount from one grant to the remainder. -/
theorem returnGrant_moves (keep : Nat) (s : State) (d : Dir) (i : Fin Config.clientCount) :
    (returnGrant keep d i s).grant d i + ((returnGrant keep d i s).shareDir d).remainder =
      s.grant d i + (s.shareDir d).remainder := by
  rw [grant_returnGrant, if_pos ⟨rfl, rfl⟩, shareDir_returnGrant, if_pos rfl]
  simp only
  omega

/-- R38, R39: device reset, and a RESTART that is carried out, leave nothing shared. -/
theorem nothingShared_of_answers {c : Instr} {s t : State}
    (hc : (∃ held, c = .deviceReset held) ∨ (c = .restart ∧ s.commandRuns 2 = true ∧ s.started = true))
    (h : Answers c s t) : NothingShared t := by
  rcases hc with ⟨held, rfl⟩ | ⟨rfl, hruns, hstarted⟩
  · obtain ⟨-, hse, hct⟩ := deviceReset_blocks h
    exact nothingShared_of_reset hse hct
  · have ht : t = endCommand .done (restartPart s) := by
      simpa [Answers, exec, execRestart, hruns, hstarted] using h.symm
    exact ht ▸ (restartPart_nothingShared s).untouched (endCommand_untouched _ _)

/-- Settles O6: the three invariants are kept command by command, by what each command can do (`ShareEffect`). -/
theorem grantLawIsKept : Obligations.GrantLawIsKept := by
  refine ⟨.of_reset rfl rfl, fun s t hs h => ?_, fun s d i _ => ⟨takeJoinGrant_moves, fun j hj => ?_⟩,
    fun keep s d i => ⟨returnGrant_moves keep s d i, fun j hj => ?_⟩, fun c s t hc h d => ?_, ?_, ?_⟩
  · have ht : SharesOk t := step_keeps (pre := fun _ => True) (fun _ _ _ => trivial)
      (fun _ _ hs => hs.congr rfl rfl) (fun _ _ _ _ hs h => sharesOk_answers hs h) s t trivial hs h
    exact ⟨ht, remainder_le_share ht.law⟩
  · rw [takeJoinGrant, grant_drawGrant, if_neg fun h => hj h.2]
  · rw [grant_returnGrant, if_neg fun h => hj h.2]
  · have hnothing := nothingShared_of_answers hc h
    rw [hnothing.shareDir]
    exact ⟨rfl, rfl, hnothing.grant d⟩
  · exact step_keeps partOk_pending (fun _ _ hs => hs) fun _ _ _ => cappedOk_answers
  · exact step_keeps partOk_pending (fun _ _ hs => hs.congr rfl rfl rfl Iff.rfl) fun _ _ _ => cycleOk_answers

end Sys2Proof.Machine
end

section
/-! ## Proofs: the clamps on a notice (R73) -/

namespace Sys2Proof.Machine

/-! ### One direction's figures, steps 1 to 4 -/

/-- R73, steps 1, 3 and 4: the case split is the one of the three steps, and the cap keeps a weight from 1 on above 0. -/
theorem Figures.clamp_weight_eq_zero_iff (f : Figures) : f.clamp.weight = 0 ↔ f.demand = 0 := by
  unfold Figures.clamp
  split
  case isTrue hdemand => simp [hdemand]
  case isFalse hdemand =>
    split
    case isTrue => simp [hdemand]
    case isFalse hweight => simp only [hdemand, iff_false]; omega

/-! ### The whole notice -/

/-- R73: a direction's figures go through steps 1 to 4, and without GATEWAY lose their uplink to step 5. -/
theorem Notice.figures_clamp_get (n : Notice) (d : Dir) :
    n.clamp.figures.get d =
      { (n.figures.get d).clamp with uplink := if n.gateway = true then min 16383 (n.figures.get d).uplink else 0 } := by
  unfold Notice.clamp
  cases n.gateway with
  | true => exact PerDir.get_map ..
  | false => simp

/-- R73, step 6. -/
theorem Notice.stale_clamp (n : Notice) : n.clamp.stale = (n.gateway && n.stale) := by
  unfold Notice.clamp
  cases n.gateway with
  | true => exact (Bool.true_and _).symm
  | false => exact (Bool.false_and _).symm

/-- R73: what the clamps leave alone. -/
theorem Notice.clamp_frame (n : Notice) :
    n.clamp = { n with figures := n.clamp.figures, stale := n.clamp.stale } := by
  unfold Notice.clamp
  cases n.gateway with
  | true => rfl
  | false => rfl

/-! ### Delivery -/

/-- R74: a notice of another station goes to the peer table, clamped. -/
theorem deliverNotice_of_other {n : Notice} {s : State} (h : n.station ≠ s.mp.cfg.stationId) :
    deliverNotice n s = takeNotice n.clamp s := if_neg h

/-- Settles O35: each clause is a law of the clamp of one direction's figures, of the whole notice, or of the delivery. -/
theorem receivedFiguresAreClamped : Obligations.ReceivedFiguresAreClamped := by
  intro n d
  dsimp only
  rw [n.figures_clamp_get d]
  exact ⟨rfl, rfl, rfl, rfl, n.stale_clamp, (n.figures.get d).clamp_weight_eq_zero_iff, n.clamp_frame,
    fun _ => deliverNotice_of_other⟩

end Sys2Proof.Machine
end

section
/-! ## Proofs: the decision of a METER (R132) -/

namespace Sys2Proof.Machine

/-! ### The decision on given levels -/

/-- R132, first case: the committed level holds the frame. -/
theorem decideDir_of_le_committed {length : Nat} {x : ClientDir} (h : length ≤ x.committed) :
    decideDir length x = (.pass, { x with committed := x.committed - length }) := if_pos h

/-- R132, second case: the excess level holds the frame that the committed level does not. -/
theorem decideDir_of_le_excess {length : Nat} {x : ClientDir} (hcommitted : x.committed < length)
    (hexcess : length ≤ x.excess) : decideDir length x = (.mark, { x with excess := x.excess - length }) := by
  unfold decideDir
  rw [if_neg hcommitted.not_ge, if_pos hexcess]

/-- R132, third case: neither level holds the frame, and both stay. -/
theorem decideDir_of_above_levels {length : Nat} {x : ClientDir} (hcommitted : x.committed < length)
    (hexcess : x.excess < length) : decideDir length x = (.drop, x) := by
  unfold decideDir
  rw [if_neg hcommitted.not_ge, if_neg hexcess.not_ge]

/-- R132: no frame is marked on an empty excess bucket, since the committed level alone tells pass from drop. -/
theorem decideDir_ne_mark_of_no_excess {length : Nat} {x : ClientDir} (hlength : 1 ≤ length) (hempty : x.excess = 0) :
    (decideDir length x).1 ≠ .mark := by
  rcases Nat.lt_or_ge x.committed length with hcommitted | hcommitted
  · have hexcess : x.excess < length := hempty.trans_lt hlength
    rw [decideDir_of_above_levels hcommitted hexcess]
    exact Verdict.noConfusion
  · rw [decideDir_of_le_committed hcommitted]
    exact Verdict.noConfusion

/-! ### The levels and the answer around it -/

/-- R129, R130: the excess depth of a capped entry is 0, and a refill keeps the level within the depth. -/
theorem excess_refillDir_capped (c : ConfigWords) (now : BitVec 20) (x : ClientDir) :
    (refillDir c true now x).excess = 0 := Nat.zero_min _

/-- R125: what the service leaves on the lane, whatever the counting and the watch unit did before. -/
theorem lane_finishMeter (r : Request) (d : Dir) (i : Fin Config.clientCount) (v : Verdict) (why : Reason) (grant : Nat)
    (s : State) : (finishMeter r d i v why grant s).me.lane = some ⟨r.tag, v.outcome, why, r.code⟩ := rfl

/-- Settles O48: the three cases of the decision, no mark on an empty excess bucket, the refill of a capped entry, and the
lane behind the service. -/
theorem decisionDrawsFromOneBucket : Obligations.DecisionDrawsFromOneBucket := fun _ x =>
  ⟨decideDir_of_le_committed, decideDir_of_le_excess, decideDir_of_above_levels, decideDir_ne_mark_of_no_excess,
    fun c now => excess_refillDir_capped c now x, fun r d i _ => lane_finishMeter r d i _ _ _ _⟩

end Sys2Proof.Machine
end

section
/-! ## Proofs: the parts of the state that a command leaves alone -/

namespace Sys2Proof.Machine

theorem MaintPort.serial_of_noFlags {m n : MaintPort} (h : m.noFlags = n.noFlags) : m.serial = n.serial :=
  (congrArg MaintPort.serial h :)

theorem MaintPort.running_of_noFlags {m n : MaintPort} (h : m.noFlags = n.noFlags) : m.running = n.running :=
  (congrArg MaintPort.running h :)

/-! ### Parts, and operations that act on some of them alone -/

/-- The parts of the state that the rules over all commands speak of. -/
inductive Part
  | time | shares | peers | line | clients | meter | log | bus | config | flags | channel | serial | memory | held | waiting
deriving DecidableEq

/-- What it means that a part is left alone: it is as it was; but flags may be raised, and a running command may end. -/
def Part.Kept : Part → State → State → Prop
  | .time, s, t => t.tb = s.tb
  | .shares, s, t => t.se = s.se
  | .peers, s, t => t.pt = s.pt
  | .line, s, t => t.li = s.li
  | .clients, s, t => t.ct = s.ct
  | .meter, s, t => t.me = s.me
  | .log, s, t => t.lw = s.lw
  | .bus, s, t => t.mc = s.mc
  | .config, s, t => t.mp.cfg = s.mp.cfg
  | .flags, s, t => ∀ n, s.mp.flags.getLsbD n = true → t.mp.flags.getLsbD n = true
  | .channel, s, t => t.mp.running = true → s.mp.running = true
  | .serial, s, t => t.mp.serial = s.mp.serial
  | .memory, s, t => t.mem = s.mem
  | .held, s, t => t.resetLow = s.resetLow
  | .waiting, s, t => t.pending = s.pending

/-- The parts that a command may act on. -/
@[simp] def partsOf : Instr → List Part
  | .deviceReset _ => [.time, .shares, .peers, .line, .clients, .meter, .log, .bus, .config, .flags, .channel, .serial,
      .memory, .held]
  | .millisecondTick _ _ => [.time, .peers, .line]
  | .epochExpiry => [.time, .clients, .peers, .line, .log, .bus]
  | .start _ => [.time, .line, .peers, .meter, .log]
  | .restart => [.time, .shares, .clients, .peers, .line]
  | .leave | .resume | .carrierIdle _ | .busyPeriodStart _ | .busyPeriodLimit _ | .framingError _ | .jitterExpiry
  | .attemptStart _ | .readbackMismatch | .noticeSent | .backoffExpiry | .stuckLine _ | .runLengthOverflow _ => [.line]
  | .syncEpoch => [.time]
  | .block | .unblock | .setTier => [.shares, .clients]
  | .setAllowance => [.clients]
  | .evict => [.shares, .clients, .log, .bus]
  | .closureStep => [.time, .shares, .clients, .log, .bus]
  | .publish => [.time, .shares, .clients, .line]
  | .compositionEdge | .uplinkWrite _ _ => [.peers]
  | .frameReceived _ _ | .lineByteReceived _ _ => [.peers, .line, .log, .bus]
  | .lineRestoration => [.peers, .line]
  | .requestPresented _ _ _ _ | .recordStartStrobe _ _ | .refusalSent | .unknownRequest => [.meter]
  | .meter | .detach => [.shares, .clients, .meter, .log, .bus]
  | .attach => [.shares, .clients, .meter]
  | .move => [.clients, .meter]
  | .logIndexLowWrite _ | .logIndexLowRead | .thresholdLowWrite _ | .thresholdLowRead | .lostCountWrite _ => [.log]
  | .memAddrLowWrite _ | .memDataRead | .memDataWrite _ | .turnaroundEnd | .setupEnd => [.bus]
  | .strobeEnd _ | .waitTimeout => [.bus, .memory]
  | .accessEnd => [.log, .bus]
  | .configWrite _ _ => [.config]
  | .interruptFlagsWrite _ => [.flags]
  | .commandCodeWrite _ | .unknownCommand _ => [.channel]
  | .registerWrite _ _ => [.config, .peers, .channel, .flags, .log, .bus]
  | .readClient | .readPeer | .watchModeWrite _ _ | .watchCountLowWrite _ _ | .watchCountLowRead _ | .watchStatusWrite _
  | .interruptEnablesWrite _ | .refusedStatusWrite _ => []

theorem Part.Kept.refl (p : Part) (s : State) : p.Kept s s := by
  cases p
  case flags => exact fun _ h => h
  case channel => exact id
  all_goals exact rfl

theorem Part.Kept.trans {p : Part} {s t u : State} (h : p.Kept s t) (k : p.Kept t u) : p.Kept s u := by
  cases p
  case flags => exact fun n hn => k n (h n hn)
  case channel => exact fun hu => h (k hu)
  all_goals exact Eq.trans k h

/-- From `s` to `t` every part outside the list is left alone. -/
def ActsOn (ps : List Part) (s t : State) : Prop := ∀ p, p ∉ ps → p.Kept s t

theorem ActsOn.refl (ps : List Part) (s : State) : ActsOn ps s s := fun p _ => .refl p s

theorem ActsOn.trans {ps : List Part} {s t u : State} (h : ActsOn ps s t) (k : ActsOn ps t u) : ActsOn ps s u :=
  fun p hp => (h p hp).trans (k p hp)

theorem ActsOn.mono {ps qs : List Part} {s t : State} (h : ActsOn ps s t) (hsub : ps ⊆ qs := by simp) :
    ActsOn qs s t := fun p hp => h p fun hmem => hp (hsub hmem)

theorem ActsOn.ite {ps : List Part} {c : Prop} [Decidable c] {s t u : State} (h : ActsOn ps s t) (k : ActsOn ps s u) :
    ActsOn ps s (if c then t else u) := by
  split
  · exact h
  · exact k

theorem ActsOn.outOfReset {ps : List Part} {s t : State} (h : ActsOn ps s t) : ActsOn ps s (outOfReset s t) :=
  .ite (.refl ps s) h

/-- The maintenance port is left alone but for flags that are raised. -/
theorem ActsOn.of_noFlags {ps : List Part} {s t : State} (hport : t.mp.noFlags = s.mp.noFlags)
    (hflags : Part.flags.Kept s t)
    (hrest : ∀ p ∈ ([.time, .shares, .peers, .line, .clients, .meter, .log, .bus, .memory, .held, .waiting] : List Part),
      p ∉ ps → p.Kept s t) : ActsOn ps s t := fun p hp => by
  cases p
  case config => exact MaintPort.cfg_of_noFlags hport
  case flags => exact hflags
  case channel => exact fun h => MaintPort.running_of_noFlags hport ▸ h
  case serial => exact MaintPort.serial_of_noFlags hport
  all_goals exact hrest _ (by simp) hp

theorem raise_flags_kept (f : IrqFlag) (s : State) : Part.flags.Kept s (raise f s) := fun _ => raise_flags f

/-! ### The shared operations -/

theorem raise_acts (f : IrqFlag) (s : State) : ActsOn [] s (raise f s) :=
  .of_noFlags rfl (raise_flags_kept f s) (by simp [Part.Kept])

theorem refuseWrite_acts (c : RefusedCause) (a : BitVec 7) (s : State) : ActsOn [] s (refuseWrite c a s) := by
  intro p _
  cases p
  case flags => exact raise_flags_kept .writeRefused _
  case channel => exact id
  all_goals exact rfl

/-- Words of the port that nothing else rests on: arguments, enables, refused-write status. -/
theorem setMp_acts (m : MaintPort) (s : State) (hcfg : m.cfg = s.mp.cfg) (hflags : m.flags = s.mp.flags)
    (hrun : m.running = s.mp.running) (hserial : m.serial = s.mp.serial) : ActsOn [] s (s.setMp m) := by
  intro p _
  cases p
  case config => exact hcfg
  case flags => exact fun _ h => hflags.symm ▸ h
  case channel => exact fun h => hrun ▸ h
  case serial => exact hserial
  all_goals exact rfl

theorem endCommand_acts (o : CommandOutcome) (s : State) : ActsOn [] s (endCommand o s) := by
  intro p _
  cases p
  case flags => exact raise_flags_kept .commandDone _
  case channel => exact fun h => nomatch h
  all_goals exact rfl

/-- A host command that has acted on some parts ends. -/
theorem ActsOn.ends {ps : List Part} {s t : State} (o : CommandOutcome) (h : ActsOn ps s t) :
    ActsOn ps s (endCommand o t) := h.trans (endCommand_acts o t).mono

theorem setWindow_acts (ws : List Word) (s : State) : ActsOn [] s (setWindow ws s) := by
  intro p _
  cases p
  case flags => exact fun _ h => h
  case channel => exact id
  all_goals exact rfl

theorem setDataOut_acts (v : Word) (s : State) : ActsOn [] s (setDataOut v s) := by
  intro p _
  cases p
  case flags => exact fun _ h => h
  case channel => exact id
  all_goals exact rfl

theorem setWatch_acts (k : Fin Config.watchCount) (w : Watch) (s : State) : ActsOn [] s (s.setWatch k w) :=
  .of_noFlags rfl (fun _ h => h) (by simp [Part.Kept])

theorem setLine_acts (l : LineInterface) (s : State) : ActsOn [.line] s (s.setLine l) :=
  .of_noFlags rfl (fun _ h => h) (by simp [Part.Kept])

theorem passLevels_acts (line : List LineLevel) (s : State) : ActsOn [.line] s (s.passLevels line) := setLine_acts _ s

theorem offerRecord_acts (r : Record) (s : State) : ActsOn [.log, .bus] s (offerRecord r s) :=
  .of_noFlags (by simp) (fun _ => offerRecord_flags r s) (by simp [Part.Kept])

theorem respond_acts (r : Request) (o : RspOutcome) (y : Reason) (s : State) : ActsOn [.meter] s (respond r o y s) :=
  .of_noFlags rfl (fun _ h => h) (by simp [Part.Kept])

theorem dequeue_acts (s : State) : ActsOn [.meter] s (dequeue s) :=
  .of_noFlags rfl (fun _ h => h) (by simp [Part.Kept])

/-- A change of the log writer alone. -/
theorem setLog_acts (l : LogWriter) (s : State) : ActsOn [.log] s { s with lw := l } :=
  .of_noFlags rfl (fun _ h => h) (by simp [Part.Kept])

/-- A change of the memory controller alone. -/
theorem setBus_acts (m : MemController) (s : State) : ActsOn [.bus] s { s with mc := m } :=
  .of_noFlags rfl (fun _ h => h) (by simp [Part.Kept])

/-- A change of the peer table alone. -/
theorem setPeers_acts (p : PeerTable) (s : State) : ActsOn [.peers] s { s with pt := p } :=
  .of_noFlags rfl (fun _ h => h) (by simp [Part.Kept])

/-! ### Time base, shares and clients -/

theorem takeExpiry_acts (s : State) : ActsOn [.time, .clients, .peers, .line, .log, .bus] s (takeExpiry s) :=
  .of_noFlags (by simp) (fun _ => takeExpiry_flags s) (by simp [Part.Kept])

theorem takeStart_acts (b : Bool) (s : State) : ActsOn [.time, .line, .peers, .meter, .log] s (takeStart b s) := by
  have hstarts : ActsOn [.time, .line, .peers, .meter, .log] s (startPart b s) :=
    .of_noFlags rfl (fun _ h => h) (by simp [Part.Kept, startPart])
  unfold takeStart
  refine .ite (endCommand_acts _ s).mono ?_
  split
  · next n _ =>
    exact ((endCommand_acts .configInvalid s).trans
      (setMp_acts { (endCommand .configInvalid s).mp with check := n } _ rfl rfl rfl rfl)).mono
  · exact hstarts.ends .done

theorem restartPart_acts (s : State) : ActsOn [.time, .shares, .clients, .peers, .line] s (restartPart s) :=
  .of_noFlags (by simp) (by simp [Part.Kept]) (by simp [Part.Kept])

theorem syncEpoch_acts (s : State) : ActsOn [.time] s (syncEpoch s) :=
  have hreload : ActsOn [.time] s (s.setTb { s.tb with epochTimer := s.mp.cfg.epoch }) :=
    .of_noFlags rfl (fun _ h => h) (by simp [Part.Kept])
  .ite (hreload.ends .done) (endCommand_acts _ s).mono

theorem stepWalk_acts (w : Walk) (s : State) : ActsOn [.time, .shares, .clients, .log, .bus] s (stepWalk w s) :=
  .of_noFlags (by simp) (fun _ => stepWalk_flags w s) (by simp [Part.Kept])

theorem publishPass_acts (n : Snapshot) (s : State) :
    ActsOn [.time, .shares, .clients, .line] s (publishPass n s) :=
  .of_noFlags (by simp) (fun _ => publishPass_flags n s) (by simp [Part.Kept])

theorem blockClient_acts (i : Fin Config.clientCount) (s : State) : ActsOn [.shares, .clients] s (blockClient i s) :=
  .of_noFlags (by simp) (by simp [Part.Kept]) (by simp [Part.Kept])

theorem unblockClient_acts (i : Fin Config.clientCount) (s : State) :
    ActsOn [.shares, .clients] s (unblockClient i s) :=
  .of_noFlags (by simp) (by simp [Part.Kept]) (by simp [Part.Kept])

theorem setClientTier_acts (i : Fin Config.clientCount) (t : Tier) (s : State) :
    ActsOn [.shares, .clients] s (setClientTier i t s) :=
  .of_noFlags (by simp) (by simp [Part.Kept]) (by simp [Part.Kept])

theorem loadClientAllowance_acts (i : Fin Config.clientCount) (v : Word) (s : State) :
    ActsOn [.clients] s (loadClientAllowance i v s) :=
  .of_noFlags (by simp) (by simp [Part.Kept]) (by simp [Part.Kept])

theorem removeClient_acts (i : Fin Config.clientCount) (y : RemovalReason) (s : State) :
    ActsOn [.shares, .clients, .log, .bus] s (removeClient i y s) :=
  .of_noFlags (by simp) (fun _ => removeClient_flags i y s) (by simp [Part.Kept])

/-- R108: a command that is refused only ends. -/
theorem judgeClientCommand_acts_on {ps : List Part} {valid : Bool} {act : Fin Config.clientCount → State → State}
    {s : State} (h : ∀ i, ActsOn ps s (act i s)) : ActsOn ps s (judgeClientCommand valid act s) := by
  have hrefused (o : CommandOutcome) : ActsOn ps s (endCommand o s) := (endCommand_acts o s).mono (by simp)
  unfold judgeClientCommand
  refine .ite (hrefused _) ?_
  split
  · exact hrefused _
  · exact .ite (hrefused _) (.ite (hrefused _) (h _))

theorem readClientPage_acts (s : State) : ActsOn [] s (readClientPage s) := by
  unfold readClientPage
  split
  · exact endCommand_acts _ s
  · split
    · exact endCommand_acts _ s
    · exact (setWindow_acts _ s).ends .done

/-! ### Peer table and line interface -/

theorem readPeerSlot_acts (s : State) : ActsOn [] s (readPeerSlot s) := by
  unfold readPeerSlot
  split
  · exact endCommand_acts _ s
  · exact (setWindow_acts _ s).ends .done

theorem takeEdge_acts (s : State) : ActsOn [.peers] s (takeEdge s) :=
  .of_noFlags (by simp) (by simp [Part.Kept]) (by simp [Part.Kept])

theorem writeUplink_acts (d : Dir) (v : Word) (s : State) : ActsOn [.peers] s (writeUplink d v s) :=
  .ite (setPeers_acts _ s) (refuseWrite_acts _ _ s).mono

theorem leaveTrain_acts (s : State) : ActsOn [.line] s (leaveTrain s) :=
  have hsends (u : State) : ActsOn [.line] u (sendLeaving u) :=
    .of_noFlags (by simp) (fun _ => sendLeaving_flags u) (by simp [Part.Kept])
  .ite (((setLine_acts _ s).trans (hsends _)).ends .done) (endCommand_acts _ s).mono

theorem resumeStation_acts (s : State) : ActsOn [.line] s (resumeStation s) :=
  .ite ((setLine_acts _ s).ends .done) (endCommand_acts _ s).mono

theorem receiveByte_acts (b : Byte) (s : State) : ActsOn [.peers, .line, .log, .bus] s (receiveByte b s) :=
  .of_noFlags (by simp) (fun _ => receiveByte_flags b s) (by simp [Part.Kept])

theorem receiveCheck_acts (b : Byte) (s : State) : ActsOn [.peers, .line, .log, .bus] s (receiveCheck b s) :=
  .of_noFlags (by simp) (fun _ => receiveCheck_flags b s) (by simp [Part.Kept])

theorem failAttempt_acts (s : State) : ActsOn [.line] s (failAttempt s) :=
  .of_noFlags (by simp) (fun _ => failAttempt_flags s) (by simp [Part.Kept])

theorem enterLineFault_acts (s : State) : ActsOn [.line] s (enterLineFault s) :=
  .of_noFlags (by simp) (fun _ => enterLineFault_flags s) (by simp [Part.Kept])

theorem restoreStation_acts (s : State) : ActsOn [.peers, .line] s (restoreStation s) :=
  .of_noFlags (by simp) (fun _ => restoreStation_flags s) (by simp [Part.Kept])

/-! ### Metering engine -/

theorem completeRecord_acts (bytes : List Byte) (s : State) : ActsOn [.meter] s (completeRecord bytes s) :=
  .of_noFlags (by simp) (by simp [Part.Kept]) (by simp [Part.Kept])

theorem startRecord_acts (b : Byte) (more : List Byte) (s : State) : ActsOn [.meter] s (startRecord b more s) :=
  .of_noFlags rfl (fun _ h => h) (by simp [Part.Kept])

theorem meterEntry_acts (r : Request) (d : Dir) (i : Fin Config.clientCount) (s : State) :
    ActsOn [.shares, .clients, .meter, .log, .bus] s (meterEntry r d i s) :=
  .of_noFlags (by simp) (fun _ => meterEntry_flags r d i s) (by simp [Part.Kept])

theorem attachClient_acts (i : Fin Config.clientCount) (t : Tier) (g : BitVec 3) (p : BitVec 12) (s : State) :
    ActsOn [.shares, .clients, .meter] s (attachClient i t g p s).1 :=
  .of_noFlags (by simp) (by simp [Part.Kept]) (by simp [Part.Kept])

theorem moveClient_acts (i : Fin Config.clientCount) (g : BitVec 3) (p : BitVec 12) (s : State) :
    ActsOn [.clients, .meter] s (moveClient i g p s).1 :=
  .of_noFlags (by simp) (by simp [Part.Kept]) (by simp [Part.Kept])

theorem detachClient_acts (i : Fin Config.clientCount) (s : State) :
    ActsOn [.shares, .clients, .meter, .log, .bus] s (detachClient i s).1 :=
  .of_noFlags (by simp) (fun _ => detachClient_flags i s) (by simp [Part.Kept])

/-- R124, R125: a request is refused, or served. -/
theorem onClient_acts {ps : List Part} {r : Request} {serve : Fin Config.clientCount → State → State} {s : State}
    (hmeter : .meter ∈ ps) (h : ∀ i, ActsOn ps (dequeue s) (serve i (dequeue s))) :
    ActsOn ps s (onClient r serve (dequeue s)) := by
  have hmono {u t : State} (h : ActsOn [.meter] u t) : ActsOn ps u t := h.mono (by simpa using hmeter)
  refine (hmono (dequeue_acts s)).trans ?_
  unfold onClient
  split
  · exact hmono (respond_acts _ _ _ _)
  · exact h _

/-! ### The words of the maintenance port -/

theorem clearOverflow_acts (v : Word) (ks : List (Fin Config.watchCount)) (s : State) :
    ActsOn [] s (clearOverflow v ks s) :=
  .of_noFlags (by simp) (by simp [Part.Kept]) (by simp [Part.Kept])

theorem writeWatchCountLow_acts (k : Fin Config.watchCount) (v : Word) (s : State) :
    ActsOn [] s (writeWatchCountLow k v s) := .ite (refuseWrite_acts _ _ s) (setWatch_acts _ _ s)

theorem writeWatchWord_acts (k : Fin Config.watchCount) (place : Nat) (v : Word) (s : State) :
    ActsOn [] s (writeWatchWord k place v s) := by
  unfold writeWatchWord
  split
  case h_3 => exact writeWatchCountLow_acts k v s
  all_goals exact setWatch_acts _ _ s

theorem writeLogIndexLow_acts (v : Word) (s : State) : ActsOn [.log] s (writeLogIndexLow v s) := by
  refine .ite (refuseWrite_acts _ _ s).mono (.ite (refuseWrite_acts _ _ s).mono ?_)
  split <;> exact setLog_acts _ s

theorem writeThresholdLow_acts (v : Word) (s : State) : ActsOn [.log] s (writeThresholdLow v s) :=
  .ite (refuseWrite_acts _ _ s).mono (.ite (refuseWrite_acts _ _ s).mono (setLog_acts _ s))

theorem placeWindowRequest_acts (r : WindowRequest) (m : MemController) (s : State) :
    ActsOn [.bus] s (placeWindowRequest r { s with mc := m }) :=
  .of_noFlags (by simp) (by simp [Part.Kept]) (by simp [Part.Kept])

theorem writeMemAddrLow_acts (v : Word) (s : State) : ActsOn [.bus] s (writeMemAddrLow v s) :=
  .ite (refuseWrite_acts _ _ s).mono (placeWindowRequest_acts _ _ s)

theorem writeMemAddrHigh_acts (v : Word) (s : State) : ActsOn [.bus] s (writeMemAddrHigh v s) :=
  .ite (refuseWrite_acts _ _ s).mono (setBus_acts _ s)

theorem writeMemData_acts (v : Word) (s : State) : ActsOn [.bus] s (writeMemData v s) :=
  .ite (refuseWrite_acts _ _ s).mono (placeWindowRequest_acts _ _ s)

theorem fetchNext_acts (s : State) : ActsOn [.bus] s (fetchNext s) :=
  .ite (placeWindowRequest_acts _ _ s) (.refl _ s)

theorem writeConfig_acts (a : BitVec 7) (v : Word) (s : State) : ActsOn [.config] s (writeConfig a v s) := by
  have hstores : ActsOn [.config] s (s.setMp { s.mp with cfg := s.mp.cfg.setWord (a.toNat - 0x40) v }) := by
    intro p hp
    cases p
    case config => simp at hp
    case flags => exact fun _ h => h
    case channel => exact id
    all_goals exact rfl
  exact .ite (refuseWrite_acts _ _ s).mono hstores

theorem writeCommandCode_acts (code : Word) (s : State) : ActsOn [.channel] s (writeCommandCode code s) := by
  have haccepts : ActsOn [.channel] s (acceptCommand code s) := by
    intro p hp
    cases p
    case channel => simp at hp
    case flags => exact fun _ h => h
    all_goals exact rfl
  have hbusy : ActsOn [.channel] s (s.setMp { s.mp with busy := true }) := by
    intro p hp
    cases p
    case channel => simp at hp
    case flags => exact fun _ h => h
    all_goals exact rfl
  exact .ite hbusy (.ite haccepts (haccepts.ends .badArgument))

theorem clearFlags_acts (v : Word) (s : State) : ActsOn [.flags] s (clearFlags v s) := by
  intro p hp
  cases p
  case flags => simp at hp
  case channel => exact id
  all_goals exact rfl

/-- Everything that a write of the value to the word at an address can do (R184): it acts as the word's own operation, or on the
port's other words and the watches alone. -/
inductive WordWrite (a : BitVec 7) (v : Word) (s : State) : State → Prop
  | config : WordWrite a v s (writeConfig a v s)
  | uplink (d : Dir) : WordWrite a v s (writeUplink d v s)
  | code : WordWrite a v s (writeCommandCode v s)
  | flags (ha : a = 0x09) : WordWrite a v s (clearFlags v s)
  | logIndex : WordWrite a v s (writeLogIndexLow v s)
  | indexHolding (x : BitVec 5) : WordWrite a v s { s with lw := { s.lw with indexHolding := x } }
  | threshold : WordWrite a v s (writeThresholdLow v s)
  | thresholdHolding (x : BitVec 5) : WordWrite a v s { s with lw := { s.lw with thresholdHolding := x } }
  | lostCount : WordWrite a v s (zeroLostCount s)
  | memAddrLow : WordWrite a v s (writeMemAddrLow v s)
  | memAddrHigh : WordWrite a v s (writeMemAddrHigh v s)
  | memData : WordWrite a v s (writeMemData v s)
  | other {t : State} (h : ActsOn [] s t) : WordWrite a v s t

theorem WordWrite.ite {a : BitVec 7} {v : Word} {p : Prop} [Decidable p] {s t u : State} (h : WordWrite a v s t)
    (k : ¬p → WordWrite a v s u) : WordWrite a v s (if p then t else u) := by
  split
  · exact h
  · next hp => exact k hp

theorem writeWord_cases (a : BitVec 7) (v : Word) (s : State) : WordWrite a v s (writeWord a v s) := by
  have hrefused : WordWrite a v s (refuseWrite .readOnly a s) := .other (refuseWrite_acts _ _ s)
  unfold writeWord
  refine .ite (.ite .config fun _ => hrefused) fun _ => .ite hrefused fun _ =>
    .ite (.other (writeWatchWord_acts _ _ v s)) fun _ => ?_
  split
  case h_1 => exact .uplink .up
  case h_2 => exact .uplink .down
  case h_3 => exact .code
  case h_6 hnine => exact .flags (BitVec.eq_of_toNat_eq hnine)
  case h_9 => exact .logIndex
  case h_10 => exact .indexHolding _
  case h_11 => exact .threshold
  case h_12 => exact .thresholdHolding _
  case h_13 => exact .lostCount
  case h_14 => exact .memAddrLow
  case h_15 => exact .memAddrHigh
  case h_16 => exact .memData
  case h_17 => exact .other (clearOverflow_acts v _ s)
  case h_18 => exact hrefused
  all_goals exact .other (setMp_acts _ s rfl rfl rfl rfl)

theorem writeWord_acts (a : BitVec 7) (v : Word) (s : State) :
    ActsOn [.config, .peers, .channel, .flags, .log, .bus] s (writeWord a v s) := by
  have h := writeWord_cases a v s
  generalize writeWord a v s = t at h ⊢
  cases h with
  | config => exact (writeConfig_acts a v s).mono
  | uplink d => exact (writeUplink_acts d v s).mono
  | code => exact (writeCommandCode_acts v s).mono
  | flags => exact (clearFlags_acts v s).mono
  | logIndex => exact (writeLogIndexLow_acts v s).mono
  | threshold => exact (writeThresholdLow_acts v s).mono
  | indexHolding | thresholdHolding | lostCount => exact (setLog_acts _ s).mono
  | memAddrLow => exact (writeMemAddrLow_acts v s).mono
  | memAddrHigh => exact (writeMemAddrHigh_acts v s).mono
  | memData => exact (writeMemData_acts v s).mono
  | other h => exact h.mono

/-! ### The bus -/

theorem endStrobe_acts (n : Nat) (s : State) : ActsOn [.bus, .memory] s (endStrobe n s) :=
  .of_noFlags (by simp) (by simp [Part.Kept]) (by simp [Part.Kept])

theorem endStrobeTimedOut_acts (s : State) : ActsOn [.bus, .memory] s (endStrobeTimedOut s) :=
  .of_noFlags (by simp) (by simp [Part.Kept]) (by simp [Part.Kept])

theorem endAccess_acts (s : State) : ActsOn [.log, .bus] s (endAccess s) :=
  .of_noFlags (by simp) (fun _ => endAccess_flags s) (by simp [Part.Kept])

/-! ### Every command -/

/-- Every command answers, and acts on its own parts alone. -/
theorem exec_answers_acts (c : Instr) (s : State) : ∃ t, Answers c s t ∧ ActsOn (partsOf c) s t := by
  cases c with
  | deviceReset held =>
    refine ⟨_, rfl, fun p hp => ?_⟩
    cases p
    case waiting => rfl
    all_goals exact absurd (by simp) hp
  | millisecondTick b line =>
    exact ⟨_, rfl, .ite (.of_noFlags rfl (fun _ h => h) (by simp [Part.Kept])) (.refl _ s)⟩
  | epochExpiry => exact ⟨_, rfl, .ite (takeExpiry_acts s) (.refl _ s)⟩
  | start b => exact ⟨_, rfl, .ite (takeStart_acts b s) (.refl _ s)⟩
  | restart =>
    exact ⟨_, rfl, .ite (.ite ((restartPart_acts s).ends .done) (endCommand_acts _ s).mono) (.refl _ s)⟩
  | leave => exact ⟨_, rfl, .ite (leaveTrain_acts s) (.refl _ s)⟩
  | resume => exact ⟨_, rfl, .ite (resumeStation_acts s) (.refl _ s)⟩
  | syncEpoch => exact ⟨_, rfl, .ite (syncEpoch_acts s) (.refl _ s)⟩
  | block =>
    exact ⟨_, rfl, .ite (judgeClientCommand_acts_on fun i => (blockClient_acts i s).ends .done) (.refl _ s)⟩
  | unblock =>
    exact ⟨_, rfl, .ite (judgeClientCommand_acts_on fun i => (unblockClient_acts i s).ends .done) (.refl _ s)⟩
  | setTier =>
    refine ⟨_, rfl, .ite ?_ (.refl _ s)⟩
    split
    · exact judgeClientCommand_acts_on fun i => (setClientTier_acts i _ s).ends .done
    · exact judgeClientCommand_acts_on fun _ => .refl _ s
  | setAllowance =>
    exact ⟨_, rfl, .ite (judgeClientCommand_acts_on fun i =>
      .ite (endCommand_acts _ s).mono ((loadClientAllowance_acts i _ s).ends .done)) (.refl _ s)⟩
  | evict =>
    exact ⟨_, rfl, .ite (judgeClientCommand_acts_on fun i => (removeClient_acts i _ s).ends .done) (.refl _ s)⟩
  | readClient => exact ⟨_, rfl, .ite (readClientPage_acts s) (.refl _ s)⟩
  | readPeer => exact ⟨_, rfl, .ite (readPeerSlot_acts s) (.refl _ s)⟩
  | unknownCommand code => exact ⟨_, rfl, .outOfReset (.ite (.refl _ s) (writeCommandCode_acts code s))⟩
  | closureStep =>
    refine ⟨_, rfl, ?_⟩
    split
    · exact stepWalk_acts _ s
    · exact .refl _ s
  | publish =>
    refine ⟨_, rfl, ?_⟩
    split
    · exact publishPass_acts _ s
    · exact .refl _ s
  | compositionEdge =>
    exact ⟨_, rfl, .ite ((setPeers_acts _ s).trans (takeEdge_acts _)) (.refl _ s)⟩
  | uplinkWrite d v => exact ⟨_, rfl, .outOfReset (writeUplink_acts d v s)⟩
  | frameReceived b line =>
    exact ⟨_, rfl, .ite ((passLevels_acts line s).mono.trans (receiveCheck_acts b _)) (.refl _ s)⟩
  | lineByteReceived b line =>
    exact ⟨_, rfl, .ite ((passLevels_acts line s).mono.trans (receiveByte_acts b _)) (.refl _ s)⟩
  | carrierIdle line =>
    exact ⟨_, rfl, .ite (.ite ((passLevels_acts line s).trans (setLine_acts _ _)) (passLevels_acts line s)) (.refl _ s)⟩
  | busyPeriodStart line =>
    exact ⟨_, rfl, .ite (.ite ((passLevels_acts line s).trans (passLevels_acts _ _)) (passLevels_acts line s)) (.refl _ s)⟩
  | busyPeriodLimit line =>
    exact ⟨_, rfl, .ite (.ite ((passLevels_acts line s).trans (setLine_acts _ _)) (passLevels_acts line s)) (.refl _ s)⟩
  | framingError line => exact ⟨_, rfl, .ite ((passLevels_acts line s).trans (setLine_acts _ _)) (.refl _ s)⟩
  | jitterExpiry => exact ⟨_, rfl, .ite (setLine_acts _ s) (.refl _ s)⟩
  | attemptStart line =>
    exact ⟨_, rfl, .ite (.ite ((passLevels_acts line s).trans (setLine_acts _ _)) (passLevels_acts line s)) (.refl _ s)⟩
  | readbackMismatch => exact ⟨_, rfl, .ite (failAttempt_acts s) (.refl _ s)⟩
  | noticeSent => exact ⟨_, rfl, .ite (setLine_acts _ s) (.refl _ s)⟩
  | backoffExpiry => exact ⟨_, rfl, .ite (setLine_acts _ s) (.refl _ s)⟩
  | stuckLine line =>
    exact ⟨_, rfl, .ite (.ite ((passLevels_acts line s).trans (enterLineFault_acts _)) (passLevels_acts line s)) (.refl _ s)⟩
  | runLengthOverflow line =>
    exact ⟨_, rfl, .ite (.ite ((passLevels_acts line s).trans (setLine_acts _ _)) (passLevels_acts line s)) (.refl _ s)⟩
  | lineRestoration => exact ⟨_, rfl, .ite (restoreStation_acts s) (.refl _ s)⟩
  | requestPresented tag code client argument => exact ⟨_, rfl, .outOfReset (completeRecord_acts _ s)⟩
  | recordStartStrobe b more => exact ⟨_, rfl, .outOfReset (startRecord_acts b more s)⟩
  | refusalSent =>
    refine ⟨_, rfl, ?_⟩
    split
    · exact .of_noFlags rfl (fun _ h => h) (by simp [Part.Kept])
    · exact .refl _ s
  | meter =>
    refine ⟨_, rfl, ?_⟩
    split
    · split
      · exact onClient_acts (by simp) fun i => .ite (respond_acts _ _ _ _).mono (meterEntry_acts _ _ i _)
      · exact .refl _ s
    · exact .refl _ s
  | attach =>
    refine ⟨_, rfl, ?_⟩
    split
    · split
      · exact onClient_acts (by simp) fun i =>
          (attachClient_acts i _ _ _ _).trans (respond_acts _ _ _ _).mono
      · exact .refl _ s
    · exact .refl _ s
  | move =>
    refine ⟨_, rfl, ?_⟩
    split
    · split
      · exact onClient_acts (by simp) fun i =>
          (moveClient_acts i _ _ _).trans (respond_acts _ _ _ _).mono
      · exact .refl _ s
    · exact .refl _ s
  | detach =>
    refine ⟨_, rfl, ?_⟩
    split
    · split
      · exact onClient_acts (by simp) fun i => (detachClient_acts i _).trans (respond_acts _ _ _ _).mono
      · exact .refl _ s
    · exact .refl _ s
  | unknownRequest =>
    refine ⟨_, rfl, ?_⟩
    split
    · split
      · exact (dequeue_acts s).trans (respond_acts _ _ _ _)
      · exact .refl _ s
    · exact .refl _ s
  | watchModeWrite k v => exact ⟨_, rfl, .outOfReset (setWatch_acts _ _ s)⟩
  | watchCountLowWrite k v => exact ⟨_, rfl, .outOfReset (writeWatchCountLow_acts k v s)⟩
  | watchCountLowRead k => exact ⟨_, rfl, .outOfReset ((setDataOut_acts _ s).trans (setWatch_acts _ _ _))⟩
  | watchStatusWrite v => exact ⟨_, rfl, .outOfReset (clearOverflow_acts v _ s)⟩
  | logIndexLowWrite v => exact ⟨_, rfl, .outOfReset (writeLogIndexLow_acts v s)⟩
  | logIndexLowRead => exact ⟨_, rfl, .outOfReset ((setDataOut_acts _ s).mono.trans (setLog_acts _ _))⟩
  | thresholdLowWrite v => exact ⟨_, rfl, .outOfReset (writeThresholdLow_acts v s)⟩
  | thresholdLowRead => exact ⟨_, rfl, .outOfReset ((setDataOut_acts _ s).mono.trans (setLog_acts _ _))⟩
  | lostCountWrite v => exact ⟨_, rfl, .outOfReset (setLog_acts _ s)⟩
  | memAddrLowWrite v => exact ⟨_, rfl, .outOfReset (writeMemAddrLow_acts v s)⟩
  | memDataRead => exact ⟨_, rfl, .outOfReset ((setDataOut_acts _ s).mono.trans (fetchNext_acts _))⟩
  | memDataWrite v => exact ⟨_, rfl, .outOfReset (writeMemData_acts v s)⟩
  | turnaroundEnd => exact ⟨_, rfl, .ite (setBus_acts _ s) (.refl _ s)⟩
  | setupEnd => exact ⟨_, rfl, .ite (setBus_acts _ s) (.refl _ s)⟩
  | strobeEnd waited =>
    refine ⟨_, rfl, .ite ?_ (.refl _ s)⟩
    split
    · exact endStrobe_acts _ s
    · exact .refl _ s
  | waitTimeout => exact ⟨_, rfl, .ite (endStrobeTimedOut_acts s) (.refl _ s)⟩
  | accessEnd => exact ⟨_, rfl, .ite (endAccess_acts s) (.refl _ s)⟩
  | configWrite a v => exact ⟨_, rfl, .outOfReset (.ite (writeConfig_acts a v s) (.refl _ s))⟩
  | interruptFlagsWrite v => exact ⟨_, rfl, .outOfReset (clearFlags_acts v s)⟩
  | interruptEnablesWrite v => exact ⟨_, rfl, .outOfReset (setMp_acts _ s rfl rfl rfl rfl)⟩
  | refusedStatusWrite v => exact ⟨_, rfl, .outOfReset (setMp_acts _ s rfl rfl rfl rfl)⟩
  | registerWrite a v => exact ⟨_, rfl, .outOfReset (writeWord_acts a v s)⟩
  | commandCodeWrite v => exact ⟨_, rfl, .outOfReset (writeCommandCode_acts v s)⟩

/-- A command answers one state. -/
theorem answer_unique {c : Instr} {s t u : State} (h : Answers c s t) (hu : Answers c s u) : t = u :=
  Host.Outcome.next.inj (h.symm.trans hu)

/-- A part that is not the command's own is left alone. -/
theorem kept_of_answers (p : Part) {c : Instr} {s t : State} (h : Answers c s t) (hp : p ∉ partsOf c := by simp) :
    p.Kept s t := by
  obtain ⟨u, hu, hacts⟩ := exec_answers_acts c s
  exact answer_unique hu h ▸ hacts p hp

/-- Settles O2: the parts that commands act on do not hold the commands that wait. -/
theorem noCommandStopsThePart : Obligations.NoCommandStopsThePart := by
  refine ⟨fun s c => ?_, fun s hs => by simp [step, hs]⟩
  obtain ⟨t, ht, hacts⟩ := exec_answers_acts c s
  exact ⟨t, ht, hacts .waiting (by cases c <;> simp)⟩

end Sys2Proof.Machine
end

section
/-! ## Proofs: rules over all commands: flags, configuration, clocks, record memory -/

namespace Sys2Proof.Machine

/-! ### Flags (R191) -/

theorem flag_of_kept {s t : State} (h : Part.flags.Kept s t) {f : IrqFlag} (hf : s.flag f = true) : t.flag f = true :=
  h _ hf

theorem flag_clearFlags_or {v : Word} {s : State} {f : IrqFlag} (hf : s.flag f = true) :
    (clearFlags v s).flag f = true ∨ v.getLsbD f.bit = true := by
  rw [flag_clearFlags, hf]
  cases v.getLsbD f.bit <;> simp

/-- A write of a word of the map keeps a raised flag, unless it is the flags word and clears it. -/
theorem flag_writeWord_or {a : BitVec 7} {v : Word} {s : State} {f : IrqFlag} (hf : s.flag f = true) :
    (writeWord a v s).flag f = true ∨ (a = 0x09 ∧ v.getLsbD f.bit = true) := by
  have hkeep {ps : List Part} {t : State} (h : ActsOn ps s t) (hp : .flags ∉ ps) : t.flag f = true :=
    flag_of_kept (h .flags hp) hf
  have h := writeWord_cases a v s
  generalize writeWord a v s = t at h ⊢
  cases h with
  | config => exact .inl (hkeep (writeConfig_acts a v s) (by simp))
  | uplink d => exact .inl (hkeep (writeUplink_acts d v s) (by simp))
  | code => exact .inl (hkeep (writeCommandCode_acts v s) (by simp))
  | flags ha => exact (flag_clearFlags_or hf).imp_right fun hv => ⟨ha, hv⟩
  | logIndex => exact .inl (hkeep (writeLogIndexLow_acts v s) (by simp))
  | threshold => exact .inl (hkeep (writeThresholdLow_acts v s) (by simp))
  | indexHolding | thresholdHolding | lostCount => exact .inl hf
  | memAddrLow => exact .inl (hkeep (writeMemAddrLow_acts v s) (by simp))
  | memAddrHigh => exact .inl (hkeep (writeMemAddrHigh_acts v s) (by simp))
  | memData => exact .inl (hkeep (writeMemData_acts v s) (by simp))
  | other h => exact .inl (hkeep h (by simp))

theorem outOfReset_cases (s t : State) : outOfReset s t = s ∨ outOfReset s t = t := by
  unfold outOfReset
  split
  · exact .inl rfl
  · exact .inr rfl

/-- Settles O13: only the two commands that write the flags word, and device reset, act on flags. -/
theorem flagsStayRaisedUntilCleared : Obligations.FlagsStayRaisedUntilCleared := by
  intro c s t f h hf
  by_cases hc : .flags ∈ partsOf c
  · cases c with
    | deviceReset held => exact .inr (.inl ⟨held, rfl⟩)
    | interruptFlagsWrite v =>
      obtain rfl := answer_unique rfl h
      rcases outOfReset_cases s (clearFlags v s) with hsame | hacts
      · rw [hsame]; exact .inl hf
      · rw [hacts]
        exact (flag_clearFlags_or hf).imp_right fun hv => .inr ⟨v, .inl rfl, hv⟩
    | registerWrite a v =>
      obtain rfl := answer_unique rfl h
      rcases outOfReset_cases s (writeWord a v s) with hsame | hacts
      · rw [hsame]; exact .inl hf
      · rw [hacts]
        exact (flag_writeWord_or hf).imp_right fun ⟨ha, hv⟩ => .inr ⟨v, .inr (by rw [ha]), hv⟩
    | _ => simp at hc
  · exact .inl (flag_of_kept (kept_of_answers .flags h hc) hf)

/-! ### Configuration (R185) and clocks (R2, R5) -/

/-- R185: from START on a configuration word is not written. -/
theorem cfg_writeConfig_of_started {a : BitVec 7} {v : Word} {s : State} (hs : s.started = true) :
    (writeConfig a v s).mp.cfg = s.mp.cfg := by
  rw [writeConfig, if_pos hs]
  exact refuseWrite_cfg _ _ s

theorem cfg_writeWord_of_started {a : BitVec 7} {v : Word} {s : State} (hs : s.started = true) :
    (writeWord a v s).mp.cfg = s.mp.cfg := by
  have hkeep {ps : List Part} {t : State} (h : ActsOn ps s t) (hp : .config ∉ ps) : t.mp.cfg = s.mp.cfg := h .config hp
  have h := writeWord_cases a v s
  generalize writeWord a v s = t at h ⊢
  cases h with
  | config => exact cfg_writeConfig_of_started hs
  | uplink d => exact hkeep (writeUplink_acts d v s) (by simp)
  | code => exact hkeep (writeCommandCode_acts v s) (by simp)
  | logIndex => exact hkeep (writeLogIndexLow_acts v s) (by simp)
  | threshold => exact hkeep (writeThresholdLow_acts v s) (by simp)
  | flags | indexHolding | thresholdHolding | lostCount => rfl
  | memAddrLow => exact hkeep (writeMemAddrLow_acts v s) (by simp)
  | memAddrHigh => exact hkeep (writeMemAddrHigh_acts v s) (by simp)
  | memData => exact hkeep (writeMemData_acts v s) (by simp)
  | other h => exact hkeep h (by simp)

theorem cfg_of_answers_of_started {c : Instr} {s t : State} (h : Answers c s t) (hs : s.started = true)
    (hc : ∀ held, c ≠ .deviceReset held) : t.mp.cfg = s.mp.cfg := by
  by_cases hp : .config ∈ partsOf c
  · cases c with
    | deviceReset held => exact absurd rfl (hc held)
    | configWrite a v =>
      obtain rfl := answer_unique rfl h
      rcases outOfReset_cases s (if isConfigAddress a then writeConfig a v s else s) with hsame | hacts
      · rw [hsame]
      · rw [hacts]
        split
        · exact cfg_writeConfig_of_started hs
        · rfl
    | registerWrite a v =>
      obtain rfl := answer_unique rfl h
      rcases outOfReset_cases s (writeWord a v s) with hsame | hacts
      · rw [hsame]
      · rw [hacts]; exact cfg_writeWord_of_started hs
    | _ => simp at hp
  · exact kept_of_answers .config h hp

/-- The epoch number and the stamp are as they were. -/
def SameClocks (s t : State) : Prop := t.tb.epoch = s.tb.epoch ∧ t.tb.stamp = s.tb.stamp

theorem SameClocks.ite {p : Prop} [Decidable p] {s t u : State} (h : SameClocks s t) (k : SameClocks s u) :
    SameClocks s (if p then t else u) := by
  split
  · exact h
  · exact k

theorem sameClocks_refl (s : State) : SameClocks s s := ⟨rfl, rfl⟩

theorem sameClocks_of_tb {s t : State} (h : t.tb = s.tb) : SameClocks s t := by simp [SameClocks, h]

theorem sameClocks_closureComplete (s : State) : SameClocks s (closureComplete s) :=
  .ite ⟨rfl, rfl⟩ ⟨rfl, rfl⟩

theorem sameClocks_stepWalk (w : Walk) (s : State) : SameClocks s (stepWalk w s) := by
  have hclosed : (closeEntry w.next w.length s).tb = s.tb := by simp
  unfold stepWalk
  generalize closeEntry w.next w.length s = u at hclosed ⊢
  dsimp only
  split
  · exact sameClocks_of_tb hclosed
  · obtain ⟨hepoch, hstamp⟩ := sameClocks_closureComplete { u with ct := { u.ct with walk := none } }
    exact ⟨hepoch.trans (by rw [hclosed]), hstamp.trans (by rw [hclosed])⟩

theorem sameClocks_completePass (n : Snapshot) (s : State) : SameClocks s (completePass n s) := by
  unfold completePass
  simp [SameClocks, endCycle]

theorem sameClocks_publishPass (n : Snapshot) (s : State) : SameClocks s (publishPass n s) := by
  rcases publishPass_cases n s with hsame | ⟨a, ha, hup⟩ | ⟨a, ha, hdown⟩
  · rw [hsame]; exact sameClocks_refl s
  · have htb : a.tb = s.tb := by rw [ha]; exact (publishDir_frame .up n s).1
    rw [hup]; exact sameClocks_of_tb htb
  · have htb : a.tb = s.tb := by rw [ha]; exact (publishDir_frame .down n s).1
    rw [hdown, SameClocks, ← htb]
    exact sameClocks_completePass n a

/-- R2, R5: what leaves both clocks alone. -/
theorem sameClocks_of_answers {c : Instr} {s t : State} (h : Answers c s t) (hexpiry : c ≠ .epochExpiry)
    (hreset : ∀ held, c ≠ .deviceReset held) (hstart : ∀ b, c ≠ .start b) (htick : ∀ b l, c ≠ .millisecondTick b l) :
    SameClocks s t := by
  by_cases hp : .time ∈ partsOf c
  · cases c with
    | deviceReset held => exact absurd rfl (hreset held)
    | millisecondTick b l => exact absurd rfl (htick b l)
    | epochExpiry => exact absurd rfl hexpiry
    | start b => exact absurd rfl (hstart b)
    | restart =>
      obtain rfl := answer_unique rfl h
      exact .ite (.ite ⟨rfl, rfl⟩ ⟨rfl, rfl⟩) (sameClocks_refl s)
    | syncEpoch =>
      obtain rfl := answer_unique rfl h
      exact .ite (.ite ⟨rfl, rfl⟩ ⟨rfl, rfl⟩) (sameClocks_refl s)
    | closureStep =>
      obtain rfl := answer_unique rfl h
      split
      · exact sameClocks_stepWalk _ s
      · exact sameClocks_refl s
    | publish =>
      obtain rfl := answer_unique rfl h
      split
      · exact sameClocks_publishPass _ s
      · exact sameClocks_refl s
    | _ => simp at hp
  · exact sameClocks_of_tb (kept_of_answers .time h hp)

theorem stamp_takeExpiry (s : State) : (takeExpiry s).tb.stamp = s.tb.stamp := by
  rw [takeExpiry_tb, flipOrAbsorb]
  split <;> rfl

theorem stamp_takeStart (b : Bool) (s : State) : (takeStart b s).tb.stamp = s.tb.stamp := by
  unfold takeStart
  split
  · rfl
  · split <;> rfl

/-- Settles O12: each clause is the frame of the commands outside its list, and the stamp and the epoch number of those that
change one clock alone. -/
theorem configurationAndClocksChangeAtTheirEvents : Obligations.ConfigurationAndClocksChangeAtTheirEvents := by
  intro c s t h
  refine ⟨cfg_of_answers_of_started h, fun hepoch => ?_, fun hstamp => ?_⟩
  · by_contra hnone
    push Not at hnone
    obtain ⟨hexpiry, hreset, hstart⟩ := hnone
    refine hepoch ?_
    by_cases htick : ∃ b l, c = .millisecondTick b l
    · obtain ⟨b, l, rfl⟩ := htick
      obtain rfl := answer_unique rfl h
      split <;> rfl
    · push Not at htick
      exact (sameClocks_of_answers h hexpiry hreset hstart htick).1
  · by_contra hnone
    push Not at hnone
    obtain ⟨hreset, htick⟩ := hnone
    refine hstamp ?_
    by_cases hexpiry : c = .epochExpiry
    · subst hexpiry
      obtain rfl := answer_unique rfl h
      split
      · exact stamp_takeExpiry s
      · rfl
    · by_cases hstart : ∃ b, c = .start b
      · obtain ⟨b, rfl⟩ := hstart
        obtain rfl := answer_unique rfl h
        split
        · exact stamp_takeStart b s
        · rfl
      · push Not at hstart
        exact (sameClocks_of_answers h hexpiry hreset hstart htick).2

/-! ### Record memory (R173) -/

theorem memory_wf_of_answers {c : Instr} {s t : State} (hs : Memory.wf s.mem) (h : Answers c s t) : Memory.wf t.mem := by
  by_cases hp : .memory ∈ partsOf c
  · cases c with
    | deviceReset held =>
      obtain rfl := answer_unique rfl h
      exact cutMemory_wf hs
    | strobeEnd waited =>
      obtain rfl := answer_unique rfl h
      split
      · split
        · exact endStrobe_mem_wf hs _
        · exact hs
      · exact hs
    | waitTimeout =>
      obtain rfl := answer_unique rfl h
      split
      · exact endStrobeTimedOut_mem_wf hs
      · exact hs
    | _ => simp at hp
  · have hmem : t.mem = s.mem := kept_of_answers .memory h hp
    rwa [hmem]

theorem cutMemory_of_no_strobe {s : State} (h : s.mc.phase ≠ .strobe) : cutMemory s = s.mem := by
  unfold cutMemory
  split
  · next hphase _ => exact absurd hphase h
  · rfl

theorem strobe_of_memory_changed {c : Instr} {s t : State} (h : Answers c s t) (hmem : t.mem ≠ s.mem) :
    s.mc.phase = .strobe ∧ ((∃ held, c = .deviceReset held) ∨ c = .waitTimeout ∨ ∃ n, c = .strobeEnd n) := by
  by_cases hp : .memory ∈ partsOf c
  · cases c with
    | deviceReset held =>
      obtain rfl := answer_unique rfl h
      exact ⟨by_contra fun hphase => hmem (cutMemory_of_no_strobe hphase), .inl ⟨held, rfl⟩⟩
    | strobeEnd waited =>
      obtain rfl := answer_unique rfl h
      exact ⟨by_contra fun hphase => hmem (by rw [if_neg hphase]), .inr (.inr ⟨waited, rfl⟩)⟩
    | waitTimeout =>
      obtain rfl := answer_unique rfl h
      exact ⟨by_contra fun hphase => hmem (by rw [if_neg fun hs => hphase hs.1]), .inr (.inl rfl)⟩
    | _ => simp at hp
  · exact absurd (kept_of_answers .memory h hp) hmem

/-- Settles O11: three commands act on record memory, each only where a strobe is active. -/
theorem recordMemoryStaysCanonicalAndChangesAtStrobes : Obligations.RecordMemoryStaysCanonicalAndChangesAtStrobes :=
  ⟨fun s t hs h => step_keeps (pre := fun _ => True) (fun _ _ _ => trivial) (inv := fun s => Memory.wf s.mem)
      (fun _ _ hs => hs) (fun _ _ _ _ hs h => memory_wf_of_answers hs h) s t trivial hs h,
    fun _ _ _ => strobe_of_memory_changed⟩

end Sys2Proof.Machine
end

section
/-! ## Proofs: what a command can do to the line interface (chapters 4 and 5) -/

namespace Sys2Proof.Machine

/-- One operation on the line interface, with the condition under which the part takes it. -/
inductive LineOp (l : LineInterface) : LineInterface → Prop
  | bitTime (v : LineLevel) : LineOp l (l.bitTime v)
  | setRestoration (n : Nat) : LineOp l { l with restoration := n }
  | tick : LineOp l l.tick
  | countExpiry : LineOp l l.countExpiry
  | start (id : Word) (hid : id ≠ 0) : LineOp l (l.start id)
  | restart (hs : l.station ≠ .unconfigured) : LineOp l l.restart
  | depart (hs : l.station = .active) : LineOp l { l with station := .leaving }
  | resume (hs : l.station = .silent) : LineOp l { l with station := .active }
  | discard : LineOp l l.discardNotice
  | nextCycle : LineOp l { l with cycle := l.cycle + 1 }
  | handRegular (bytes : List Byte) (hs : l.station = .active) : LineOp l (l.handRegular bytes)
  | handLeaving (bytes : List Byte) (hs : l.station = .leaving) : LineOp l (l.handLeaving bytes)
  | waitIdle (hrx : l.rx ≠ .off) : LineOp l l.waitIdle
  | breakFrame : LineOp l l.breakFrame
  | takeByte (b : Byte) : LineOp l (l.takeByte b)
  | reportIdle (hdue : l.idleDue = true) : LineOp l l.reportIdle
  | conflict : LineOp l { l with conflict := true }
  | silence (hs : l.station = .listening ∨ l.station = .active ∨ l.station = .leaving) :
      LineOp l { l.discardNotice with station := .silent }
  | jitterEnds (htx : l.tx = .jitter) : LineOp l { l with tx := .defer }
  | backoffEnds (htx : l.tx = .backoff) : LineOp l { l with tx := .defer, backoffSlots := 0 }
  | attempt (htx : l.tx = .defer) : LineOp l { l with tx := .sending, attempts := l.attempts + 1, readback := true }
  | retry (slots : Nat) (htx : l.tx = .sending) (hfew : l.attempts < 8) :
      LineOp l { l with
        random := stepRandom l.random, backoffSlots := slots, tx := if slots = 0 then .defer else .backoff }
  | noticeEnds : LineOp l l.discardNotice.endLeaving
  | setOverflow : LineOp l { l with overflow := true }
  | fault (hs : l.station.onLine) : LineOp l
      { l.rxOff.discardNotice with station := .lineFault, remembered := rememberedOf l.station, restoration := 0 }
  | restore (hs : l.station = .lineFault) : LineOp l
      { l.discardNotice.waitIdle with
        station := l.remembered, remembered := .unconfigured, overflow := false, runLength := 0 }

/-- Operations on the line interface, one after the other. -/
inductive LineRun (l : LineInterface) : LineInterface → Prop
  | refl : LineRun l l
  | step {m n : LineInterface} (h : LineRun l m) (k : LineOp m n) : LineRun l n

theorem LineOp.run {l m : LineInterface} (h : LineOp l m) : LineRun l m := .step .refl h

theorem LineRun.trans {l m n : LineInterface} (h : LineRun l m) (k : LineRun m n) : LineRun l n := by
  induction k with
  | refl => exact h
  | step _ k ih => exact .step ih k

theorem LineRun.ite {p : Prop} [Decidable p] {l m n : LineInterface} (h : p → LineRun l m) (k : ¬p → LineRun l n) :
    LineRun l (if p then m else n) := by
  split
  · next hp => exact h hp
  · next hp => exact k hp

/-- A property of the line interface that every operation keeps. -/
theorem LineRun.induct {inv : LineInterface → Prop} (hop : ∀ l m, LineOp l m → inv l → inv m) {l m : LineInterface}
    (h : LineRun l m) (hl : inv l) : inv m := by
  induction h with
  | refl => exact hl
  | step _ k ih => exact hop _ _ k ih

/-! ### The operations on the state -/

theorem lineRun_bitTimes (line : List LineLevel) (l : LineInterface) :
    LineRun l (line.foldl LineInterface.bitTime l) := by
  induction line generalizing l with
  | nil => exact .refl
  | cons v rest ih => exact (LineOp.bitTime v).run.trans (ih _)

theorem lineRun_passLevels (line : List LineLevel) (s : State) : LineRun s.li (s.passLevels line).li :=
  .ite (fun _ => .step (lineRun_bitTimes line s.li) (.setRestoration _)) fun _ => lineRun_bitTimes line s.li

theorem lineRun_supersede (s : State) : LineRun s.li (supersede s).li := by
  unfold supersede
  split
  · exact LineOp.discard.run
  · exact .refl

@[simp] theorem supersede_station (s : State) : (supersede s).li.station = s.li.station := by
  unfold supersede
  split <;> rfl

theorem lineRun_sendLeaving {s : State} (hs : s.li.station = .leaving) : LineRun s.li (sendLeaving s).li :=
  .step (.step (lineRun_supersede s) .nextCycle) (.handLeaving _ (by simpa [nextCycle] using hs))

theorem lineRun_sendRegular {s : State} (hs : s.li.station = .active) : LineRun s.li (sendRegular s).li :=
  .step (.step (lineRun_supersede s) .nextCycle) (.handRegular _ (by simpa [nextCycle] using hs))

theorem lineRun_passCompleted (s : State) : LineRun s.li (passCompleted s).li := by
  unfold passCompleted
  split
  · next hs => exact lineRun_sendRegular hs
  · exact .refl

theorem lineRun_leaveTrain (s : State) : LineRun s.li (leaveTrain s).li := by
  unfold leaveTrain
  split
  · next hs => exact (LineOp.depart hs).run.trans (lineRun_sendLeaving (s := s.setLine _) rfl)
  · exact .refl

theorem lineRun_resumeStation (s : State) : LineRun s.li (resumeStation s).li := by
  unfold resumeStation
  split
  · next hs => exact (LineOp.resume hs.1).run
  · exact .refl

theorem lineRun_failAttempt {s : State} (htx : s.li.tx = .sending) : LineRun s.li (failAttempt s).li := by
  unfold failAttempt
  split
  · next hfew => exact (LineOp.retry _ htx hfew).run
  · exact LineOp.noticeEnds.run

theorem lineRun_idConflict (s : State) : LineRun s.li (idConflict s).li := by
  refine .trans (m := { s.li with conflict := true }) LineOp.conflict.run ?_
  unfold idConflict
  dsimp only
  split
  case h_1 hs => exact (LineOp.silence (l := { s.li with conflict := true }) (.inl hs)).run
  case h_2 hs => exact (LineOp.silence (l := { s.li with conflict := true }) (.inr (.inl hs))).run
  case h_3 hs => exact (LineOp.silence (l := { s.li with conflict := true }) (.inr (.inr hs))).run
  all_goals exact .refl

theorem lineRun_deliverNotice (n : Notice) (s : State) : LineRun s.li (deliverNotice n s).li := by
  unfold deliverNotice
  split
  · exact lineRun_idConflict s
  · rw [show (takeNotice n.clamp s).li = s.li by simp]
    exact .refl

theorem rx_of_expectsCheck {l : LineInterface} (h : l.expectsCheck = true) : l.rx = .receiving := by
  simp only [LineInterface.expectsCheck, Bool.and_eq_true, beq_iff_eq] at h
  exact h.1.1

theorem lineRun_judgeReceived {b : Byte} {s : State} (hcheck : s.li.expectsCheck = true) :
    LineRun s.li (judgeReceived b s).li := by
  have hwaits : LineRun s.li s.li.waitIdle := (LineOp.waitIdle (by simp [rx_of_expectsCheck hcheck])).run
  unfold judgeReceived
  dsimp only
  split
  · exact hwaits.trans (lineRun_deliverNotice _ (s.setLine _))
  · exact hwaits

theorem lineRun_receiveByte (b : Byte) (s : State) : LineRun s.li (receiveByte b s).li := by
  unfold receiveByte
  split
  · next hcheck => exact lineRun_judgeReceived hcheck
  · exact (LineOp.takeByte b).run

theorem lineRun_receiveCheck (b : Byte) (s : State) : LineRun s.li (receiveCheck b s).li := by
  unfold receiveCheck
  split
  · next hcheck => exact lineRun_judgeReceived hcheck
  · exact .refl

theorem onLine_of_started {s : State} (hs : s.started = true) (hfault : s.li.station ≠ .lineFault) :
    s.li.station.onLine := by
  have hconf : s.li.station ≠ .unconfigured := by simpa [State.started] using hs
  unfold Station.onLine
  cases h : s.li.station <;> simp_all

theorem station_of_restorationDue {s : State} (h : s.restorationDue = true) : s.li.station = .lineFault := by
  simp only [State.restorationDue, Bool.and_eq_true, beq_iff_eq] at h
  exact h.1

theorem lineRun_restoreStation {s : State} (hs : s.li.station = .lineFault) : LineRun s.li (restoreStation s).li := by
  have hli : (restoreStation s).li = { s.li.discardNotice.waitIdle with
      station := s.li.remembered, remembered := .unconfigured, overflow := false, runLength := 0 } := by
    unfold restoreStation
    simp
  rw [hli]
  exact (LineOp.restore hs).run

theorem lineRun_takeExpiry (s : State) : LineRun s.li (takeExpiry s).li := by
  have hli : (takeExpiry s).li = s.li.countExpiry := by
    unfold takeExpiry
    simp
  rw [hli]
  exact LineOp.countExpiry.run

/-- Check 1 of Table 12-2: the station id is not 0. -/
theorem stationId_ne_zero {c : ConfigWords} (h : c.firstInvalid = none) : c.stationId ≠ 0 := by
  intro hzero
  have hall : ∀ p ∈ c.checks, p.2 = true := by simpa [ConfigWords.firstInvalid] using h
  have hfirst := hall (1, inRange 1 65534 c.stationId) (by simp [ConfigWords.checks])
  simp [inRange, hzero] at hfirst

theorem lineRun_takeStart (b : Bool) (s : State) : LineRun s.li (takeStart b s).li := by
  unfold takeStart
  split
  · exact .refl
  · split
    · exact .refl
    · next hvalid => exact (LineOp.start _ (stationId_ne_zero hvalid)).run

theorem started_iff {s : State} : s.started = true ↔ s.li.station ≠ .unconfigured := by simp [State.started]

theorem lineRun_publishPass (n : Snapshot) (s : State) : LineRun s.li (publishPass n s).li := by
  rcases publishPass_cases n s with hsame | ⟨a, ha, hup⟩ | ⟨a, ha, hdown⟩
  · rw [hsame]; exact .refl
  · have hli : a.li = s.li := by rw [ha]; exact (publishDir_frame .up n s).2.2.1
    rw [hup, ← hli]
    exact .refl
  · have hli : a.li = s.li := by rw [ha]; exact (publishDir_frame .down n s).2.2.1
    rw [hdown, ← hli]
    unfold completePass
    dsimp only
    generalize hu : raise IrqFlag.sharePublished _ = u
    have hul : u.li = a.li := by rw [← hu]; rfl
    rw [← hul]
    exact lineRun_passCompleted u

/-! ### Every command -/

/-- What a command but device reset makes of the line interface is a run of operations. -/
theorem lineRun_of_answers {c : Instr} {s t : State} (h : Answers c s t) (hreset : ∀ held, c ≠ .deviceReset held) :
    LineRun s.li t.li := by
  have hpass (line : List LineLevel) : LineRun s.li (s.passLevels line).li := lineRun_passLevels line s
  by_cases hp : .line ∈ partsOf c
  · cases c with
    | deviceReset held => exact absurd rfl (hreset held)
    | millisecondTick b line =>
      obtain rfl := answer_unique rfl h
      split
      · exact .step (hpass line) .tick
      · exact .refl
    | epochExpiry =>
      obtain rfl := answer_unique rfl h
      split
      · exact lineRun_takeExpiry s
      · exact .refl
    | start b =>
      obtain rfl := answer_unique rfl h
      split
      · exact lineRun_takeStart b s
      · exact .refl
    | restart =>
      obtain rfl := answer_unique rfl h
      split
      · split
        · next hs => exact (LineOp.restart (started_iff.1 hs)).run
        · exact .refl
      · exact .refl
    | leave =>
      obtain rfl := answer_unique rfl h
      split
      · exact lineRun_leaveTrain s
      · exact .refl
    | resume =>
      obtain rfl := answer_unique rfl h
      split
      · exact lineRun_resumeStation s
      · exact .refl
    | publish =>
      obtain rfl := answer_unique rfl h
      split
      · exact lineRun_publishPass _ s
      · exact .refl
    | frameReceived b line =>
      obtain rfl := answer_unique rfl h
      split
      · exact (hpass line).trans (lineRun_receiveCheck b _)
      · exact .refl
    | lineByteReceived b line =>
      obtain rfl := answer_unique rfl h
      split
      · exact (hpass line).trans (lineRun_receiveByte b _)
      · exact .refl
    | carrierIdle line =>
      obtain rfl := answer_unique rfl h
      split
      · dsimp only
        split
        · next hdue => exact .step (hpass line) (.reportIdle hdue)
        · exact hpass line
      · exact .refl
    | busyPeriodStart line =>
      obtain rfl := answer_unique rfl h
      split
      · dsimp only
        split
        · exact (hpass line).trans (lineRun_passLevels _ _)
        · exact hpass line
      · exact .refl
    | busyPeriodLimit line =>
      obtain rfl := answer_unique rfl h
      split
      · dsimp only
        split
        · exact .step (hpass line) .breakFrame
        · exact hpass line
      · exact .refl
    | framingError line =>
      obtain rfl := answer_unique rfl h
      split
      · exact .step (hpass line) .breakFrame
      · exact .refl
    | jitterExpiry =>
      obtain rfl := answer_unique rfl h
      split
      · next htx => exact (LineOp.jitterEnds htx.1).run
      · exact .refl
    | attemptStart line =>
      obtain rfl := answer_unique rfl h
      split
      · dsimp only
        split
        · next htx => exact .step (hpass line) (.attempt htx.1)
        · exact hpass line
      · exact .refl
    | readbackMismatch =>
      obtain rfl := answer_unique rfl h
      split
      · next htx => exact lineRun_failAttempt htx
      · exact .refl
    | noticeSent =>
      obtain rfl := answer_unique rfl h
      split
      · exact LineOp.noticeEnds.run
      · exact .refl
    | backoffExpiry =>
      obtain rfl := answer_unique rfl h
      split
      · next htx => exact (LineOp.backoffEnds htx).run
      · exact .refl
    | stuckLine line =>
      obtain rfl := answer_unique rfl h
      split
      · next hs =>
        dsimp only
        split
        · next hstuck => exact .step (hpass line) (.fault (onLine_of_started (by simpa using hs) hstuck.2))
        · exact hpass line
      · exact .refl
    | runLengthOverflow line =>
      obtain rfl := answer_unique rfl h
      split
      · dsimp only
        split
        · exact .step (hpass line) .setOverflow
        · exact hpass line
      · exact .refl
    | lineRestoration =>
      obtain rfl := answer_unique rfl h
      split
      · next hdue => exact lineRun_restoreStation (station_of_restorationDue hdue)
      · exact .refl
    | _ => simp at hp
  · have hli : t.li = s.li := kept_of_answers .line h hp
    rw [hli]
    exact .refl

/-- An invariant of the line interface that holds after device reset and that every operation keeps is kept by every
command. -/
theorem line_invariant {inv : LineInterface → Prop} (hreset : inv LineInterface.reset)
    (hop : ∀ l m, LineOp l m → inv l → inv m) {c : Instr} {s t : State} (h : Answers c s t) (hs : inv s.li) :
    inv t.li := by
  by_cases hc : ∃ held, c = .deviceReset held
  · obtain ⟨held, rfl⟩ := hc
    obtain rfl := answer_unique rfl h
    exact hreset
  · push Not at hc
    exact (lineRun_of_answers h hc).induct hop hs

/-! ### The line monitor (R82, R83, R91) -/

theorem satAdd_le (top a b : Nat) : satAdd top a b ≤ top := Nat.min_le_left _ _

theorem satAdd_one_pos {top a : Nat} (h : 0 < top) : 0 < satAdd top a 1 := by simp [satAdd, h]

theorem MonitorOk.of_eq {l m : LineInterface} (h : MonitorOk l) (hrecessive : m.recessive = l.recessive)
    (hbusy : m.busyLength = l.busyLength) (hrun : m.runLength = l.runLength) (hbyte : m.byteLeft = l.byteLeft)
    (hidle : m.carrierIdle = l.carrierIdle) (hafter : m.afterRecessive = l.afterRecessive) : MonitorOk m where
  recessive := hrecessive ▸ h.recessive
  busy := hbusy ▸ h.busy
  run := hrun ▸ h.run
  byte := hbyte ▸ h.byte
  idle := by rw [hidle, hrecessive, hbusy]; exact h.idle
  dominant := by rw [hrun, hrecessive, hbusy, hafter]; exact h.dominant

theorem MonitorOk.dominantBit {l : LineInterface} (h : MonitorOk l) : MonitorOk l.dominantBit where
  recessive := Nat.zero_le _
  busy := satAdd_le _ _ _
  run := satAdd_le _ _ _
  byte := by
    have := h.byte
    simp only [LineInterface.dominantBit]
    split
    · split <;> omega
    · omega
  idle hidle := by simp [LineInterface.dominantBit] at hidle
  dominant _ := ⟨rfl, satAdd_one_pos (by decide), rfl⟩

theorem MonitorOk.recessiveBit {l : LineInterface} (h : MonitorOk l) : MonitorOk l.recessiveBit where
  recessive := by
    simp only [LineInterface.recessiveBit]
    split
    · exact satAdd_le _ _ _
    · exact h.recessive
  busy := by
    simp only [LineInterface.recessiveBit]
    split
    · exact Nat.zero_le _
    · exact satAdd_le _ _ _
  run := Nat.zero_le _
  byte := (Nat.sub_le _ _).trans h.byte
  idle hidle := by
    obtain ⟨hrecessive, hbusy⟩ := h.idle hidle
    simp [LineInterface.recessiveBit, hrecessive, hbusy, satAdd]
  dominant hrun := absurd hrun (Nat.lt_irrefl 0)

theorem MonitorOk.waitIdle {l : LineInterface} (h : MonitorOk l) : MonitorOk l.waitIdle :=
  h.of_eq rfl rfl rfl rfl rfl rfl

theorem MonitorOk.breakFrame {l : LineInterface} (h : MonitorOk l) : MonitorOk l.breakFrame := by
  unfold LineInterface.breakFrame
  split
  · exact h.waitIdle
  · exact h.waitIdle
  · exact h
  · exact h

theorem MonitorOk.takeByte {l : LineInterface} (h : MonitorOk l) (b : Byte) : MonitorOk (l.takeByte b) := by
  unfold LineInterface.takeByte
  split
  · exact h
  · exact h
  · split
    · exact h.waitIdle
    · exact h.of_eq rfl rfl rfl rfl rfl rfl
  · split
    · split
      · exact h.of_eq rfl rfl rfl rfl rfl rfl
      · exact h.waitIdle
    · exact h.of_eq rfl rfl rfl rfl rfl rfl

/-- R83: a line whose 16th recessive bit time has passed is reported idle, and its busy period is over. -/
theorem MonitorOk.reportIdle {l : LineInterface} (h : MonitorOk l) (hdue : l.idleDue = true) :
    MonitorOk l.reportIdle := by
  have hsixteen : l.recessive = 16 := by
    simp only [LineInterface.idleDue, Bool.and_eq_true, beq_iff_eq] at hdue
    exact hdue.1
  have hreported : MonitorOk { l with carrierIdle := true, busyLength := 0 } :=
    { recessive := h.recessive, busy := Nat.zero_le _, run := h.run, byte := h.byte
      idle := fun _ => ⟨hsixteen, rfl⟩
      dominant := fun hrun => by have := (h.dominant hrun).1; omega }
  unfold LineInterface.reportIdle
  dsimp only
  split
  · exact hreported
  · exact hreported.waitIdle

/-- A monitor that has just been started. -/
theorem MonitorOk.started {l : LineInterface} (hrecessive : l.recessive = 0) (hbusy : l.busyLength = 0)
    (hrun : l.runLength = 0) (hbyte : l.byteLeft = 0) (hidle : l.carrierIdle = false) : MonitorOk l where
  recessive := by omega
  busy := by omega
  run := by omega
  byte := by omega
  idle h := by simp [hidle] at h
  dominant h := by omega

theorem monitorOk_lineOp (l m : LineInterface) (h : LineOp l m) (hl : MonitorOk l) : MonitorOk m := by
  cases h with
  | bitTime v =>
    cases v
    · exact hl.dominantBit
    · exact hl.recessiveBit
  | start id hid => exact .started rfl rfl rfl rfl rfl
  | countExpiry =>
    unfold LineInterface.countExpiry
    split
    · split <;> exact hl.of_eq rfl rfl rfl rfl rfl rfl
    · exact hl
  | restart hs =>
    unfold LineInterface.restart
    dsimp only
    split <;> exact hl.of_eq rfl rfl rfl rfl rfl rfl
  | waitIdle hrx => exact hl.waitIdle
  | breakFrame => exact hl.breakFrame
  | takeByte b => exact hl.takeByte b
  | reportIdle hdue => exact hl.reportIdle hdue
  | noticeEnds =>
    unfold LineInterface.endLeaving
    split <;> exact hl.of_eq rfl rfl rfl rfl rfl rfl
  | restore hs =>
    exact { recessive := hl.recessive, busy := hl.busy, run := Nat.zero_le _, byte := hl.byte, idle := hl.idle
            dominant := fun h => absurd h (Nat.lt_irrefl 0) }
  | _ => exact hl.of_eq rfl rfl rfl rfl rfl rfl

theorem monitorOk_reset : MonitorOk LineInterface.reset := .started rfl rfl rfl rfl rfl

theorem monitorOk_answers {c : Instr} {s t : State} (hs : MonitorOk s.li) (h : Answers c s t) : MonitorOk t.li :=
  line_invariant monitorOk_reset monitorOk_lineOp h hs

/-! ### Station, receiver and transmitter (R69, R76, R84, R92) -/

theorem LineOk.of_eq {l m : LineInterface} (h : LineOk l) (hstation : m.station = l.station)
    (hremembered : m.remembered = l.remembered) (htx : m.tx = l.tx) (hnotice : m.notice = l.notice)
    (hattempts : m.attempts = l.attempts) (hrx : m.rx = l.rx) (hrandom : m.random = l.random)
    (hexpiry : m.expiryCount = l.expiryCount) : LineOk m where
  remembered_fault := by rw [hstation, hremembered]; exact h.remembered_fault
  remembered_else := by rw [hstation, hremembered]; exact h.remembered_else
  tx_state := by rw [htx, hstation]; exact h.tx_state
  tx_notice := by rw [htx, hnotice]; exact h.tx_notice
  tx_idle := by rw [htx, hattempts]; exact h.tx_idle
  tx_sending := by rw [htx, hattempts]; exact h.tx_sending
  tx_waiting := by rw [htx, hattempts]; exact h.tx_waiting
  rx_off := by rw [hrx, hstation]; exact h.rx_off
  random := by rw [hrandom]; exact h.random
  expiry := by rw [hexpiry]; exact h.expiry

theorem LineOk.discard {l : LineInterface} (h : LineOk l) : LineOk l.discardNotice where
  remembered_fault := h.remembered_fault
  remembered_else := h.remembered_else
  tx_state htx := absurd rfl htx
  tx_notice := by simp [LineInterface.discardNotice]
  tx_idle _ := rfl
  tx_sending htx := nomatch htx
  tx_waiting _ := Nat.zero_le _
  rx_off := h.rx_off
  random := h.random
  expiry := h.expiry

/-- Another state on the line, with a transmitter that is IDLE. -/
theorem LineOk.moves {l : LineInterface} {st : Station} (h : LineOk l) (hfrom : l.station.onLine) (hto : st.onLine)
    (htx : l.tx = .idle) : LineOk { l with station := st } where
  remembered_fault hst := by subst hst; simp [Station.onLine] at hto
  remembered_else _ := h.remembered_else fun hst => by rw [hst] at hfrom; simp [Station.onLine] at hfrom
  tx_state hne := absurd htx hne
  tx_notice := h.tx_notice
  tx_idle := h.tx_idle
  tx_sending := h.tx_sending
  tx_waiting := h.tx_waiting
  rx_off := by
    have hon : l.rx ≠ .off := fun hoff => h.rx_off.1 hoff hfrom
    simp [hon, hto]
  random := h.random
  expiry := h.expiry

/-- The receiver in another of its states on the line. -/
theorem LineOk.receives {l m : LineInterface} (h : LineOk l) (hrx : l.rx ≠ .off) (hrx' : m.rx ≠ .off)
    (hstation : m.station = l.station) (hremembered : m.remembered = l.remembered) (htx : m.tx = l.tx)
    (hnotice : m.notice = l.notice) (hattempts : m.attempts = l.attempts) (hrandom : m.random = l.random)
    (hexpiry : m.expiryCount = l.expiryCount) : LineOk m :=
  { (h.of_eq (m := { m with rx := l.rx }) hstation hremembered htx hnotice hattempts rfl hrandom hexpiry) with
    rx_off := by
      have hon : l.station.onLine := by
        by_contra hoff
        exact hrx (h.rx_off.2 hoff)
      simp [hrx', hstation, hon] }

theorem LineOk.waitIdle {l : LineInterface} (h : LineOk l) (hrx : l.rx ≠ .off) : LineOk l.waitIdle :=
  h.receives hrx (by simp only [LineInterface.waitIdle]; split <;> simp) rfl rfl rfl rfl rfl rfl rfl

theorem LineOk.breakFrame {l : LineInterface} (h : LineOk l) : LineOk l.breakFrame := by
  unfold LineInterface.breakFrame
  split
  · next hrx => exact h.waitIdle (by simp [hrx])
  · next hrx => exact h.waitIdle (by simp [hrx])
  · exact h
  · exact h

theorem LineOk.takeByte {l : LineInterface} (h : LineOk l) (b : Byte) : LineOk (l.takeByte b) := by
  unfold LineInterface.takeByte
  split
  · exact h
  · exact h
  · next hrx =>
    split
    · exact h.waitIdle (by simp [hrx])
    · exact h.receives (by simp [hrx]) (by simp) rfl rfl rfl rfl rfl rfl rfl
  · next hrx =>
    split
    · split
      · exact h.of_eq rfl rfl rfl rfl rfl rfl rfl rfl
      · exact h.waitIdle (by simp [hrx])
    · exact h.of_eq rfl rfl rfl rfl rfl rfl rfl rfl

theorem LineOk.reportIdle {l : LineInterface} (h : LineOk l) : LineOk l.reportIdle := by
  unfold LineInterface.reportIdle
  dsimp only
  split
  · exact h.of_eq rfl rfl rfl rfl rfl rfl rfl rfl
  · next hrx =>
    exact (h.of_eq (m := { l with carrierIdle := true, busyLength := 0 }) rfl rfl rfl rfl rfl rfl rfl rfl).waitIdle hrx

/-- R85: the generator does not come to 0. -/
theorem stepRandom_ne_zero {r : BitVec 16} (h : r ≠ 0) : stepRandom r ≠ 0 := by
  unfold stepRandom
  split
  · intro hzero
    have htop : ((r >>> 1) ^^^ 0xB400#16).getLsbD 15 = true := by simp
    rw [show (r >>> 1) ^^^ 0xB400#16 = 0 from hzero] at htop
    simp at htop
  · next hlow =>
    intro hzero
    refine h (BitVec.eq_of_getLsbD_eq fun i hi => ?_)
    rcases i with _ | i
    · simpa using hlow
    · have := congrArg (fun w => w.getLsbD i) hzero
      simpa [Nat.add_comm] using this

theorem LineOk.handRegular {l : LineInterface} (h : LineOk l) (bytes : List Byte) (hs : l.station = .active) :
    LineOk (l.handRegular bytes) := by
  have htx : (l.handRegular bytes).tx = .defer ∨ (l.handRegular bytes).tx = .jitter := by
    simp only [LineInterface.handRegular]
    split
    · exact .inl rfl
    · exact .inr rfl
  have hidle : (l.handRegular bytes).tx ≠ .idle := by rcases htx with htx | htx <;> simp [htx]
  exact
    { remembered_fault := h.remembered_fault
      remembered_else := h.remembered_else
      tx_state := fun _ => .inl hs
      tx_notice := by simp [hidle]; simp [LineInterface.handRegular]
      tx_idle := fun _ => rfl
      tx_sending := fun hsending => by rcases htx with htx | htx <;> simp [htx] at hsending
      tx_waiting := fun _ => Nat.zero_le _
      rx_off := h.rx_off
      random := stepRandom_ne_zero h.random
      expiry := h.expiry }

theorem LineOk.handLeaving {l : LineInterface} (h : LineOk l) (bytes : List Byte) (hs : l.station = .leaving) :
    LineOk (l.handLeaving bytes) where
  remembered_fault := h.remembered_fault
  remembered_else := h.remembered_else
  tx_state _ := .inr hs
  tx_notice := by simp [LineInterface.handLeaving]
  tx_idle _ := rfl
  tx_sending htx := nomatch htx
  tx_waiting _ := Nat.zero_le _
  rx_off := h.rx_off
  random := h.random
  expiry := h.expiry

/-- The transmitter goes on with its notice from one of its states to another. -/
theorem LineOk.transmits {l m : LineInterface} (h : LineOk l) (htx : l.tx ≠ .idle) (htx' : m.tx ≠ .idle)
    (hsending : m.tx = .sending → 1 ≤ m.attempts ∧ m.attempts ≤ 8) (hwaiting : m.tx ≠ .sending → m.attempts ≤ 7)
    (hrandom : m.random ≠ 0) (hstation : m.station = l.station) (hremembered : m.remembered = l.remembered)
    (hnotice : m.notice = l.notice) (hrx : m.rx = l.rx) (hexpiry : m.expiryCount = l.expiryCount) : LineOk m where
  remembered_fault := by rw [hstation, hremembered]; exact h.remembered_fault
  remembered_else := by rw [hstation, hremembered]; exact h.remembered_else
  tx_state _ := by rw [hstation]; exact h.tx_state htx
  tx_notice := by
    rw [hnotice, ← h.tx_notice]
    simp [htx, htx']
  tx_idle hidle := absurd hidle htx'
  tx_sending := hsending
  tx_waiting hwait := hwaiting (by rcases hwait with hw | hw | hw <;> simp [hw])
  rx_off := by rw [hrx, hstation]; exact h.rx_off
  random := hrandom
  expiry := by rw [hexpiry]; exact h.expiry

theorem LineOk.endLeaving {l : LineInterface} (h : LineOk l) (htx : l.tx = .idle) : LineOk l.endLeaving := by
  unfold LineInterface.endLeaving
  split
  · next hs => exact h.moves (by simp [hs, Station.onLine]) (by simp [Station.onLine]) htx
  · exact h

theorem LineOk.countExpiry {l : LineInterface} (h : LineOk l) : LineOk l.countExpiry := by
  unfold LineInterface.countExpiry
  split
  · next hs =>
    split
    · exact { h with expiry := Nat.le_refl 1 }
    · have htx : l.tx = .idle := by
        by_contra hne
        simpa [hs] using h.tx_state hne
      exact { (h.moves (st := .active) (by simp [hs, Station.onLine]) (by simp [Station.onLine]) htx) with
        expiry := Nat.zero_le 1 }
  · exact h

theorem LineOk.start {l : LineInterface} {id : Word} (hid : id ≠ 0) : LineOk (l.start id) where
  remembered_fault hs := nomatch hs
  remembered_else _ := rfl
  tx_state htx := absurd rfl htx
  tx_notice := by simp [LineInterface.start, LineInterface.discardNotice]
  tx_idle _ := rfl
  tx_sending htx := nomatch htx
  tx_waiting _ := Nat.zero_le _
  rx_off := by simp [LineInterface.start, Station.onLine]
  random := hid
  expiry := Nat.zero_le _

theorem LineOk.restart {l : LineInterface} (h : LineOk l) (hs : l.station ≠ .unconfigured) : LineOk l.restart := by
  have hbase : LineOk { l.discardNotice with expiryCount := 0, conflict := false } :=
    { h.discard with expiry := Nat.zero_le 1 }
  unfold LineInterface.restart
  dsimp only
  split
  · next hfault =>
    exact { hbase with remembered_fault := fun _ => .inl rfl, remembered_else := fun hne => absurd hfault hne }
  · next hfault =>
    have hon : l.station.onLine := by
      unfold Station.onLine
      cases hst : l.station <;> simp_all
    exact hbase.moves hon (by simp [Station.onLine]) rfl

theorem LineOk.fault {l : LineInterface} (h : LineOk l) (hs : l.station.onLine) : LineOk
    { l.rxOff.discardNotice with station := .lineFault, remembered := rememberedOf l.station, restoration := 0 } where
  remembered_fault _ := by
    rcases hs with hst | hst | hst | hst <;> simp [hst, rememberedOf]
  remembered_else hne := absurd rfl hne
  tx_state htx := absurd rfl htx
  tx_notice := by simp [LineInterface.discardNotice]
  tx_idle _ := rfl
  tx_sending htx := nomatch htx
  tx_waiting _ := Nat.zero_le _
  rx_off := by simp [Station.onLine, LineInterface.rxOff, LineInterface.discardNotice]
  random := h.random
  expiry := h.expiry

theorem LineOk.restore {l : LineInterface} (h : LineOk l) (hs : l.station = .lineFault) : LineOk
    { l.discardNotice.waitIdle with
      station := l.remembered, remembered := .unconfigured, overflow := false, runLength := 0 } := by
  have hback : l.remembered.onLine ∧ l.remembered ≠ .lineFault := by
    rcases h.remembered_fault hs with hst | hst | hst <;> simp [hst, Station.onLine]
  exact
    { remembered_fault := fun hfault => absurd hfault hback.2
      remembered_else := fun _ => rfl
      tx_state := fun htx => absurd rfl htx
      tx_notice := by simp [LineInterface.waitIdle, LineInterface.discardNotice]
      tx_idle := fun _ => rfl
      tx_sending := fun htx => nomatch htx
      tx_waiting := fun _ => Nat.zero_le _
      rx_off := by
        simp only [hback.1, not_true_eq_false, iff_false]
        simp only [LineInterface.waitIdle]
        split <;> simp
      random := h.random
      expiry := h.expiry }

theorem lineOk_lineOp (l m : LineInterface) (h : LineOp l m) (hl : LineOk l) : LineOk m := by
  cases h with
  | bitTime v => cases v <;> exact hl.of_eq rfl rfl rfl rfl rfl rfl rfl rfl
  | countExpiry => exact hl.countExpiry
  | start id hid => exact .start hid
  | restart hs => exact hl.restart hs
  | depart hs =>
    exact
      { remembered_fault := fun h => nomatch h
        remembered_else := fun _ => hl.remembered_else (by simp [hs])
        tx_state := fun _ => .inr rfl
        tx_notice := hl.tx_notice
        tx_idle := hl.tx_idle
        tx_sending := hl.tx_sending
        tx_waiting := hl.tx_waiting
        rx_off := by rw [hl.rx_off]; simp [hs, Station.onLine]
        random := hl.random
        expiry := hl.expiry }
  | resume hs =>
    have htx : l.tx = .idle := by
      by_contra hne
      simpa [hs] using hl.tx_state hne
    exact hl.moves (by simp [hs, Station.onLine]) (by simp [Station.onLine]) htx
  | discard => exact hl.discard
  | handRegular bytes hs => exact hl.handRegular bytes hs
  | handLeaving bytes hs => exact hl.handLeaving bytes hs
  | waitIdle hrx => exact hl.waitIdle hrx
  | breakFrame => exact hl.breakFrame
  | takeByte b => exact hl.takeByte b
  | reportIdle hdue => exact hl.reportIdle
  | silence hs =>
    exact hl.discard.moves (by rcases hs with hs | hs | hs <;> simp [hs, Station.onLine, LineInterface.discardNotice])
      (by simp [Station.onLine]) rfl
  | jitterEnds htx =>
    exact hl.transmits (by simp [htx]) (by simp) (fun h => nomatch h) (fun _ => hl.tx_waiting (.inl htx)) hl.random
      rfl rfl rfl rfl rfl
  | backoffEnds htx =>
    exact hl.transmits (by simp [htx]) (by simp) (fun h => nomatch h) (fun _ => hl.tx_waiting (.inr (.inr htx)))
      hl.random rfl rfl rfl rfl rfl
  | attempt htx =>
    have hfew := hl.tx_waiting (.inr (.inl htx))
    exact hl.transmits (by simp [htx]) (by simp) (fun _ => ⟨Nat.le_add_left _ _, Nat.succ_le_succ hfew⟩)
      (fun h => absurd rfl h) hl.random rfl rfl rfl rfl rfl
  | retry slots htx hfew =>
    have hwaits : (if slots = 0 then TxState.defer else .backoff) ≠ .idle ∧
        (if slots = 0 then TxState.defer else .backoff) ≠ .sending := by split <;> simp
    exact hl.transmits (by simp [htx]) hwaits.1 (fun h => absurd h hwaits.2) (fun _ => Nat.le_of_lt_succ hfew)
      (stepRandom_ne_zero hl.random) rfl rfl rfl rfl rfl
  | noticeEnds => exact hl.discard.endLeaving rfl
  | fault hs => exact hl.fault hs
  | restore hs => exact hl.restore hs
  | _ => exact hl.of_eq rfl rfl rfl rfl rfl rfl rfl rfl

theorem lineOk_reset : LineOk LineInterface.reset where
  remembered_fault h := nomatch h
  remembered_else _ := rfl
  tx_state h := absurd rfl h
  tx_notice := by simp [LineInterface.reset]
  tx_idle _ := rfl
  tx_sending h := nomatch h
  tx_waiting _ := Nat.zero_le _
  rx_off := by simp [LineInterface.reset, Station.onLine]
  random := by simp [LineInterface.reset]
  expiry := Nat.zero_le _

theorem lineOk_answers {c : Instr} {s t : State} (hs : LineOk s.li) (h : Answers c s t) : LineOk t.li :=
  line_invariant lineOk_reset lineOk_lineOp h hs

end Sys2Proof.Machine
end

section
/-! ## Proofs: the part before START (R10, R38, R58, R117, R121, R172, R173) -/

namespace Sys2Proof.Machine

/-! ### What leaves the part at rest -/

theorem atRest_of_acts {s t : State} (hs : AtRest s)
    (h : ActsOn [.line, .config, .flags, .channel, .serial, .memory, .held, .waiting] s t) : AtRest t where
  timer := by rw [show t.tb = s.tb from h .time (by simp)]; exact hs.timer
  slots k := by rw [State.slot, show t.pt = s.pt from h .peers (by simp)]; exact hs.slots k
  entries i := by rw [State.client, show t.ct = s.ct from h .clients (by simp)]; exact hs.entries i
  walk := by rw [show t.ct = s.ct from h .clients (by simp)]; exact hs.walk
  pass := by rw [show t.se = s.se from h .shares (by simp)]; exact hs.pass
  requests := by rw [show t.me = s.me from h .meter (by simp)]; exact hs.requests
  records := by rw [show t.lw = s.lw from h .log (by simp)]; exact hs.records
  writer := by rw [show t.lw = s.lw from h .log (by simp)]; exact hs.writer
  pendingIndex := by rw [show t.lw = s.lw from h .log (by simp)]; exact hs.pendingIndex
  bus := by rw [show t.mc = s.mc from h .bus (by simp)]; exact hs.bus
  logRequest := by rw [show t.mc = s.mc from h .bus (by simp)]; exact hs.logRequest
  slot := by rw [show t.mc = s.mc from h .bus (by simp)]; exact hs.slot

theorem atRest_of_nothing {s t : State} (hs : AtRest s) (h : ActsOn [] s t) : AtRest t := atRest_of_acts hs h.mono

theorem AtRest.ite {p : Prop} [Decidable p] {t u : State} (h : p → AtRest t) (k : ¬p → AtRest u) :
    AtRest (if p then t else u) := by
  split
  · next hp => exact h hp
  · next hp => exact k hp

theorem AtRest.outOfReset {s t : State} (hs : AtRest s) (ht : AtRest t) : AtRest (outOfReset s t) :=
  .ite (fun _ => hs) fun _ => ht

/-- Another peer table with no peer in it. -/
theorem AtRest.setPeers {s : State} (hs : AtRest s) {p : PeerTable} (hp : p.slots = s.pt.slots) :
    AtRest { s with pt := p } where
  timer := hs.timer
  slots k := by rw [State.slot]; simp only [hp]; exact hs.slots k
  entries := hs.entries
  walk := hs.walk
  pass := hs.pass
  requests := hs.requests
  records := hs.records
  writer := hs.writer
  pendingIndex := hs.pendingIndex
  bus := hs.bus
  logRequest := hs.logRequest
  slot := hs.slot

/-- Another metering engine with nothing queued. -/
theorem AtRest.setMe {s : State} (hs : AtRest s) {m : MeterEngine} (hm : m.queue = s.me.queue) :
    AtRest (s.setMe m) where
  timer := hs.timer
  slots := hs.slots
  entries := hs.entries
  walk := hs.walk
  pass := hs.pass
  requests := hm.trans hs.requests
  records := hs.records
  writer := hs.writer
  pendingIndex := hs.pendingIndex
  bus := hs.bus
  logRequest := hs.logRequest
  slot := hs.slot

/-- Another log writer that is IDLE with nothing queued. -/
theorem AtRest.setLog {s : State} (hs : AtRest s) {l : LogWriter} (hqueue : l.queue = s.lw.queue)
    (hwriter : l.writer = s.lw.writer) (hindex : l.pendingIndex = s.lw.pendingIndex) : AtRest { s with lw := l } where
  timer := hs.timer
  slots := hs.slots
  entries := hs.entries
  walk := hs.walk
  pass := hs.pass
  requests := hs.requests
  records := hqueue.trans hs.records
  writer := hwriter.trans hs.writer
  pendingIndex := hindex.trans hs.pendingIndex
  bus := hs.bus
  logRequest := hs.logRequest
  slot := hs.slot

/-! ### The operations before START -/

theorem judgeClientCommand_of_not_started {s : State} (hs : s.started = false) (valid : Bool)
    (act : Fin Config.clientCount → State → State) : judgeClientCommand valid act s = endCommand .badState s := by
  simp [judgeClientCommand, hs]

theorem atRest_judgeClientCommand {s : State} (hrest : AtRest s) (hs : s.started = false) (valid : Bool)
    (act : Fin Config.clientCount → State → State) : AtRest (judgeClientCommand valid act s) := by
  rw [judgeClientCommand_of_not_started hs]
  exact atRest_of_nothing hrest (endCommand_acts _ s)

theorem atRest_refuseRequest {s : State} (hrest : AtRest s) (o : RspOutcome) (r : Request) :
    AtRest (refuseRequest o r s) := by
  unfold refuseRequest
  split
  · exact hrest.setMe rfl
  · exact hrest

theorem atRest_completeRecord {s : State} (hrest : AtRest s) (hs : s.started = false) (bytes : List Byte) :
    AtRest (completeRecord bytes s) := by
  unfold completeRecord
  refine .ite (fun _ => ?_) fun _ => hrest
  split
  · rw [presentRequest, hs]
    exact atRest_refuseRequest hrest _ _
  · exact hrest

theorem turnHead_of_atRest {s : State} (hrest : AtRest s) : s.turnHead = none := by
  unfold State.turnHead
  split
  · rfl
  · rw [hrest.requests]; rfl

theorem atRest_writeUplink {s : State} (hrest : AtRest s) (d : Dir) (v : Word) : AtRest (writeUplink d v s) :=
  .ite (fun _ => hrest.setPeers rfl) fun _ => atRest_of_nothing hrest (refuseWrite_acts _ _ s)

/-! R184: before START what log writer and window are written is refused. -/

theorem writeLogIndexLow_of_not_started {s : State} (hs : s.started = false) (v : Word) :
    writeLogIndexLow v s = refuseWrite .notStarted 0x0C s := by simp [writeLogIndexLow, hs]

theorem writeThresholdLow_of_not_started {s : State} (hs : s.started = false) (v : Word) :
    writeThresholdLow v s = refuseWrite .notStarted 0x0E s := by simp [writeThresholdLow, hs]

theorem writeMemAddrLow_of_not_started {s : State} (hs : s.started = false) (v : Word) :
    writeMemAddrLow v s = refuseWrite .notStarted 0x11 s := by simp [writeMemAddrLow, hs]

theorem writeMemAddrHigh_of_not_started {s : State} (hs : s.started = false) (v : Word) :
    writeMemAddrHigh v s = refuseWrite .notStarted 0x12 s := by simp [writeMemAddrHigh, hs]

theorem writeMemData_of_not_started {s : State} (hs : s.started = false) (v : Word) :
    writeMemData v s = refuseWrite .notStarted 0x13 s := by simp [writeMemData, hs]

theorem atRest_writeWord {s : State} (hrest : AtRest s) (hs : s.started = false) (a : BitVec 7) (v : Word) :
    AtRest (writeWord a v s) := by
  have hrefused (c : RefusedCause) (b : BitVec 7) : AtRest (refuseWrite c b s) :=
    atRest_of_nothing hrest (refuseWrite_acts c b s)
  have h := writeWord_cases a v s
  generalize writeWord a v s = t at h ⊢
  cases h with
  | config => exact atRest_of_acts hrest (writeConfig_acts a v s).mono
  | uplink d => exact atRest_writeUplink hrest d v
  | code => exact atRest_of_acts hrest (writeCommandCode_acts v s).mono
  | flags => exact atRest_of_acts hrest (clearFlags_acts v s).mono
  | logIndex => rw [writeLogIndexLow_of_not_started hs]; exact hrefused _ _
  | threshold => rw [writeThresholdLow_of_not_started hs]; exact hrefused _ _
  | indexHolding | thresholdHolding | lostCount => exact hrest.setLog rfl rfl rfl
  | memAddrLow => rw [writeMemAddrLow_of_not_started hs]; exact hrefused _ _
  | memAddrHigh => rw [writeMemAddrHigh_of_not_started hs]; exact hrefused _ _
  | memData => rw [writeMemData_of_not_started hs]; exact hrefused _ _
  | other h => exact atRest_of_nothing hrest h

@[simp] theorem startPart_started (b : Bool) (s : State) : (startPart b s).started = true := rfl

theorem atRest_takeStart {s : State} (hrest : AtRest s) (b : Bool) (ht : (takeStart b s).started = false) :
    AtRest (takeStart b s) := by
  unfold takeStart at ht ⊢
  split at ht
  · next hs =>
    rw [if_pos hs]
    exact atRest_of_nothing hrest (endCommand_acts _ s)
  · next hs =>
    rw [if_neg hs]
    split at ht
    · next n _ =>
      exact atRest_of_nothing hrest ((endCommand_acts .configInvalid s).trans
        (setMp_acts { (endCommand .configInvalid s).mp with check := n } _ rfl rfl rfl rfl))
    · exact absurd ht (by simp)

/-! ### Every command -/

theorem atRest_deviceReset {s t : State} {held : Bool} (h : Answers (.deviceReset held) s t) : AtRest t := by
  obtain rfl := answer_unique rfl h
  exact
    { timer := rfl, slots := fun k => by simp [State.slot, State.reset, PeerTable.reset]
      entries := fun i => by simp [State.client, State.reset, ClientTable.reset]
      walk := rfl, pass := rfl, requests := rfl, records := rfl, writer := rfl, pendingIndex := rfl, bus := rfl
      logRequest := rfl, slot := rfl }

/-- Before START a command leaves the part at rest, or is START. -/
theorem atRest_of_answers {c : Instr} {s t : State} (hrest : AtRest s) (hs : s.started = false) (h : Answers c s t)
    (ht : t.started = false) : AtRest t := by
  have hrefused (u : State) (h : ActsOn [] s u) : AtRest u := atRest_of_nothing hrest h
  have hturn := turnHead_of_atRest hrest
  by_cases hp : ∃ p ∈ partsOf c, p ∉ ([.line, .config, .flags, .channel, .serial, .memory, .held, .waiting] : List Part)
  · cases c with
    | deviceReset held => exact atRest_deviceReset h
    | millisecondTick b line =>
      obtain rfl := answer_unique rfl h
      exact .ite (fun hdue => by simp [hs] at hdue) fun _ => hrest
    | epochExpiry =>
      obtain rfl := answer_unique rfl h
      exact .ite (fun hdue => by simp [hs] at hdue) fun _ => hrest
    | start b =>
      obtain rfl := answer_unique rfl h
      split at ht
      · next hruns => rw [if_pos hruns]; exact atRest_takeStart hrest b ht
      · next hruns => rw [if_neg hruns]; exact hrest
    | restart =>
      obtain rfl := answer_unique rfl h
      exact .ite (fun _ => .ite (fun hstarted => by simp [hs] at hstarted) fun _ =>
        hrefused _ (endCommand_acts _ s)) fun _ => hrest
    | syncEpoch =>
      obtain rfl := answer_unique rfl h
      have hstation : s.li.station = .unconfigured := by simpa [State.started] using hs
      have hbad : syncEpoch s = endCommand .badState s := by simp [syncEpoch, hstation]
      exact .ite (fun _ => hbad ▸ hrefused _ (endCommand_acts _ s)) fun _ => hrest
    | block =>
      obtain rfl := answer_unique rfl h
      exact .ite (fun _ => atRest_judgeClientCommand hrest hs _ _) fun _ => hrest
    | unblock =>
      obtain rfl := answer_unique rfl h
      exact .ite (fun _ => atRest_judgeClientCommand hrest hs _ _) fun _ => hrest
    | setTier =>
      obtain rfl := answer_unique rfl h
      refine .ite (fun _ => ?_) fun _ => hrest
      split <;> exact atRest_judgeClientCommand hrest hs _ _
    | setAllowance =>
      obtain rfl := answer_unique rfl h
      exact .ite (fun _ => atRest_judgeClientCommand hrest hs _ _) fun _ => hrest
    | evict =>
      obtain rfl := answer_unique rfl h
      exact .ite (fun _ => atRest_judgeClientCommand hrest hs _ _) fun _ => hrest
    | closureStep =>
      obtain rfl := answer_unique rfl h
      simpa only [hrest.walk] using hrest
    | publish =>
      obtain rfl := answer_unique rfl h
      simpa only [hrest.pass, ShareEngine.reset] using hrest
    | compositionEdge =>
      obtain rfl := answer_unique rfl h
      exact .ite (fun hdue => by simp [hs] at hdue) fun _ => hrest
    | uplinkWrite d v =>
      obtain rfl := answer_unique rfl h
      exact hrest.outOfReset (atRest_writeUplink hrest d v)
    | frameReceived b line =>
      obtain rfl := answer_unique rfl h
      exact .ite (fun hdue => by simp [hs] at hdue) fun _ => hrest
    | lineByteReceived b line =>
      obtain rfl := answer_unique rfl h
      exact .ite (fun hdue => by simp [hs] at hdue) fun _ => hrest
    | lineRestoration =>
      obtain rfl := answer_unique rfl h
      refine .ite (fun hdue => ?_) fun _ => hrest
      simp [State.started, station_of_restorationDue hdue] at hs
    | requestPresented tag code client argument =>
      obtain rfl := answer_unique rfl h
      exact hrest.outOfReset (atRest_completeRecord hrest hs _)
    | recordStartStrobe b more =>
      obtain rfl := answer_unique rfl h
      exact hrest.outOfReset (hrest.setMe rfl)
    | refusalSent =>
      obtain rfl := answer_unique rfl h
      split
      · exact hrest.setMe rfl
      · exact hrest
    | meter =>
      obtain rfl := answer_unique rfl h
      simpa only [hturn] using hrest
    | attach =>
      obtain rfl := answer_unique rfl h
      simpa only [hturn] using hrest
    | move =>
      obtain rfl := answer_unique rfl h
      simpa only [hturn] using hrest
    | detach =>
      obtain rfl := answer_unique rfl h
      simpa only [hturn] using hrest
    | unknownRequest =>
      obtain rfl := answer_unique rfl h
      simpa only [hturn] using hrest
    | logIndexLowWrite v =>
      obtain rfl := answer_unique rfl h
      exact hrest.outOfReset (writeLogIndexLow_of_not_started hs v ▸ hrefused _ (refuseWrite_acts _ _ s))
    | logIndexLowRead =>
      obtain rfl := answer_unique rfl h
      exact hrest.outOfReset ((hrefused _ (setDataOut_acts _ s)).setLog rfl rfl rfl)
    | thresholdLowWrite v =>
      obtain rfl := answer_unique rfl h
      exact hrest.outOfReset (writeThresholdLow_of_not_started hs v ▸ hrefused _ (refuseWrite_acts _ _ s))
    | thresholdLowRead =>
      obtain rfl := answer_unique rfl h
      exact hrest.outOfReset ((hrefused _ (setDataOut_acts _ s)).setLog rfl rfl rfl)
    | lostCountWrite v =>
      obtain rfl := answer_unique rfl h
      exact hrest.outOfReset (hrest.setLog rfl rfl rfl)
    | memAddrLowWrite v =>
      obtain rfl := answer_unique rfl h
      exact hrest.outOfReset (writeMemAddrLow_of_not_started hs v ▸ hrefused _ (refuseWrite_acts _ _ s))
    | memDataRead =>
      obtain rfl := answer_unique rfl h
      have hno : fetchNext (setDataOut s.mc.data s) = setDataOut s.mc.data s := by simp [fetchNext, hs]
      exact hrest.outOfReset (by rw [hno]; exact hrefused _ (setDataOut_acts _ s))
    | memDataWrite v =>
      obtain rfl := answer_unique rfl h
      exact hrest.outOfReset (writeMemData_of_not_started hs v ▸ hrefused _ (refuseWrite_acts _ _ s))
    | turnaroundEnd =>
      obtain rfl := answer_unique rfl h
      exact .ite (fun hphase => by simp [hrest.bus] at hphase) fun _ => hrest
    | setupEnd =>
      obtain rfl := answer_unique rfl h
      exact .ite (fun hphase => by simp [hrest.bus] at hphase) fun _ => hrest
    | strobeEnd waited =>
      obtain rfl := answer_unique rfl h
      exact .ite (fun hphase => by simp [hrest.bus] at hphase) fun _ => hrest
    | waitTimeout =>
      obtain rfl := answer_unique rfl h
      exact .ite (fun hphase => by simp [hrest.bus] at hphase) fun _ => hrest
    | accessEnd =>
      obtain rfl := answer_unique rfl h
      exact .ite (fun hphase => by simp [hrest.bus] at hphase) fun _ => hrest
    | registerWrite a v =>
      obtain rfl := answer_unique rfl h
      exact hrest.outOfReset (atRest_writeWord hrest hs a v)
    | _ => simp at hp
  · push Not at hp
    exact atRest_of_acts hrest fun p hq => kept_of_answers p h fun hmem => hq (hp p hmem)

/-- From START on only device reset takes the part back to where it was before START. -/
theorem started_of_lineOp (l m : LineInterface) (h : LineOp l m) (hl : LineOk l ∧ l.station ≠ .unconfigured) :
    LineOk m ∧ m.station ≠ .unconfigured := by
  obtain ⟨hok, hs⟩ := hl
  refine ⟨lineOk_lineOp l m h hok, ?_⟩
  cases h with
  | bitTime v => cases v <;> exact hs
  | countExpiry =>
    unfold LineInterface.countExpiry
    split
    · split
      · exact hs
      · simp
    · exact hs
  | restart _ =>
    unfold LineInterface.restart
    dsimp only
    split
    · exact hs
    · simp
  | breakFrame =>
    unfold LineInterface.breakFrame
    split <;> exact hs
  | takeByte b =>
    unfold LineInterface.takeByte
    split
    · exact hs
    · exact hs
    · split <;> exact hs
    · split
      · split <;> exact hs
      · exact hs
  | reportIdle hdue =>
    unfold LineInterface.reportIdle
    dsimp only
    split <;> exact hs
  | noticeEnds =>
    unfold LineInterface.endLeaving
    split
    · simp
    · exact hs
  | restore hfault => rcases hok.remembered_fault hfault with hst | hst | hst <;> simp [hst]
  | start | depart | resume | silence | fault => simp [LineInterface.start]
  | _ => exact hs

theorem started_of_answers {c : Instr} {s t : State} (hok : LineOk s.li) (hs : s.started = true) (h : Answers c s t)
    (hreset : ∀ held, c ≠ .deviceReset held) : t.started = true := by
  have hkept := (lineRun_of_answers h hreset).induct (inv := fun l => LineOk l ∧ l.station ≠ .unconfigured)
    started_of_lineOp ⟨hok, started_iff.1 hs⟩
  exact started_iff.2 hkept.2

theorem partOk_answers {c : Instr} {s t : State} (hs : PartOk s) (h : Answers c s t) : PartOk t where
  line := lineOk_answers hs.line h
  rest ht := by
    by_cases hc : ∃ held, c = .deviceReset held
    · obtain ⟨held, rfl⟩ := hc
      exact atRest_deviceReset h
    · push Not at hc
      rcases hstarted : s.started with _ | _
      · exact atRest_of_answers (hs.rest hstarted) hstarted h ht
      · rw [started_of_answers hs.line hstarted h hc] at ht
        cases ht

/-- Settles O5: the line interface by its operations, and the part before START command by command. -/
theorem lineAndRestAreKept : Obligations.LineAndRestAreKept := fun s t hs h =>
  step_keeps (pre := fun _ => True) (fun _ _ _ => trivial) partOk_pending (fun _ _ _ _ hs h => partOk_answers hs h)
    s t trivial hs h

end Sys2Proof.Machine
end

section
/-! ## Proofs: what a command can do to the log writer and the memory controller (chapters 10 and 11) -/

namespace Sys2Proof.Machine

/-! ### Records that are offered -/

/-- Log writer, memory controller and configuration are as they were, but for records that have been offered. -/
inductive Offered (s : State) : State → Prop
  | same {t : State} (hlw : t.lw = s.lw) (hmc : t.mc = s.mc) (hcfg : t.mp.cfg = s.mp.cfg) : Offered s t
  | offer {t u : State} (r : Record) (h : Offered s t) (hlw : u.lw = (offerRecord r t).lw)
      (hmc : u.mc = (offerRecord r t).mc) (hcfg : u.mp.cfg = t.mp.cfg) : Offered s u

theorem Offered.refl (s : State) : Offered s s := .same rfl rfl rfl

theorem Offered.then {s t u : State} (h : Offered s t) (hlw : u.lw = t.lw) (hmc : u.mc = t.mc)
    (hcfg : u.mp.cfg = t.mp.cfg) : Offered s u := by
  cases h with
  | same klw kmc kcfg => exact .same (hlw.trans klw) (hmc.trans kmc) (hcfg.trans kcfg)
  | offer r h klw kmc kcfg => exact .offer r h (hlw.trans klw) (hmc.trans kmc) (hcfg.trans kcfg)

theorem Offered.trans {s t u : State} (h : Offered s t) (k : Offered t u) : Offered s u := by
  induction k with
  | same hlw hmc hcfg => exact h.then hlw hmc hcfg
  | offer r _ hlw hmc hcfg ih => exact .offer r ih hlw hmc hcfg

theorem Offered.ite {p : Prop} [Decidable p] {s t u : State} (h : Offered s t) (k : Offered s u) :
    Offered s (if p then t else u) := by
  split
  · exact h
  · exact k

theorem offered_offerRecord (r : Record) (s : State) : Offered s (offerRecord r s) :=
  .offer r (.refl s) rfl rfl (by simp)

/-- What acts on neither the log, the bus nor the configuration offers nothing. -/
theorem offered_of_acts {ps : List Part} {s t : State} (h : ActsOn ps s t)
    (hps : .log ∉ ps ∧ .bus ∉ ps ∧ .config ∉ ps := by simp) : Offered s t :=
  .same (h .log hps.1) (h .bus hps.2.1) (h .config hps.2.2)

theorem offered_removeClient (i : Fin Config.clientCount) (y : RemovalReason) (s : State) :
    Offered s (removeClient i y s) := by
  unfold removeClient
  exact (offered_offerRecord (s.finalRecord i y) s).then (by simp) (by simp) (by simp)

theorem offered_becomeIdle (i : Fin Config.clientCount) (s : State) : Offered s (becomeIdle i s) := by
  have hleft (e : ClientEntry) : Offered s ((leaveSharing i s).setClient i e) := .same rfl rfl rfl
  unfold becomeIdle
  exact .ite ((hleft _).trans (offered_offerRecord _ _)) (hleft _)

theorem offered_closeEntry (i : Fin Config.clientCount) (length : Nat) (s : State) : Offered s (closeEntry i length s) := by
  have hset (e : ClientEntry) : Offered s (s.setClient i e) := .same rfl rfl rfl
  exact .ite (.refl s) (.ite ((hset _).trans (offered_becomeIdle i _)) (hset _))

theorem offered_stepWalk (w : Walk) (s : State) : Offered s (stepWalk w s) := by
  have hclosed := offered_closeEntry w.next w.length s
  unfold stepWalk
  dsimp only
  split
  · exact hclosed.then rfl rfl rfl
  · exact hclosed.then (by simp) (by simp) (by simp)

theorem offered_deliverVerdict (v : Delivery) (s : State) : Offered s (deliverVerdict v s) := by
  have hcounted (ks : List (Fin Config.watchCount)) : Offered s (countOthers v ks allWatches s) :=
    .same (by simp) (by simp) (by simp)
  have hrestarted (ks : List (Fin Config.watchCount)) (u : State) : Offered u (restartTraced ks u) :=
    .same (by simp) (by simp) (by simp)
  exact .ite (hcounted _) (((hcounted _).trans (offered_offerRecord _ _)).trans (hrestarted _ _))

theorem offered_capClient (i : Fin Config.clientCount) (s : State) : Offered s (capClient i s) := by
  have hcapped (e : ClientEntry) : Offered s ((returnGrant s.mp.cfg.cappedRate.toNat .down i
      (returnGrant s.mp.cfg.cappedRate.toNat .up i s)).setClient i e) := .same rfl rfl rfl
  have hraised (u : State) : Offered u (raise .clientCapped u) := .same rfl rfl rfl
  unfold capClient
  exact ((hcapped _).trans (offered_offerRecord _ _)).trans (hraised _)

theorem offered_countVolume (i : Fin Config.clientCount) (length : Nat) (v : Verdict) (why : Reason) (s : State) :
    Offered s (countVolume i length v why s) := by
  have hset (e : ClientEntry) : Offered s (s.setClient i e) := .same rfl rfl rfl
  exact .ite (.ite ((hset _).trans (offered_capClient i _)) (hset _)) (.refl s)

theorem offered_finishMeter (r : Request) (d : Dir) (i : Fin Config.clientCount) (v : Verdict) (why : Reason) (grant : Nat)
    (s : State) : Offered s (finishMeter r d i v why grant s) := by
  have hset (e : ClientEntry) : Offered s (s.setClient i e) := .same rfl rfl rfl
  have hanswered (u : State) : Offered u (respond r v.outcome why u) := .same rfl rfl rfl
  unfold finishMeter
  exact (((hset _).trans (offered_countVolume i _ v why _)).trans (offered_deliverVerdict _ _)).trans (hanswered _)

theorem offered_meterShared (r : Request) (d : Dir) (i : Fin Config.clientCount) (s : State) :
    Offered s (meterShared r d i s) := by
  have hset (e : ClientEntry) : Offered s ((refill d i s).setClient i e) := .same rfl rfl rfl
  exact (hset _).trans (offered_finishMeter r d i _ _ _ _)

theorem offered_meterActive (r : Request) (d : Dir) (i : Fin Config.clientCount) (s : State) :
    Offered s (meterActive r d i s) := by
  have hrefill : Offered s (refill d i s) := .same rfl rfl rfl
  exact .ite (offered_finishMeter r d i _ _ _ s)
    (.ite (hrefill.trans (offered_finishMeter r d i _ _ _ _)) (offered_meterShared r d i s))

theorem offered_meterEntry (r : Request) (d : Dir) (i : Fin Config.clientCount) (s : State) :
    Offered s (meterEntry r d i s) := by
  have hwoken : Offered s (wakeClient i s) := .same (by simp) (by simp) (by simp)
  have hrefused : Offered s (respond r .refused .notAttached s) := .same rfl rfl rfl
  exact .ite hrefused (.ite (offered_finishMeter r d i _ _ _ s)
    (.ite (hwoken.trans (offered_meterActive r d i _)) (offered_meterActive r d i s)))

theorem offered_detachClient (i : Fin Config.clientCount) (s : State) : Offered s (detachClient i s).1 := by
  unfold detachClient
  split
  · exact .refl s
  · exact offered_removeClient i .detached s

theorem offered_viewChange (station : Word) (set : BitVec 4) (change : ViewChange) (s : State) :
    Offered s (viewChange station set change s) := by
  have hraised : Offered s (raise .viewChanged s) := .same rfl rfl rfl
  exact .ite (hraised.trans (offered_offerRecord _ _)) hraised

theorem offered_removePeer (k : Fin Config.peerSlots) (change : ViewChange) (s : State) :
    Offered s (removePeer k change s) := by
  have hset (e : Option PeerEntry) : Offered s (s.setSlot k e) := .same rfl rfl rfl
  unfold removePeer
  split
  · exact .refl s
  · exact .ite ((hset _).trans (offered_viewChange _ _ _ _)) (hset _)

theorem offered_updatePeer (k : Fin Config.peerSlots) (e : PeerEntry) (n : Notice) (s : State) :
    Offered s (updatePeer k e n s) := by
  have hset (e : Option PeerEntry) : Offered s (s.setSlot k e) := .same rfl rfl rfl
  exact .ite ((hset _).trans (offered_viewChange _ _ _ _)) (.ite ((hset _).trans (offered_viewChange _ _ _ _)) (hset _))

theorem offered_storePeer (k : Fin Config.peerSlots) (n : Notice) (s : State) : Offered s (storePeer k n s) := by
  have hset (e : Option PeerEntry) : Offered s (s.setSlot k e) := .same rfl rfl rfl
  exact .ite ((hset _).trans (offered_viewChange _ _ _ _)) (hset _)

theorem offered_newPeer (n : Notice) (s : State) : Offered s (newPeer n s) := by
  unfold newPeer
  split
  · exact offered_storePeer _ n s
  · split
    · exact (offered_removePeer _ _ s).trans (offered_storePeer _ n _)
    · exact .same rfl rfl rfl

theorem offered_takeNotice (n : Notice) (s : State) : Offered s (takeNotice n s) := by
  unfold takeNotice
  split
  · refine .ite (offered_removePeer _ _ s) ?_
    split
    · exact .ite (.same rfl rfl rfl) (offered_updatePeer _ _ n s)
    · exact .refl s
  · exact .ite (.refl s) (offered_newPeer n s)

theorem offered_agePeer (k : Fin Config.peerSlots) (s : State) : Offered s (agePeer k s) := by
  unfold agePeer
  split
  · exact .refl s
  · exact .ite (offered_removePeer _ _ s) (.ite (offered_removePeer _ _ s) (.same rfl rfl rfl))

theorem offered_agePeers (ks : List (Fin Config.peerSlots)) (s : State) : Offered s (agePeers ks s) := by
  induction ks generalizing s with
  | nil => exact .refl s
  | cons k rest ih => exact (offered_agePeer k s).trans (ih _)

theorem offered_takeExpiry (s : State) : Offered s (takeExpiry s) := by
  have hflipped : Offered s (flipOrAbsorb (countExpiry s)) := .same (by simp) (by simp) (by simp)
  have haged (u : State) : Offered u (ageTable u) := .ite (.refl u) (offered_agePeers _ u)
  have huplink (u : State) : Offered u (ageUplink u) := .same (by simp) (by simp) (by simp)
  have hcounted (u : State) : Offered u (u.setLine u.li.countExpiry) := .same rfl rfl rfl
  unfold takeExpiry
  exact ((hflipped.trans (haged _)).trans (huplink _)).trans (hcounted _)

theorem offered_judgeReceived (b : Byte) (s : State) : Offered s (judgeReceived b s) := by
  have hdeliver (n : Notice) (u : State) : Offered u (deliverNotice n u) :=
    .ite (.same rfl rfl rfl) (offered_takeNotice _ u)
  have hset (l : LineInterface) : Offered s (s.setLine l) := .same rfl rfl rfl
  unfold judgeReceived
  dsimp only
  split
  · exact (hset _).trans (hdeliver _ _)
  · exact hset _

theorem offered_receiveByte (b : Byte) (s : State) : Offered s (receiveByte b s) :=
  .ite (offered_judgeReceived b s) (.same rfl rfl rfl)

theorem offered_receiveCheck (b : Byte) (s : State) : Offered s (receiveCheck b s) :=
  .ite (offered_judgeReceived b s) (.refl s)

/-! ### Everything that a command can do -/

/-- The memory controller as before but for addresses, data and counts. -/
structure SameBus (m n : MemController) : Prop where
  phase : n.phase = m.phase
  owner : n.owner = m.owner
  logRequest : n.logRequest = m.logRequest
  slot : n.slot = m.slot
  granted : n.granted = m.granted
  ready : n.ready = m.ready

theorem SameBus.refl (m : MemController) : SameBus m m := ⟨rfl, rfl, rfl, rfl, rfl, rfl⟩

theorem SameBus.of_eq {m n : MemController} (h : n = m) : SameBus m n := h ▸ .refl m

/-- The log writer as before but for holdings, latches and the lost count. -/
structure SameLog (l k : LogWriter) : Prop where
  queue : k.queue = l.queue
  writer : k.writer = l.writer
  inFlight : k.inFlight = l.inFlight
  index : k.index = l.index
  pendingIndex : k.pendingIndex = l.pendingIndex
  threshold : k.threshold = l.threshold

theorem SameLog.refl (l : LogWriter) : SameLog l l := ⟨rfl, rfl, rfl, rfl, rfl, rfl⟩

theorem SameLog.of_eq {l k : LogWriter} (h : k = l) : SameLog l k := h ▸ .refl l

/-- Everything that a command can do to log writer and memory controller. -/
inductive LogEffect (s t : State) : Prop
  | offered (h : Offered s t)
  | aside (hlw : SameLog s.lw t.lw) (hmc : SameBus s.mc t.mc)
  | request (r : WindowRequest) (m : MemController) (hm : SameBus s.mc m) (hlw : t.lw = s.lw)
      (hmc : t.mc = { m with slot := some r, ready := false }.arbitrate)
  | turns (hphase : s.mc.phase = .turnaround) (hlw : t.lw = s.lw) (hmc : t.mc = s.mc.endTurnaround)
  | goesOn (hphase : s.mc.phase ≠ .idle) (hphase' : t.mc.phase ≠ .idle) (hlw : t.lw = s.lw)
      (hmc : SameBus s.mc { t.mc with phase := s.mc.phase })
  | accessEnds (hphase : s.mc.phase = .hold) (h : t = endAccess s)
  | setIndex (x : Nat) (hx : s.mp.cfg.logAddress x = true) (hidle : s.lw.writer = .idle)
      (hlw : t.lw = { s.lw with index := x }) (hmc : t.mc = s.mc)
  | setPending (x : Nat) (hx : s.mp.cfg.logAddress x = true) (hwriting : s.lw.writer = .writing)
      (hlw : t.lw = { s.lw with pendingIndex := some x }) (hmc : t.mc = s.mc)
  | setThreshold (x : Nat) (hx : s.mp.cfg.logAddress x = true) (hlw : t.lw = { s.lw with threshold := x })
      (hmc : t.mc = s.mc)
  | starts (hs : s.started = false) (hvalid : s.mp.cfg.firstInvalid = none) (hlw : t.lw = s.lw.start s.mp.cfg)
      (hcfg : t.mp.cfg = s.mp.cfg) (hmc : t.mc = s.mc)
  | reset (ht : t.started = false) (hlw : t.lw = LogWriter.reset) (hmc : t.mc = MemController.reset)

theorem LogEffect.of_acts {ps : List Part} {s t : State} (h : ActsOn ps s t)
    (hps : .log ∉ ps ∧ .bus ∉ ps := by simp) : LogEffect s t :=
  .aside (.of_eq (h .log hps.1)) (.of_eq (h .bus hps.2))

theorem LogEffect.same (s : State) : LogEffect s s := .aside (.refl _) (.refl _)

theorem LogEffect.ite {p : Prop} [Decidable p] {s t u : State} (h : p → LogEffect s t) (k : ¬p → LogEffect s u) :
    LogEffect s (if p then t else u) := by
  split
  · next hp => exact h hp
  · next hp => exact k hp

theorem LogEffect.outOfReset {s t : State} (h : LogEffect s t) : LogEffect s (outOfReset s t) :=
  .ite (fun _ => .same s) fun _ => h

theorem judgeClientCommand_logEffect {valid : Bool} {act : Fin Config.clientCount → State → State} {s : State}
    (h : ∀ i, Offered s (act i s)) : LogEffect s (judgeClientCommand valid act s) := by
  have hended (o : CommandOutcome) : LogEffect s (endCommand o s) := .of_acts (endCommand_acts o s)
  unfold judgeClientCommand
  refine .ite (fun _ => hended _) fun _ => ?_
  split
  · exact hended _
  · exact .ite (fun _ => hended _) fun _ => .ite (fun _ => hended _) fun _ => .offered (h _)

theorem onClient_offered {r : Request} {serve : Fin Config.clientCount → State → State} {s : State}
    (h : ∀ i, Offered (dequeue s) (serve i (dequeue s))) : Offered s (onClient r serve (dequeue s)) := by
  have hdequeued : Offered s (dequeue s) := .same rfl rfl rfl
  unfold onClient
  split
  · exact hdequeued.then rfl rfl rfl
  · exact hdequeued.trans (h _)

/-! ### The words of log and window -/

theorem refuseWrite_logEffect (c : RefusedCause) (a : BitVec 7) (s : State) : LogEffect s (refuseWrite c a s) :=
  .of_acts (refuseWrite_acts c a s)

theorem writeLogIndexLow_logEffect (v : Word) (s : State) : LogEffect s (writeLogIndexLow v s) := by
  refine .ite (fun _ => refuseWrite_logEffect _ _ s) fun _ => .ite (fun _ => refuseWrite_logEffect _ _ s) fun hx => ?_
  have hx : s.mp.cfg.logAddress (joinHolding s.lw.indexHolding v) = true := by simpa using hx
  split
  · next hidle => exact .setIndex _ hx hidle rfl rfl
  · next hwriting => exact .setPending _ hx hwriting rfl rfl

theorem writeThresholdLow_logEffect (v : Word) (s : State) : LogEffect s (writeThresholdLow v s) :=
  .ite (fun _ => refuseWrite_logEffect _ _ s) fun _ => .ite (fun _ => refuseWrite_logEffect _ _ s) fun hx =>
    .setThreshold _ (by simpa using hx) rfl rfl

theorem placeWindowRequest_logEffect (r : WindowRequest) {m : MemController} {s : State} (hm : SameBus s.mc m) :
    LogEffect s (placeWindowRequest r { s with mc := m }) := .request r m hm rfl rfl

theorem writeMemAddrLow_logEffect (v : Word) (s : State) : LogEffect s (writeMemAddrLow v s) :=
  .ite (fun _ => refuseWrite_logEffect _ _ s) fun _ => placeWindowRequest_logEffect _ ⟨rfl, rfl, rfl, rfl, rfl, rfl⟩

theorem writeMemAddrHigh_logEffect (v : Word) (s : State) : LogEffect s (writeMemAddrHigh v s) :=
  .ite (fun _ => refuseWrite_logEffect _ _ s) fun _ => .aside (.refl _) ⟨rfl, rfl, rfl, rfl, rfl, rfl⟩

theorem writeMemData_logEffect (v : Word) (s : State) : LogEffect s (writeMemData v s) :=
  .ite (fun _ => refuseWrite_logEffect _ _ s) fun _ => placeWindowRequest_logEffect _ ⟨rfl, rfl, rfl, rfl, rfl, rfl⟩

theorem fetchNext_logEffect (v : Word) (s : State) : LogEffect s (fetchNext (setDataOut v s)) :=
  .ite (fun _ => .request _ { s.mc with address := s.mc.address + 1 } ⟨rfl, rfl, rfl, rfl, rfl, rfl⟩ rfl rfl)
    fun _ => .of_acts (setDataOut_acts v s)

theorem writeWord_logEffect (a : BitVec 7) (v : Word) (s : State) : LogEffect s (writeWord a v s) := by
  have h := writeWord_cases a v s
  generalize writeWord a v s = t at h ⊢
  cases h with
  | config => exact .of_acts (writeConfig_acts a v s)
  | uplink d => exact .of_acts (writeUplink_acts d v s)
  | code => exact .of_acts (writeCommandCode_acts v s)
  | flags => exact .of_acts (clearFlags_acts v s)
  | logIndex => exact writeLogIndexLow_logEffect v s
  | threshold => exact writeThresholdLow_logEffect v s
  | indexHolding | thresholdHolding | lostCount => exact .aside ⟨rfl, rfl, rfl, rfl, rfl, rfl⟩ (.refl _)
  | memAddrLow => exact writeMemAddrLow_logEffect v s
  | memAddrHigh => exact writeMemAddrHigh_logEffect v s
  | memData => exact writeMemData_logEffect v s
  | other h => exact .of_acts h

theorem takeStart_logEffect (b : Bool) (s : State) : LogEffect s (takeStart b s) := by
  unfold takeStart
  refine .ite (fun _ => .of_acts (endCommand_acts _ s)) fun hs => ?_
  split
  · exact .aside (.refl _) (.refl _)
  · next hvalid => exact .starts (by simpa using hs) hvalid rfl rfl rfl

theorem strobe_goes_on {s t : State} (hphase : s.mc.phase = .strobe) (hlw : t.lw = s.lw) (hhold : t.mc.phase = .hold)
    (hmc : SameBus s.mc { t.mc with phase := s.mc.phase }) : LogEffect s t :=
  .goesOn (by simp [hphase]) (by simp [hhold]) hlw hmc

theorem endStrobe_bus (n : Nat) (s : State) :
    (endStrobe n s).mc.phase = .hold ∧ SameBus s.mc { (endStrobe n s).mc with phase := s.mc.phase } := by
  unfold endStrobe
  split <;> exact ⟨rfl, rfl, rfl, rfl, rfl, rfl, rfl⟩

theorem endStrobeTimedOut_bus (s : State) :
    (endStrobeTimedOut s).mc.phase = .hold ∧ SameBus s.mc { (endStrobeTimedOut s).mc with phase := s.mc.phase } := by
  unfold endStrobeTimedOut
  dsimp only
  split
  · exact ⟨rfl, rfl, rfl, rfl, rfl, rfl, rfl⟩
  · split <;> exact ⟨rfl, rfl, rfl, rfl, rfl, rfl, rfl⟩
  · exact ⟨rfl, rfl, rfl, rfl, rfl, rfl, rfl⟩

/-! ### Every command -/

theorem logEffect_of_answers {c : Instr} {s t : State} (h : Answers c s t) : LogEffect s t := by
  by_cases hp : .log ∈ partsOf c ∨ .bus ∈ partsOf c
  · cases c with
    | deviceReset held =>
      obtain rfl := answer_unique rfl h
      exact .reset rfl rfl rfl
    | epochExpiry =>
      obtain rfl := answer_unique rfl h
      exact .ite (fun _ => .offered (offered_takeExpiry s)) fun _ => .same s
    | start b =>
      obtain rfl := answer_unique rfl h
      exact .ite (fun _ => takeStart_logEffect b s) fun _ => .same s
    | evict =>
      obtain rfl := answer_unique rfl h
      exact .ite (fun _ => judgeClientCommand_logEffect fun i =>
        (offered_removeClient i .evicted s).then rfl rfl rfl) fun _ => .same s
    | closureStep =>
      obtain rfl := answer_unique rfl h
      split
      · exact .offered (offered_stepWalk _ s)
      · exact .same s
    | frameReceived b line =>
      obtain rfl := answer_unique rfl h
      exact .ite (fun _ => .offered ((offered_of_acts (passLevels_acts line s)).trans (offered_receiveCheck b _)))
        fun _ => .same s
    | lineByteReceived b line =>
      obtain rfl := answer_unique rfl h
      exact .ite (fun _ => .offered ((offered_of_acts (passLevels_acts line s)).trans (offered_receiveByte b _)))
        fun _ => .same s
    | meter =>
      obtain rfl := answer_unique rfl h
      split
      · split
        · exact .offered (onClient_offered fun i => .ite (.same rfl rfl rfl) (offered_meterEntry _ _ i _))
        · exact .same s
      · exact .same s
    | detach =>
      obtain rfl := answer_unique rfl h
      split
      · split
        · exact .offered (onClient_offered fun i => (offered_detachClient i _).then rfl rfl rfl)
        · exact .same s
      · exact .same s
    | logIndexLowWrite v =>
      obtain rfl := answer_unique rfl h
      exact .outOfReset (writeLogIndexLow_logEffect v s)
    | logIndexLowRead =>
      obtain rfl := answer_unique rfl h
      exact .outOfReset (.aside ⟨rfl, rfl, rfl, rfl, rfl, rfl⟩ (.refl _))
    | thresholdLowWrite v =>
      obtain rfl := answer_unique rfl h
      exact .outOfReset (writeThresholdLow_logEffect v s)
    | thresholdLowRead =>
      obtain rfl := answer_unique rfl h
      exact .outOfReset (.aside ⟨rfl, rfl, rfl, rfl, rfl, rfl⟩ (.refl _))
    | lostCountWrite v =>
      obtain rfl := answer_unique rfl h
      exact .outOfReset (.aside ⟨rfl, rfl, rfl, rfl, rfl, rfl⟩ (.refl _))
    | memAddrLowWrite v =>
      obtain rfl := answer_unique rfl h
      exact .outOfReset (writeMemAddrLow_logEffect v s)
    | memDataRead =>
      obtain rfl := answer_unique rfl h
      exact .outOfReset (fetchNext_logEffect _ s)
    | memDataWrite v =>
      obtain rfl := answer_unique rfl h
      exact .outOfReset (writeMemData_logEffect v s)
    | turnaroundEnd =>
      obtain rfl := answer_unique rfl h
      exact .ite (fun hphase => .turns hphase rfl rfl) fun _ => .same s
    | setupEnd =>
      obtain rfl := answer_unique rfl h
      exact .ite (fun hphase => .goesOn (by simp [hphase]) (by simp) rfl ⟨rfl, rfl, rfl, rfl, rfl, rfl⟩) fun _ => .same s
    | strobeEnd waited =>
      obtain rfl := answer_unique rfl h
      refine .ite (fun hphase => ?_) fun _ => .same s
      split
      · next n _ => exact strobe_goes_on hphase (by simp) (endStrobe_bus n s).1 (endStrobe_bus n s).2
      · exact .same s
    | waitTimeout =>
      obtain rfl := answer_unique rfl h
      exact .ite (fun hphase => strobe_goes_on hphase.1 (by simp) (endStrobeTimedOut_bus s).1 (endStrobeTimedOut_bus s).2)
        fun _ => .same s
    | accessEnd =>
      obtain rfl := answer_unique rfl h
      exact .ite (fun hphase => .accessEnds hphase rfl) fun _ => .same s
    | registerWrite a v =>
      obtain rfl := answer_unique rfl h
      exact .outOfReset (writeWord_logEffect a v s)
    | _ => simp at hp
  · push Not at hp
    exact .aside (.of_eq (kept_of_answers .log h hp.1)) (.of_eq (kept_of_answers .bus h hp.2))

end Sys2Proof.Machine
end

section
/-! ## Proofs: writer, log request, bus owner, window slot and READY agree (R164, R176, R177, R181) -/

namespace Sys2Proof.Machine

/-! ### The memory controller by itself -/

/-- Owner, granted request and READY agree, whether or not the arbiter has just run. -/
structure OwnerOk (m : MemController) : Prop where
  free : m.phase = .idle ↔ m.owner = .none
  log : m.owner = .log → m.logRequest.isSome = true
  window : m.owner = .window ↔ m.granted.isSome = true
  ready : m.ready = true ↔ m.slot = none ∧ m.owner ≠ .window

/-- A free bus leaves no request waiting. -/
def NothingWaits (m : MemController) : Prop := m.phase = .idle → m.logRequest = none ∧ m.slot = none

theorem NothingWaits.of_busy {m : MemController} (h : m.phase ≠ .idle) : NothingWaits m := fun hidle => absurd hidle h

theorem OwnerOk.same {m n : MemController} (h : SameBus m n) (hm : OwnerOk m) : OwnerOk n where
  free := by rw [h.phase, h.owner]; exact hm.free
  log := by rw [h.owner, h.logRequest]; exact hm.log
  window := by rw [h.owner, h.granted]; exact hm.window
  ready := by rw [h.ready, h.slot, h.owner]; exact hm.ready

theorem NothingWaits.same {m n : MemController} (h : SameBus m n) (hm : NothingWaits m) : NothingWaits n := by
  unfold NothingWaits
  rw [h.phase, h.logRequest, h.slot]
  exact hm

/-- Where the bus is held, the phase of the access makes no difference. -/
theorem OwnerOk.setPhase {m n : MemController} (hm : OwnerOk m) (hphase : m.phase ≠ .idle) (hphase' : n.phase ≠ .idle)
    (h : SameBus m { n with phase := m.phase }) : OwnerOk n where
  free := by
    have howner : n.owner = m.owner := h.owner
    have hheld : m.owner ≠ .none := fun hnone => hphase (hm.free.2 hnone)
    simp [hphase', howner, hheld]
  log := (hm.same h).log
  window := (hm.same h).window
  ready := (hm.same h).ready

/-- An access that is granted has the bus out of IDLE. -/
theorem enter_phase_ne_idle (dir : AccessDir) (m : MemController) : (m.enter dir).phase ≠ .idle := by
  rw [(MemController.enter_phase dir m).1]
  split <;> simp

theorem OwnerOk.enter {m : MemController} (dir : AccessDir) (howner : m.owner ≠ .none)
    (hlog : m.owner = .log → m.logRequest.isSome = true) (hwindow : m.owner = .window ↔ m.granted.isSome = true)
    (hready : m.ready = true ↔ m.slot = none ∧ m.owner ≠ .window) : OwnerOk (m.enter dir) := by
  obtain ⟨-, ho, hl, hs, hg, -, hr, -⟩ := MemController.enter_phase dir m
  exact
    { free := by simp [enter_phase_ne_idle, ho, howner]
      log := by rw [ho, hl]; exact hlog
      window := by rw [ho, hg]; exact hwindow
      ready := by rw [hr, hs, ho]; exact hready }

theorem OwnerOk.grantLog {m : MemController} (hlog : m.logRequest.isSome = true) (hready : m.ready = true ↔ m.slot = none) :
    OwnerOk m.grantLog :=
  .enter .write (by simp) (fun _ => hlog) (by simp) (by simpa using hready)

theorem OwnerOk.grantWindow {m : MemController} (r : WindowRequest) (hready : m.ready = false) :
    OwnerOk (m.grantWindow r) :=
  .enter r.dir (by simp) (by simp) (by simp) (by simp [hready])

/-- R177: the arbiter hands out a free bus to whoever waits. -/
theorem OwnerOk.arbitrate {m : MemController} (hm : OwnerOk m) : OwnerOk m.arbitrate ∧ NothingWaits m.arbitrate := by
  by_cases hphase : m.phase = .idle
  · have howner : m.owner = .none := hm.free.1 hphase
    have hready : m.ready = true ↔ m.slot = none := by rw [hm.ready, howner]; simp
    rcases hlog : m.logRequest with _ | l
    · rcases hslot : m.slot with _ | r
      · rw [MemController.arbitrate_nothing hlog hslot]
        exact ⟨hm, fun _ => ⟨hlog, hslot⟩⟩
      · rw [MemController.arbitrate_window hphase hlog hslot]
        exact ⟨.grantWindow r (by simpa [hslot] using hready), .of_busy (enter_phase_ne_idle _ _)⟩
    · have hsome : m.logRequest.isSome = true := by simp [hlog]
      rw [MemController.arbitrate_log hphase hsome]
      exact ⟨.grantLog hsome hready, .of_busy (enter_phase_ne_idle _ _)⟩
  · rw [MemController.arbitrate_busy hphase]
    exact ⟨hm, .of_busy hphase⟩

/-- A window request put in the slot, with READY cleared. -/
theorem OwnerOk.request {m : MemController} (r : WindowRequest) (hm : OwnerOk m) :
    OwnerOk { m with slot := some r, ready := false } where
  free := hm.free
  log := hm.log
  window := hm.window
  ready := by simp

/-- A log request laid before the arbiter. -/
theorem OwnerOk.logRequest {m : MemController} (r : LogRequest) (hm : OwnerOk m) :
    OwnerOk { m with logRequest := some r } where
  free := hm.free
  log _ := rfl
  window := hm.window
  ready := hm.ready

/-- R177: the end of a turnaround, with the withdrawal of a window access. -/
theorem OwnerOk.endTurnaround {m : MemController} (hm : OwnerOk m) (hphase : m.phase = .turnaround) :
    OwnerOk m.endTurnaround ∧ m.endTurnaround.phase ≠ .idle ∧
      m.endTurnaround.logRequest = m.logRequest := by
  have hsetup (dir : AccessDir) : OwnerOk (m.beginSetup dir) :=
    hm.setPhase (by simp [hphase]) (by simp [MemController.beginSetup]) ⟨rfl, rfl, rfl, rfl, rfl, rfl⟩
  unfold MemController.endTurnaround
  split
  · next r howner hgranted =>
    split
    · next hlog =>
      have hbusy : m.ready = false := by
        have := hm.ready
        rw [howner] at this
        simpa using this
      exact ⟨.grantLog hlog (by simp [hbusy]), enter_phase_ne_idle _ _, (MemController.enter_phase _ _).2.2.1⟩
    · exact ⟨hsetup _, by simp [MemController.beginSetup], rfl⟩
  · exact ⟨hsetup _, by simp [MemController.beginSetup], rfl⟩

/-! ### Writer and log request -/

/-- The writer writes exactly while a record is in flight and a log request stands. -/
structure WriterOk (l : LogWriter) (m : MemController) : Prop where
  writing : l.writer = .writing ↔ m.logRequest.isSome = true
  inFlight : l.writer = .writing ↔ l.inFlight.isSome = true

/-- An IDLE writer leaves no record queued. -/
def NothingQueued (l : LogWriter) : Prop := l.writer = .idle → l.queue = []

theorem busOk_iff {s : State} :
    BusOk s ↔ OwnerOk s.mc ∧ NothingWaits s.mc ∧ WriterOk s.lw s.mc ∧ NothingQueued s.lw :=
  ⟨fun h => ⟨⟨h.free, h.log, h.window, h.ready⟩, h.idle, ⟨h.writing, h.inFlight⟩, h.queue⟩,
    fun ⟨howner, hwaits, hwriter, hqueue⟩ =>
      { writing := hwriter.writing, inFlight := hwriter.inFlight, queue := hqueue, free := howner.free, idle := hwaits
        log := howner.log, window := howner.window, ready := howner.ready }⟩

theorem WriterOk.of_eq {l k : LogWriter} {m n : MemController} (h : WriterOk l m) (hwriter : k.writer = l.writer)
    (hinFlight : k.inFlight = l.inFlight) (hrequest : n.logRequest = m.logRequest) : WriterOk k n where
  writing := by rw [hwriter, hrequest]; exact h.writing
  inFlight := by rw [hwriter, hinFlight]; exact h.inFlight

theorem NothingQueued.same {l k : LogWriter} (h : SameLog l k) (hl : NothingQueued l) : NothingQueued k := by
  unfold NothingQueued
  rw [h.writer, h.queue]
  exact hl

/-- An IDLE writer that takes from a list keeps writer and bus in agreement, and leaves nothing queued; nothing is left
waiting on a free bus where nothing was. -/
theorem takeFrom_busOk (rs : List Record) {s : State} (howner : OwnerOk s.mc) (hwriter : WriterOk s.lw s.mc)
    (hidle : s.lw.writer = .idle) :
    OwnerOk (takeFrom rs s).mc ∧ (NothingWaits s.mc → NothingWaits (takeFrom rs s).mc) ∧
      WriterOk (takeFrom rs s).lw (takeFrom rs s).mc ∧ NothingQueued (takeFrom rs s).lw := by
  induction rs generalizing s with
  | nil => exact ⟨howner, id, hwriter.of_eq rfl rfl rfl, fun _ => rfl⟩
  | cons r rest ih =>
    by_cases hfull : s.lw.index = s.mp.cfg.limit
    · rw [takeFrom_full r rest hfull]
      exact ih (s := loseRecord s) howner (hwriter.of_eq rfl rfl rfl) hidle
    · rw [takeFrom_room r rest hfull]
      obtain ⟨hheld, hwaits⟩ := (howner.logRequest ⟨s.lw.index, r.words⟩).arbitrate
      refine ⟨hheld, fun _ => hwaits, ⟨?_, by simp⟩, fun h => nomatch h⟩
      have hstands : (placeLogRequest ⟨s.lw.index, r.words⟩
          { s with lw := { s.lw with queue := rest, inFlight := some r, writer := .writing } }).mc.logRequest =
          some ⟨s.lw.index, r.words⟩ := (MemController.arbitrate_frame _).1
      simp [hstands]

theorem busOk_offerRecord (r : Record) {s : State} (hs : BusOk s) : BusOk (offerRecord r s) := by
  obtain ⟨howner, hwaits, hwriter, hqueue⟩ := busOk_iff.1 hs
  refine busOk_iff.2 ?_
  by_cases hroom : s.lw.queue.length < Config.recordDepth
  · cases hst : s.lw.writer with
    | idle =>
      rw [offerRecord_idle r hst (hqueue hst)]
      obtain ⟨howner', hwaits', hwriter', hqueue'⟩ :=
        takeFrom_busOk [r] (s := { s with lw := { s.lw with queue := [r] } }) howner (hwriter.of_eq rfl rfl rfl) hst
      exact ⟨howner', hwaits' hwaits, hwriter', hqueue'⟩
    | writing =>
      rw [offerRecord_writing r hst hroom]
      exact ⟨howner, hwaits, hwriter.of_eq rfl rfl rfl, fun hidle => by simp [hst] at hidle⟩
  · rw [offerRecord_lost r (Nat.le_of_not_lt hroom)]
    exact ⟨howner, hwaits, hwriter.of_eq rfl rfl rfl, hqueue.same ⟨rfl, rfl, rfl, rfl, rfl, rfl⟩⟩

theorem BusOk.same {s t : State} (hlw : SameLog s.lw t.lw) (hmc : SameBus s.mc t.mc) (hs : BusOk s) : BusOk t := by
  obtain ⟨howner, hwaits, hwriter, hqueue⟩ := busOk_iff.1 hs
  exact busOk_iff.2 ⟨howner.same hmc, hwaits.same hmc, hwriter.of_eq hlw.writer hlw.inFlight hmc.logRequest,
    hqueue.same hlw⟩

theorem busOk_offered {s t : State} (h : Offered s t) (hs : BusOk s) : BusOk t := by
  induction h with
  | same hlw hmc _ => exact hs.same (.of_eq hlw) (.of_eq hmc)
  | offer r _ hlw hmc _ ih => exact (busOk_offerRecord r ih).same (.of_eq hlw) (.of_eq hmc)

/-! ### The end of an access -/

theorem releaseRecord_eq (s : State) :
    releaseRecord s = takeFrom s.lw.queue { s with lw := { s.lw with inFlight := none, writer := .idle } } := by
  simp [releaseRecord, writerTake]

/-- The record in flight is released with its log request, and the arbiter follows the writer (log 14). -/
theorem busOk_arbitrate_release {s : State} (howner : OwnerOk s.mc) (hnone : s.mc.logRequest = none) :
    BusOk (Machine.arbitrate (releaseRecord s)) := by
  obtain ⟨howner', -, hwriter', hqueue'⟩ :=
    takeFrom_busOk s.lw.queue (s := { s with lw := { s.lw with inFlight := none, writer := .idle } }) howner
      ⟨by simp [hnone], by simp⟩ rfl
  rw [releaseRecord_eq]
  generalize takeFrom _ _ = u at howner' hwriter' hqueue'
  obtain ⟨hheld, hwaits⟩ := howner'.arbitrate
  exact busOk_iff.2 ⟨hheld, hwaits, hwriter'.of_eq rfl rfl (MemController.arbitrate_frame _).1, hqueue'⟩

theorem OwnerOk.endLog {m : MemController} (hm : OwnerOk m) (howner : m.owner = .log) : OwnerOk m.endLog where
  free := by simp [MemController.endLog]
  log h := nomatch h
  window := by
    have hgranted : m.granted = none := by
      have := hm.window
      rw [howner] at this
      simpa using this
    simp [MemController.endLog, hgranted]
  ready := by
    have := hm.ready
    rw [howner] at this
    simpa [MemController.endLog] using this

theorem OwnerOk.endWindow (m : MemController) : OwnerOk m.endWindow where
  free := by simp [MemController.endWindow]
  log h := nomatch h
  window := by simp [MemController.endWindow]
  ready := by simp [MemController.endWindow]

@[simp] theorem advanceIndex_mc (s : State) : (advanceIndex s).mc = s.mc := (advanceIndex_frame s).2.2.2.2.2.2.2.1

theorem busOk_endAccess {s : State} (hphase : s.mc.phase = .hold) (hs : BusOk s) : BusOk (endAccess s) := by
  obtain ⟨howner, -, hwriter, hqueue⟩ := busOk_iff.1 hs
  unfold endAccess
  split
  · next hlog =>
    have hended := howner.endLog hlog
    split
    · unfold recordTimedOut
      dsimp only
      split <;> exact busOk_arbitrate_release hended rfl
    · split
      · refine busOk_iff.2 ⟨howner.setPhase (by simp [hphase]) (by simp [MemController.beginSetup])
          ⟨rfl, rfl, rfl, rfl, rfl, rfl⟩, .of_busy (by simp [MemController.beginSetup]), hwriter.of_eq rfl rfl rfl, hqueue⟩
      · unfold recordCompleted
        split
        · exact busOk_arbitrate_release hended rfl
        · exact busOk_arbitrate_release (by rw [advanceIndex_mc]; exact hended) (by rw [advanceIndex_mc]; rfl)
  · next hlog =>
    have hnolog : s.mc.owner = .window := by
      have hheld : s.mc.owner ≠ .none := fun hnone => by simp [howner.free.2 hnone] at hphase
      cases ho : s.mc.owner <;> simp_all
    obtain ⟨hheld, hwaits⟩ := (OwnerOk.endWindow s.mc).arbitrate
    have hrequest : s.mc.endWindow.arbitrate.logRequest = s.mc.logRequest := (MemController.arbitrate_frame _).1
    have hlw : (Machine.arbitrate { raiseIfTimedOut s with mc := s.mc.endWindow }).lw = s.lw :=
      (raiseIfTimedOut_frame s).2.2.2.2.2.2.2.1
    refine busOk_iff.2 ⟨hheld, hwaits, hwriter.of_eq (by rw [hlw]) (by rw [hlw]) hrequest, ?_⟩
    rw [hlw]
    exact hqueue

/-! ### Every command -/

theorem busOk_reset {t : State} (hlw : t.lw = LogWriter.reset) (hmc : t.mc = MemController.reset) : BusOk t := by
  refine busOk_iff.2 ?_
  rw [hlw, hmc]
  exact ⟨⟨by simp [MemController.reset], (fun h => nomatch h), by simp [MemController.reset], by simp [MemController.reset]⟩,
    fun _ => ⟨rfl, rfl⟩, ⟨by simp [LogWriter.reset, MemController.reset], by simp [LogWriter.reset]⟩, fun _ => rfl⟩

theorem busOk_answers {c : Instr} {s t : State} (hs : BusOk s) (h : Answers c s t) : BusOk t := by
  obtain ⟨howner, hwaits, hwriter, hqueue⟩ := busOk_iff.1 hs
  cases logEffect_of_answers h with
  | offered h => exact busOk_offered h hs
  | aside hlw hmc => exact hs.same hlw hmc
  | request r m hm hlw hmc =>
    obtain ⟨hheld, hwaits'⟩ := ((howner.same hm).request r).arbitrate
    refine busOk_iff.2 ?_
    rw [hlw, hmc]
    exact ⟨hheld, hwaits', hwriter.of_eq rfl rfl ((MemController.arbitrate_frame _).1.trans hm.logRequest), hqueue⟩
  | turns hphase hlw hmc =>
    obtain ⟨hheld, hbusy, hrequest⟩ := howner.endTurnaround hphase
    refine busOk_iff.2 ?_
    rw [hlw, hmc]
    exact ⟨hheld, .of_busy hbusy, hwriter.of_eq rfl rfl hrequest, hqueue⟩
  | goesOn hphase hphase' hlw hmc =>
    refine busOk_iff.2 ?_
    rw [hlw]
    exact ⟨howner.setPhase hphase hphase' hmc, .of_busy hphase', hwriter.of_eq rfl rfl hmc.logRequest, hqueue⟩
  | accessEnds hphase h => exact h ▸ busOk_endAccess hphase hs
  | setIndex x hx hidle hlw hmc =>
    refine busOk_iff.2 ?_
    rw [hlw, hmc]
    exact ⟨howner, hwaits, hwriter.of_eq rfl rfl rfl, hqueue⟩
  | setPending x hx hwriting hlw hmc =>
    refine busOk_iff.2 ?_
    rw [hlw, hmc]
    exact ⟨howner, hwaits, hwriter.of_eq rfl rfl rfl, hqueue⟩
  | setThreshold x hx hlw hmc =>
    refine busOk_iff.2 ?_
    rw [hlw, hmc]
    exact ⟨howner, hwaits, hwriter.of_eq rfl rfl rfl, hqueue⟩
  | starts _ _ hlw _ hmc =>
    refine busOk_iff.2 ?_
    rw [hlw, hmc]
    exact ⟨howner, hwaits, hwriter.of_eq rfl rfl rfl, hqueue⟩
  | reset _ hlw hmc => exact busOk_reset hlw hmc

/-- An invariant that does not look at the waiting commands and that every command keeps is kept by every step. -/
theorem kept_of_answers_keep {inv : State → Prop} (hinv : ∀ s l, inv s → inv { s with pending := l })
    (hexec : ∀ (c : Instr) (s t : State), inv s → Answers c s t → inv t) : Kept inv := fun s t =>
  step_keeps (pre := fun _ => True) (fun _ _ _ => trivial) hinv (fun c s t _ => hexec c s t) s t trivial

/-- Settles O10: every effect on log writer and memory controller keeps them in agreement. -/
theorem busStaysInOrder : Obligations.BusStaysInOrder :=
  kept_of_answers_keep (fun s _ hs => BusOk.same (s := s) (.refl _) (.refl _) hs) fun _ _ _ => busOk_answers

/-! ## The log index (R166 to R168) -/

/-- Index, threshold and a pending index write are word addresses of the log, and a writer that writes has room. -/
structure IndexOk (c : ConfigWords) (l : LogWriter) : Prop where
  index : c.LogAddress l.index
  threshold : c.LogAddress l.threshold
  pendingIndex : ∀ v, l.pendingIndex = some v → c.LogAddress v
  room : l.writer = .writing → l.index < c.limit

theorem logOk_iff_of_started {s : State} (hs : s.started = true) : LogOk s ↔ IndexOk s.mp.cfg s.lw :=
  ⟨fun h => ⟨h.index hs, h.threshold hs, h.pendingIndex hs, fun hw => (h.room hw).2⟩,
    fun h => ⟨fun _ => h.index, fun _ => h.threshold, fun _ => h.pendingIndex, fun hw => ⟨hs, h.room hw⟩⟩⟩

theorem IndexOk.of_eq {c : ConfigWords} {l k : LogWriter} (h : IndexOk c l) (hindex : k.index = l.index)
    (hthreshold : k.threshold = l.threshold) (hpending : k.pendingIndex = l.pendingIndex)
    (hwriter : k.writer = .writing → k.index < c.limit) : IndexOk c k where
  index := hindex ▸ h.index
  threshold := hthreshold ▸ h.threshold
  pendingIndex := hpending ▸ h.pendingIndex
  room := hwriter

theorem IndexOk.same {c : ConfigWords} {l k : LogWriter} (hsame : SameLog l k) (h : IndexOk c l) : IndexOk c k :=
  h.of_eq hsame.index hsame.threshold hsame.pendingIndex (by rw [hsame.writer, hsame.index]; exact h.room)

theorem logAddress_iff {c : ConfigWords} {v : Nat} : c.logAddress v = true ↔ c.LogAddress v := by
  simp [ConfigWords.logAddress, ConfigWords.LogAddress, and_assoc]

/-- R164: the writer writes only below the limit. -/
theorem indexOk_takeFrom (rs : List Record) {s : State} (h : IndexOk s.mp.cfg s.lw) :
    IndexOk s.mp.cfg (takeFrom rs s).lw := by
  induction rs generalizing s with
  | nil => exact h.of_eq rfl rfl rfl h.room
  | cons r rest ih =>
    by_cases hfull : s.lw.index = s.mp.cfg.limit
    · rw [takeFrom_full r rest hfull]
      exact ih (s := loseRecord s) (h.of_eq rfl rfl rfl h.room)
    · rw [takeFrom_room r rest hfull]
      have hbelow : s.lw.index < s.mp.cfg.limit := Nat.lt_of_le_of_ne h.index.2.1 hfull
      exact h.of_eq rfl rfl rfl fun _ => hbelow

theorem indexOk_offerRecord (r : Record) {s : State} (h : IndexOk s.mp.cfg s.lw) :
    IndexOk s.mp.cfg (offerRecord r s).lw := by
  have hjoined : IndexOk s.mp.cfg { s.lw with queue := s.lw.queue ++ [r] } := h.of_eq rfl rfl rfl h.room
  unfold offerRecord
  split
  · unfold writerTake
    split
    · exact indexOk_takeFrom _ (s := { s with lw := { s.lw with queue := s.lw.queue ++ [r] } }) hjoined
    · exact hjoined
  · exact h.of_eq rfl rfl rfl h.room

theorem indexOk_offered {s t : State} (h : Offered s t) (hs : IndexOk s.mp.cfg s.lw) : IndexOk t.mp.cfg t.lw := by
  induction h with
  | same hlw _ hcfg => rw [hlw, hcfg]; exact hs
  | offer r _ hlw _ hcfg ih => rw [hlw, hcfg]; exact indexOk_offerRecord r ih

theorem indexOk_releaseRecord {s : State} (hindex : s.mp.cfg.LogAddress s.lw.index)
    (hthreshold : s.mp.cfg.LogAddress s.lw.threshold)
    (hpending : ∀ v, s.lw.pendingIndex = some v → s.mp.cfg.LogAddress v) :
    IndexOk s.mp.cfg (releaseRecord s).lw := by
  rw [releaseRecord_eq]
  exact indexOk_takeFrom _ (s := { s with lw := { s.lw with inFlight := none, writer := .idle } })
    { index := hindex, threshold := hthreshold, pendingIndex := hpending, room := fun h => nomatch h }

/-- R165: below the limit there is room for one record more. -/
theorem logAddress_next {c : ConfigWords} {v : Nat} (h : c.LogAddress v) (hroom : v < c.limit) :
    c.LogAddress (v + 16) := by
  obtain ⟨hbase, hlimit, hstep⟩ := h
  simp only [ConfigWords.LogAddress, ConfigWords.base, ConfigWords.limit] at *
  omega

theorem advanceIndex_lw (s : State) : (advanceIndex s).lw = { s.lw with index := s.lw.index + 16 } := by
  unfold advanceIndex
  dsimp only
  (repeat' split) <;> rfl

theorem indexOk_recordCompleted {s : State} (h : IndexOk s.mp.cfg s.lw) (hwriting : s.lw.writer = .writing) :
    IndexOk s.mp.cfg (recordCompleted s).lw := by
  unfold recordCompleted
  split
  · next v hv =>
    exact indexOk_releaseRecord (s := applyPendingIndex v s) (h.pendingIndex v hv) h.threshold fun _ hnone => nomatch hnone
  · have hreleased := indexOk_releaseRecord (s := advanceIndex s)
    rw [advanceIndex_cfg, advanceIndex_lw] at hreleased
    exact hreleased (logAddress_next h.index (h.room hwriting)) h.threshold h.pendingIndex

theorem indexOk_recordTimedOut {s : State} (h : IndexOk s.mp.cfg s.lw) : IndexOk s.mp.cfg (recordTimedOut s).lw := by
  unfold recordTimedOut
  dsimp only
  split
  · next v hv =>
    exact indexOk_releaseRecord (s := applyPendingIndex v (loseRecord s)) (h.pendingIndex v hv) h.threshold
      fun _ hnone => nomatch hnone
  · exact indexOk_releaseRecord (s := loseRecord s) h.index h.threshold h.pendingIndex

theorem indexOk_endAccess {s : State} (hbus : BusOk s) (h : IndexOk s.mp.cfg s.lw) :
    IndexOk s.mp.cfg (endAccess s).lw := by
  unfold endAccess
  split
  · next hlog =>
    split
    · rw [arbitrate_lw]
      exact indexOk_recordTimedOut (s := { raise .memoryTimeout s with mc := s.mc.endLog }) h
    · split
      · exact h
      · rw [arbitrate_lw]
        exact indexOk_recordCompleted (s := { s with mc := s.mc.endLog }) h (hbus.writing.2 (hbus.log hlog))
  · rw [arbitrate_lw, show State.lw _ = s.lw from (raiseIfTimedOut_frame s).2.2.2.2.2.2.2.1]
    exact h

/-- Check 16 of Table 12-2: the log base is not above the log limit. -/
theorem logBase_le_logLimit {c : ConfigWords} (h : c.firstInvalid = none) : c.logBase.toNat ≤ c.logLimit.toNat := by
  have hall : ∀ p ∈ c.checks, p.2 = true := by simpa [ConfigWords.firstInvalid] using h
  simpa using hall (16, c.logBase.toNat ≤ c.logLimit.toNat) (by simp [ConfigWords.checks])

theorem indexOk_start {c : ConfigWords} {l : LogWriter} (hvalid : c.firstInvalid = none) (hwriter : l.writer = .idle)
    (hpending : l.pendingIndex = none) : IndexOk c (l.start c) := by
  have hle := logBase_le_logLimit hvalid
  have hbase : c.LogAddress c.base := ⟨Nat.le_refl _, by simp only [ConfigWords.base, ConfigWords.limit]; omega, by simp⟩
  have hlimit : c.LogAddress c.limit := ⟨hbase.2.1, Nat.le_refl _, by
    simp only [ConfigWords.base, ConfigWords.limit]; omega⟩
  exact
    { index := hbase, threshold := hlimit, pendingIndex := fun v hv => by simp [LogWriter.start, hpending] at hv
      room := fun hw => by simp [LogWriter.start, hwriter] at hw }

/-- Only START takes the part from where it was before START. -/
theorem isStart_of_started {c : Instr} {s t : State} (hpart : PartOk s) (hs : s.started = false)
    (ht : t.started = true) (h : Answers c s t) : ∃ b, c = .start b := by
  have hstation : s.li.station = .unconfigured := by simpa [State.started] using hs
  have htx : s.li.tx = .idle := by
    by_contra hne
    simpa [hstation] using hpart.line.tx_state hne
  have hsame : ¬ s.started = true := by simp [hs]
  by_cases hp : .line ∈ partsOf c
  · cases c with
    | start b => exact ⟨b, rfl⟩
    | deviceReset held =>
      obtain rfl := answer_unique rfl h
      cases ht
    | publish =>
      obtain rfl := answer_unique rfl h
      simp [(hpart.rest hs).pass, ShareEngine.reset, hs] at ht
    | restart =>
      obtain rfl := answer_unique rfl h
      split at ht <;> simp [hs] at ht
    | leave =>
      obtain rfl := answer_unique rfl h
      split at ht <;> simp [leaveTrain, hstation, hs] at ht
    | resume =>
      obtain rfl := answer_unique rfl h
      split at ht <;> simp [resumeStation, hstation, hs] at ht
    | lineRestoration =>
      obtain rfl := answer_unique rfl h
      simp [State.restorationDue, hstation, hs] at ht
    | jitterExpiry | readbackMismatch | noticeSent | backoffExpiry =>
      obtain rfl := answer_unique rfl h
      simp [htx, hs] at ht
    | millisecondTick | epochExpiry | frameReceived | lineByteReceived | carrierIdle | busyPeriodStart | busyPeriodLimit
    | framingError | attemptStart | stuckLine | runLengthOverflow =>
      obtain rfl := answer_unique rfl h
      simp [hs] at ht
    | _ => simp at hp
  · have hli : t.li = s.li := kept_of_answers .line h hp
    simp [State.started, hli, hstation] at ht

theorem indexOk_takeStart {b : Bool} {s : State} (hrest : AtRest s) (hs : s.started = false)
    (ht : (takeStart b s).started = true) : IndexOk (takeStart b s).mp.cfg (takeStart b s).lw := by
  unfold takeStart at ht ⊢
  rw [hs] at ht ⊢
  simp only [Bool.false_eq_true, if_false] at ht ⊢
  split at ht
  · exact absurd ht (by simp [State.started] at hs ⊢; exact hs)
  · next hvalid => exact indexOk_start hvalid hrest.writer hrest.pendingIndex

theorem indexOk_answers {c : Instr} {s t : State} (hbus : BusOk s) (hs : IndexOk s.mp.cfg s.lw)
    (hstarted : s.started = true) (ht : t.started = true) (h : Answers c s t) : IndexOk t.mp.cfg t.lw := by
  have hreset : ∀ held, c ≠ .deviceReset held := by
    rintro held rfl
    obtain rfl := answer_unique rfl h
    cases ht
  have hcfg := cfg_of_answers_of_started h hstarted hreset
  cases logEffect_of_answers h with
  | offered h => exact indexOk_offered h hs
  | aside hlw _ => rw [hcfg]; exact hs.same hlw
  | request _ _ _ hlw _ => rw [hcfg, hlw]; exact hs
  | turns _ hlw _ => rw [hcfg, hlw]; exact hs
  | goesOn _ _ hlw _ => rw [hcfg, hlw]; exact hs
  | accessEnds _ h =>
    rw [hcfg, h]
    exact indexOk_endAccess hbus hs
  | setIndex x hx hidle hlw _ =>
    rw [hcfg, hlw]
    exact
      { index := logAddress_iff.1 hx, threshold := hs.threshold, pendingIndex := hs.pendingIndex
        room := fun hw => by simp [hidle] at hw }
  | setPending x hx _ hlw _ =>
    rw [hcfg, hlw]
    exact
      { index := hs.index, threshold := hs.threshold, room := hs.room
        pendingIndex := fun v hv => Option.some.inj hv ▸ logAddress_iff.1 hx }
  | setThreshold x hx hlw _ =>
    rw [hcfg, hlw]
    exact
      { index := hs.index, threshold := logAddress_iff.1 hx, room := hs.room, pendingIndex := hs.pendingIndex }
  | starts hno => simp [hstarted] at hno
  | reset hno => simp [ht] at hno

theorem logOk_answers {c : Instr} {s t : State} (hpart : PartOk s) (hbus : BusOk s) (hs : LogOk s) (h : Answers c s t) :
    LogOk t := by
  rcases ht : t.started with _ | _
  · have hrest := (partOk_answers hpart h).rest ht
    have hno {p : Prop} (hyes : t.started = true) : p := by simp [ht] at hyes
    exact ⟨hno, hno, hno, fun hw => by simp [hrest.writer] at hw⟩
  · refine (logOk_iff_of_started ht).2 ?_
    rcases hstarted : s.started with _ | _
    · obtain ⟨b, rfl⟩ := isStart_of_started hpart hstarted ht h
      obtain rfl := answer_unique rfl h
      split at ht
      · next hruns =>
        rw [if_pos hruns]
        exact indexOk_takeStart (hpart.rest hstarted) hstarted ht
      · simp [hstarted] at ht
    · exact indexOk_answers hbus ((logOk_iff_of_started hstarted).1 hs) hstarted ht h

/-- Settles O9: before START the part is at rest, START sets index and threshold, and from then on every effect on the log
writer keeps them in the log. -/
theorem logIndexStaysInTheLog : Obligations.LogIndexStaysInTheLog := fun s t hpart hbus hs h =>
  step_keeps (pre := fun s => PartOk s ∧ BusOk s)
    (fun s l hs => ⟨partOk_pending s l hs.1, BusOk.same (s := s) (.refl _) (.refl _) hs.2⟩)
    (fun _ _ hs => ⟨hs.index, hs.threshold, hs.pendingIndex, hs.room⟩)
    (fun _ _ _ hpre hs h => logOk_answers hpre.1 hpre.2 hs h) s t ⟨hpart, hbus⟩ hs h

end Sys2Proof.Machine
end

section
/-! ## Proofs: bucket levels stay within their depths (R129) -/

namespace Sys2Proof.Machine

/-- The levels of a direction lie within its depths. -/
def ClientDir.Within (x : ClientDir) : Prop := x.committed ≤ x.committedDepth ∧ x.excess ≤ x.excessDepth

/-- Both directions' levels lie within their depths. -/
def ClientEntry.LevelsIn (e : ClientEntry) : Prop := ∀ d, (e.dir d).Within

theorem ClientDir.Within.of_eq {x y : ClientDir} (h : x.Within) (hc : y.committed = x.committed)
    (hcd : y.committedDepth = x.committedDepth) (he : y.excess = x.excess) (hed : y.excessDepth = x.excessDepth) :
    y.Within := by
  unfold ClientDir.Within
  rw [hc, hcd, he, hed]
  exact h

theorem ClientEntry.LevelsIn.setDir {e : ClientEntry} {d : Dir} {x : ClientDir} (h : e.LevelsIn) (hx : x.Within) :
    (e.setDir d x).LevelsIn := fun d' => by
  rw [ClientEntry.dir_setDir]
  split
  · exact hx
  · exact h d'

theorem ClientEntry.LevelsIn.mapDirs {e : ClientEntry} {f : ClientDir → ClientDir} (h : e.LevelsIn)
    (hf : ∀ x : ClientDir, x.Within → (f x).Within) : ({ e with dirs := e.dirs.map f } : ClientEntry).LevelsIn :=
  fun d => by
    rw [ClientEntry.dir, PerDir.get_map]
    exact hf _ (h d)

theorem ClientEntry.LevelsIn.of_dirs {e f : ClientEntry} (h : e.LevelsIn) (hdirs : f.dirs = e.dirs) : f.LevelsIn := by
  intro d
  rw [ClientEntry.dir, hdirs]
  exact h d

/-! ### Entries as the events make them -/

theorem levelsIn_free : ClientEntry.free.LevelsIn := fun d => by cases d <;> exact ⟨Nat.le_refl 0, Nat.le_refl 0⟩

/-- R134: full buckets stand at their depths. -/
theorem levelsIn_fillBuckets (c : ConfigWords) (stamp : BitVec 20) (e : ClientEntry) :
    (e.fillBuckets c stamp).LevelsIn := fun d => by
  rw [ClientEntry.dir, ClientEntry.fillBuckets, PerDir.get_map]
  exact ⟨Nat.le_refl _, Nat.le_refl _⟩

theorem within_refillDir (c : ConfigWords) (capped : Bool) (now : BitVec 20) (x : ClientDir) :
    (refillDir c capped now x).Within := ⟨Nat.min_le_left _ _, Nat.min_le_left _ _⟩

theorem within_decideDir (length : Nat) {x : ClientDir} (h : x.Within) : (decideDir length x).2.Within := by
  unfold decideDir
  split
  · exact ⟨(Nat.sub_le _ _).trans h.1, h.2⟩
  · split
    · exact ⟨h.1, (Nat.sub_le _ _).trans h.2⟩
    · exact h

theorem ClientEntry.LevelsIn.closeDir {e : ClientEntry} (h : e.LevelsIn) (c : ConfigWords) (length : Nat) (d : Dir) :
    (e.closeDir c length d).LevelsIn := by
  refine h.setDir ?_
  unfold ClientDir.clearWindow
  split <;> exact h d

theorem ClientEntry.LevelsIn.closed {e : ClientEntry} (h : e.LevelsIn) (c : ConfigWords) (length : Nat) :
    (e.closed c length).LevelsIn := ((h.closeDir c length .up).closeDir c length .down).of_dirs rfl

theorem ClientEntry.LevelsIn.countWindow {e : ClientEntry} (h : e.LevelsIn) (d : Dir) (length : Nat) :
    (e.countWindow d length).LevelsIn := by
  refine h.setDir ?_
  split <;> exact h d

theorem ClientEntry.LevelsIn.countVerdict {e : ClientEntry} (h : e.LevelsIn) (d : Dir) (length : Nat) (v : Verdict)
    (why : Reason) : (e.countVerdict d length v why).LevelsIn := by
  unfold ClientEntry.countVerdict
  split
  · exact h.of_dirs rfl
  all_goals exact (h.countWindow d length).of_dirs rfl

theorem ClientEntry.LevelsIn.withGrants {e : ClientEntry} (h : e.LevelsIn) (up down : Nat) :
    (e.withGrants up down).LevelsIn := fun d => by
  cases d
  · exact h .up
  · exact h .down

/-! ### Operations on the client table -/

/-- Every entry whose levels were in their range has them there still. -/
def KeepsLevels (s t : State) : Prop := ∀ i, (s.client i).LevelsIn → (t.client i).LevelsIn

theorem KeepsLevels.refl (s : State) : KeepsLevels s s := fun _ h => h

theorem KeepsLevels.trans {s t u : State} (h : KeepsLevels s t) (k : KeepsLevels t u) : KeepsLevels s u :=
  fun i hi => k i (h i hi)

theorem KeepsLevels.ite {p : Prop} [Decidable p] {s t u : State} (h : KeepsLevels s t) (k : KeepsLevels s u) :
    KeepsLevels s (if p then t else u) := by
  split
  · exact h
  · exact k

theorem keepsLevels_of_entries {s t : State} (h : t.ct.entries = s.ct.entries) : KeepsLevels s t := fun i hi => by
  rw [State.client, h]
  exact hi

theorem keepsLevels_setClient {s : State} {i : Fin Config.clientCount} {e : ClientEntry}
    (h : (s.client i).LevelsIn → e.LevelsIn) : KeepsLevels s (s.setClient i e) := fun j hj => by
  rw [client_setClient]
  split
  · next hji => subst hji; exact h hj
  · exact hj

theorem keepsLevels_drawGrant (d : Dir) (i : Fin Config.clientCount) (g : Nat) (s : State) :
    KeepsLevels s (drawGrant d i g s) := keepsLevels_setClient fun h => h.setDir (h d)

theorem keepsLevels_leaveSharing (i : Fin Config.clientCount) (s : State) : KeepsLevels s (leaveSharing i s) :=
  fun j hj => by
    rw [client_leaveSharing]
    split
    · next hji => subst hji; exact hj.withGrants 0 0
    · exact hj

theorem keepsLevels_takeJoinGrants (i : Fin Config.clientCount) (s : State) : KeepsLevels s (takeJoinGrants i s) :=
  (keepsLevels_drawGrant .up i _ s).trans (keepsLevels_drawGrant .down i _ _)

theorem keepsLevels_joinWithFullBuckets (i : Fin Config.clientCount) (s : State) :
    KeepsLevels s (joinWithFullBuckets i s) :=
  (keepsLevels_takeJoinGrants i s).trans (keepsLevels_setClient fun _ => levelsIn_fillBuckets _ _ _)

theorem keepsLevels_attachClient (i : Fin Config.clientCount) (t : Tier) (g : BitVec 3) (p : BitVec 12) (s : State) :
    KeepsLevels s (attachClient i t g p s).1 := by
  have hfresh : (s.freshEntry t g p).LevelsIn := levelsIn_free.of_dirs rfl
  have hstamped : ((s.freshEntry t g p).setStamps s.tb.stamp).LevelsIn := hfresh.mapDirs fun _ hx => hx
  unfold attachClient
  dsimp only
  split
  · exact .refl s
  · split
    · exact .ite (keepsLevels_setClient fun _ => hstamped)
        ((keepsLevels_setClient fun _ => hfresh).trans (keepsLevels_joinWithFullBuckets i _))
    · split <;> exact .refl s

theorem keepsLevels_moveClient (i : Fin Config.clientCount) (g : BitVec 3) (p : BitVec 12) (s : State) :
    KeepsLevels s (moveClient i g p s).1 := by
  unfold moveClient
  dsimp only
  split
  · exact .refl s
  · split
    · exact .refl s
    · split
      · exact .refl s
      · exact keepsLevels_setClient fun h => h.of_dirs rfl

theorem keepsLevels_removeClient (i : Fin Config.clientCount) (y : RemovalReason) (s : State) :
    KeepsLevels s (removeClient i y s) := fun j hj => by
  rw [client_removeClient]
  split
  · exact levelsIn_free
  · exact hj

theorem keepsLevels_detachClient (i : Fin Config.clientCount) (s : State) : KeepsLevels s (detachClient i s).1 := by
  unfold detachClient
  split
  · exact .refl s
  · exact keepsLevels_removeClient i _ s

theorem keepsLevels_becomeIdle (i : Fin Config.clientCount) (s : State) : KeepsLevels s (becomeIdle i s) := by
  have hidle : KeepsLevels s
      ((leaveSharing i s).setClient i { ((leaveSharing i s).client i).zeroEstimates with state := .idle }) :=
    (keepsLevels_leaveSharing i s).trans
      (keepsLevels_setClient fun h => (h.mapDirs (f := fun x => { x with estimate := 0 }) fun _ hx => hx).of_dirs rfl)
  unfold becomeIdle
  exact .ite (hidle.trans (keepsLevels_of_entries (by simp))) hidle

theorem keepsLevels_closeEntry (i : Fin Config.clientCount) (length : Nat) (s : State) :
    KeepsLevels s (closeEntry i length s) := by
  have hclosed : KeepsLevels s (s.setClient i ((s.client i).closed s.mp.cfg length)) :=
    keepsLevels_setClient fun h => h.closed _ _
  exact .ite (.refl s) (.ite (hclosed.trans (keepsLevels_becomeIdle i _)) hclosed)

theorem keepsLevels_stepWalk (w : Walk) (s : State) : KeepsLevels s (stepWalk w s) := by
  have hclosed := keepsLevels_closeEntry w.next w.length s
  unfold stepWalk
  generalize closeEntry w.next w.length s = u at hclosed ⊢
  dsimp only
  split
  · exact hclosed.trans (keepsLevels_of_entries rfl)
  · exact hclosed.trans (keepsLevels_of_entries (by simp))

theorem keepsLevels_wakeClient (i : Fin Config.clientCount) (s : State) : KeepsLevels s (wakeClient i s) := by
  have hwoken : KeepsLevels s (s.setClient i { s.client i with state := .active, idleCount := 0 }) :=
    keepsLevels_setClient fun h => h.of_dirs rfl
  exact .ite hwoken (hwoken.trans (keepsLevels_joinWithFullBuckets i _))

theorem keepsLevels_blockClient (i : Fin Config.clientCount) (s : State) : KeepsLevels s (blockClient i s) :=
  .ite (.refl s) ((keepsLevels_leaveSharing i s).trans (keepsLevels_setClient fun h => h.of_dirs rfl))

theorem keepsLevels_unblockClient (i : Fin Config.clientCount) (s : State) : KeepsLevels s (unblockClient i s) := by
  have hset : KeepsLevels s (s.setClient i { s.client i with blocked := false, idleCount := 0 }) :=
    keepsLevels_setClient fun h => h.of_dirs rfl
  exact .ite (.refl s) (.ite (hset.trans (keepsLevels_takeJoinGrants i _)) hset)

theorem ClientEntry.LevelsIn.zeroEstimates {e : ClientEntry} (h : e.LevelsIn) : e.zeroEstimates.LevelsIn :=
  h.mapDirs fun _ hx => hx

theorem keepsLevels_setClientTier (i : Fin Config.clientCount) (t : Tier) (s : State) :
    KeepsLevels s (setClientTier i t s) := by
  have hset : KeepsLevels s (s.setClient i { (s.client i).zeroEstimates with tier := t }) :=
    keepsLevels_setClient fun h => h.zeroEstimates.of_dirs rfl
  exact .ite (.refl s) (.ite ((keepsLevels_leaveSharing i s).trans
    (keepsLevels_setClient fun h => h.zeroEstimates.of_dirs rfl))
    (.ite (.ite (hset.trans (keepsLevels_takeJoinGrants i _)) hset) (keepsLevels_setClient fun h => h.of_dirs rfl)))

theorem keepsLevels_loadClientAllowance (i : Fin Config.clientCount) (v : Word) (s : State) :
    KeepsLevels s (loadClientAllowance i v s) := keepsLevels_setClient fun h => h.of_dirs rfl

/-! ### METER -/

theorem keepsLevels_refill (d : Dir) (i : Fin Config.clientCount) (s : State) : KeepsLevels s (refill d i s) :=
  keepsLevels_setClient fun h => h.setDir (within_refillDir _ _ _ _)

theorem keepsLevels_returnGrants (keep : Nat) (i : Fin Config.clientCount) (s : State) :
    KeepsLevels s (returnGrant keep .down i (returnGrant keep .up i s)) := fun j hj => by
  rw [client_returnGrants]
  split
  · next hji => subst hji; exact hj.withGrants _ _
  · exact hj

/-- R142: a capped entry's excess bucket is gone with its depth. -/
theorem keepsLevels_capClient (i : Fin Config.clientCount) (s : State) : KeepsLevels s (capClient i s) := by
  have hdropped (u : State) : KeepsLevels u
      (u.setClient i { u.client i with capped := true, dirs := (u.client i).dirs.map ClientDir.dropExcess }) :=
    keepsLevels_setClient fun h => (h.mapDirs (f := ClientDir.dropExcess) fun _ hx => ⟨hx.1, Nat.le_refl 0⟩).of_dirs rfl
  have hoffered (r : Record) (u : State) : KeepsLevels u (raise .clientCapped (offerRecord r u)) :=
    keepsLevels_of_entries (by simp)
  unfold capClient
  exact ((keepsLevels_returnGrants s.mp.cfg.cappedRate.toNat i s).trans (hdropped _)).trans (hoffered _ _)

theorem keepsLevels_countVolume (i : Fin Config.clientCount) (length : Nat) (v : Verdict) (why : Reason) (s : State) :
    KeepsLevels s (countVolume i length v why s) := by
  have hcounted : KeepsLevels s
      (s.setClient i { s.client i with volume := (s.client i).volume + BitVec.ofNat 40 length }) :=
    keepsLevels_setClient fun h => h.of_dirs rfl
  exact .ite (.ite (hcounted.trans (keepsLevels_capClient i _)) hcounted) (.refl s)

theorem keepsLevels_finishMeter (r : Request) (d : Dir) (i : Fin Config.clientCount) (v : Verdict) (why : Reason)
    (grant : Nat) (s : State) : KeepsLevels s (finishMeter r d i v why grant s) := by
  have hdelivered (w : Delivery) (u : State) : KeepsLevels u (deliverVerdict w u) := keepsLevels_of_entries (by simp)
  have hanswered (u : State) : KeepsLevels u (respond r v.outcome why u) := keepsLevels_of_entries rfl
  have hcounted : KeepsLevels s (s.setClient i ((s.client i).countVerdict d r.length v why)) :=
    keepsLevels_setClient fun h => h.countVerdict _ _ _ _
  unfold finishMeter
  exact ((hcounted.trans (keepsLevels_countVolume i _ v why _)).trans (hdelivered _ _)).trans (hanswered _)

theorem keepsLevels_meterShared (r : Request) (d : Dir) (i : Fin Config.clientCount) (s : State) :
    KeepsLevels s (meterShared r d i s) := by
  have hdecided : KeepsLevels (refill d i s) ((refill d i s).setClient i
      (((refill d i s).client i).setDir d (decideDir r.length (((refill d i s).client i).dir d)).2)) :=
    keepsLevels_setClient fun h => h.setDir (within_decideDir _ (h d))
  exact ((keepsLevels_refill d i s).trans hdecided).trans (keepsLevels_finishMeter r d i _ _ _ _)

theorem keepsLevels_meterActive (r : Request) (d : Dir) (i : Fin Config.clientCount) (s : State) :
    KeepsLevels s (meterActive r d i s) :=
  .ite (keepsLevels_finishMeter r d i _ _ _ s)
    (.ite ((keepsLevels_refill d i s).trans (keepsLevels_finishMeter r d i _ _ _ _)) (keepsLevels_meterShared r d i s))

theorem keepsLevels_meterEntry (r : Request) (d : Dir) (i : Fin Config.clientCount) (s : State) :
    KeepsLevels s (meterEntry r d i s) :=
  .ite (keepsLevels_of_entries rfl) (.ite (keepsLevels_finishMeter r d i _ _ _ s)
    (.ite ((keepsLevels_wakeClient i s).trans (keepsLevels_meterActive r d i _)) (keepsLevels_meterActive r d i s)))

/-! ### Expiry, RESTART, publish -/

theorem client_flipWindows (length : Nat) (s : State) (i : Fin Config.clientCount) :
    (flipWindows length s).client i = (s.client i).flip := client_mapEntries _ _ _ _

theorem keepsLevels_takeExpiry (s : State) : KeepsLevels s (takeExpiry s) := by
  have hflipped (u : State) : KeepsLevels u (flipOrAbsorb u) := by
    refine .ite (.refl u) fun i hi => ?_
    rw [client_flipWindows]
    unfold ClientEntry.flip
    split
    · exact hi
    · exact hi.of_dirs rfl
  have hcounted : KeepsLevels s (countExpiry s) := keepsLevels_of_entries rfl
  have haged (u : State) : KeepsLevels u (ageUplink (ageTable u)) := keepsLevels_of_entries (by simp)
  have hline (u : State) : KeepsLevels u (u.setLine u.li.countExpiry) := keepsLevels_of_entries rfl
  unfold takeExpiry
  exact ((hcounted.trans (hflipped _)).trans (haged _)).trans (hline _)

theorem keepsLevels_restartPart (s : State) : KeepsLevels s (restartPart s) := fun i hi => by
  rw [client_restartPart]
  exact hi.mapDirs fun _ hx => hx

theorem keepsLevels_giveGrants (d : Dir) (ms : List (Fin Config.clientCount)) (gs : List (Fin Config.clientCount × Nat))
    (s : State) : KeepsLevels s (giveGrants d ms gs s) := by
  induction gs generalizing s with
  | nil => exact .refl s
  | cons p rest ih => exact (KeepsLevels.ite (keepsLevels_drawGrant d _ _ s) (.refl s)).trans (ih _)

theorem keepsLevels_redrawJoiners (d : Dir) (ms is : List (Fin Config.clientCount)) (s : State) :
    KeepsLevels s (redrawJoiners d ms is s) := by
  induction is generalizing s with
  | nil => exact .refl s
  | cons i rest ih => exact (KeepsLevels.ite (keepsLevels_drawGrant d _ _ s) (.refl s)).trans (ih _)

theorem keepsLevels_publishDir (d : Dir) (n : Snapshot) (s : State) : KeepsLevels s (publishDir d n s) :=
  (KeepsLevels.trans (t := setShare d n.held (passShare s.mp.cfg n (s.shareDir d).held d) s)
    (keepsLevels_of_entries rfl) (keepsLevels_giveGrants d _ _ _)).trans (keepsLevels_redrawJoiners d _ _ _)

theorem keepsLevels_publishPass (n : Snapshot) (s : State) : KeepsLevels s (publishPass n s) := by
  rcases publishPass_cases n s with hsame | ⟨a, ha, hup⟩ | ⟨a, ha, hdown⟩
  · rw [hsame]; exact .refl s
  · have hgiven : KeepsLevels s a := by rw [ha]; exact keepsLevels_publishDir .up n s
    rw [hup]
    exact hgiven.trans (keepsLevels_of_entries rfl)
  · have hgiven : KeepsLevels s a := by rw [ha]; exact keepsLevels_publishDir .down n s
    rw [hdown]
    exact hgiven.trans (keepsLevels_of_entries (by simp))

/-! ### Every command -/

theorem judgeClientCommand_keepsLevels {valid : Bool} {act : Fin Config.clientCount → State → State} {s : State}
    (h : ∀ i, KeepsLevels s (act i s)) : KeepsLevels s (judgeClientCommand valid act s) := by
  have hended (o : CommandOutcome) : KeepsLevels s (endCommand o s) := keepsLevels_of_entries rfl
  unfold judgeClientCommand
  refine .ite (hended _) ?_
  split
  · exact hended _
  · exact .ite (hended _) (.ite (hended _) (h _))

theorem KeepsLevels.ends {s t : State} (o : CommandOutcome) (h : KeepsLevels s t) : KeepsLevels s (endCommand o t) :=
  h.trans (keepsLevels_of_entries rfl)

theorem onClient_keepsLevels {r : Request} {serve : Fin Config.clientCount → State → State} {s : State}
    (h : ∀ i, KeepsLevels (dequeue s) (serve i (dequeue s))) : KeepsLevels s (onClient r serve (dequeue s)) := by
  refine .trans (t := dequeue s) (keepsLevels_of_entries rfl) ?_
  unfold onClient
  split
  · exact keepsLevels_of_entries rfl
  · exact h _

theorem KeepsLevels.answers {r : Request} {s : State} {a : State × RspOutcome × Reason} (h : KeepsLevels s a.1) :
    KeepsLevels s (answerWith r a) := h.trans (keepsLevels_of_entries rfl)

theorem keepsLevels_of_answers {c : Instr} {s t : State} (h : Answers c s t) (hreset : ∀ held, c ≠ .deviceReset held) :
    KeepsLevels s t := by
  by_cases hp : .clients ∈ partsOf c
  · cases c with
    | deviceReset held => exact absurd rfl (hreset held)
    | epochExpiry =>
      obtain rfl := answer_unique rfl h
      exact .ite (keepsLevels_takeExpiry s) (.refl s)
    | restart =>
      obtain rfl := answer_unique rfl h
      exact .ite (.ite ((keepsLevels_restartPart s).ends .done) (keepsLevels_of_entries rfl)) (.refl s)
    | block =>
      obtain rfl := answer_unique rfl h
      exact .ite (judgeClientCommand_keepsLevels fun i => (keepsLevels_blockClient i s).ends .done) (.refl s)
    | unblock =>
      obtain rfl := answer_unique rfl h
      exact .ite (judgeClientCommand_keepsLevels fun i => (keepsLevels_unblockClient i s).ends .done) (.refl s)
    | setTier =>
      obtain rfl := answer_unique rfl h
      refine .ite ?_ (.refl s)
      split
      · exact judgeClientCommand_keepsLevels fun i => (keepsLevels_setClientTier i _ s).ends .done
      · exact judgeClientCommand_keepsLevels fun _ => .refl s
    | setAllowance =>
      obtain rfl := answer_unique rfl h
      exact .ite (judgeClientCommand_keepsLevels fun i =>
        .ite (keepsLevels_of_entries rfl) ((keepsLevels_loadClientAllowance i _ s).ends .done)) (.refl s)
    | evict =>
      obtain rfl := answer_unique rfl h
      exact .ite (judgeClientCommand_keepsLevels fun i => (keepsLevels_removeClient i .evicted s).ends .done) (.refl s)
    | closureStep =>
      obtain rfl := answer_unique rfl h
      split
      · exact keepsLevels_stepWalk _ s
      · exact .refl s
    | publish =>
      obtain rfl := answer_unique rfl h
      split
      · exact keepsLevels_publishPass _ s
      · exact .refl s
    | meter =>
      obtain rfl := answer_unique rfl h
      split
      · split
        · exact onClient_keepsLevels fun i => .ite (keepsLevels_of_entries rfl) (keepsLevels_meterEntry _ _ i _)
        · exact .refl s
      · exact .refl s
    | attach =>
      obtain rfl := answer_unique rfl h
      split
      · split
        · exact onClient_keepsLevels fun i => (keepsLevels_attachClient i _ _ _ _).answers
        · exact .refl s
      · exact .refl s
    | move =>
      obtain rfl := answer_unique rfl h
      split
      · split
        · exact onClient_keepsLevels fun i => (keepsLevels_moveClient i _ _ _).answers
        · exact .refl s
      · exact .refl s
    | detach =>
      obtain rfl := answer_unique rfl h
      split
      · split
        · exact onClient_keepsLevels fun i => (keepsLevels_detachClient i _).answers
        · exact .refl s
      · exact .refl s
    | _ => simp at hp
  · have hct : t.ct = s.ct := kept_of_answers .clients h hp
    exact keepsLevels_of_entries (by rw [hct])

theorem bucketsOk_iff_levelsIn {s : State} : BucketsOk s ↔ ∀ i, (s.client i).LevelsIn := Iff.rfl

theorem bucketsOk_answers {c : Instr} {s t : State} (hs : BucketsOk s) (h : Answers c s t) : BucketsOk t := by
  by_cases hc : ∃ held, c = .deviceReset held
  · obtain ⟨held, rfl⟩ := hc
    refine bucketsOk_iff_levelsIn.2 fun i => ?_
    rw [(atRest_deviceReset h).entries i]
    exact levelsIn_free
  · push Not at hc
    exact bucketsOk_iff_levelsIn.2 fun i => keepsLevels_of_answers h hc i (hs i)

end Sys2Proof.Machine
end

section
/-! ## Proofs: queues and the counts of uplink input and debounce stay in range (R52, R56, R121, R162) -/

namespace Sys2Proof.Machine

/-! ### The pending queue of the log writer -/

theorem takeFrom_queue_length_le (rs : List Record) (s : State) : (takeFrom rs s).lw.queue.length ≤ rs.length := by
  induction rs generalizing s with
  | nil => exact Nat.le_refl 0
  | cons r rest ih =>
    by_cases hfull : s.lw.index = s.mp.cfg.limit
    · rw [takeFrom_full r rest hfull]
      exact (ih _).trans (Nat.le_succ _)
    · rw [takeFrom_room r rest hfull]
      exact Nat.le_succ rest.length

theorem offerRecord_queue_length_le (r : Record) {s : State} (h : s.lw.queue.length ≤ Config.recordDepth) :
    (offerRecord r s).lw.queue.length ≤ Config.recordDepth := by
  have hlength : (s.lw.queue ++ [r]).length = s.lw.queue.length + 1 := by simp
  by_cases hroom : s.lw.queue.length < Config.recordDepth
  · unfold offerRecord writerTake
    rw [if_pos hroom]
    split
    · exact (takeFrom_queue_length_le _ _).trans (hlength.trans_le hroom)
    · exact hlength.trans_le hroom
  · rw [offerRecord_lost r (Nat.le_of_not_lt hroom)]
    exact h

theorem offered_queue_length_le {s t : State} (h : Offered s t) (hs : s.lw.queue.length ≤ Config.recordDepth) :
    t.lw.queue.length ≤ Config.recordDepth := by
  induction h with
  | same hlw => rw [hlw]; exact hs
  | offer r _ hlw _ _ ih => rw [hlw]; exact offerRecord_queue_length_le r ih

theorem releaseRecord_queue_length_le (s : State) : (releaseRecord s).lw.queue.length ≤ s.lw.queue.length := by
  rw [releaseRecord_eq]
  exact takeFrom_queue_length_le _ _

theorem endAccess_queue_length_le (s : State) : (endAccess s).lw.queue.length ≤ s.lw.queue.length := by
  unfold endAccess
  split
  · split
    · unfold recordTimedOut
      dsimp only
      split <;> exact releaseRecord_queue_length_le _
    · split
      · exact Nat.le_refl _
      · unfold recordCompleted
        split
        · exact releaseRecord_queue_length_le _
        · refine (releaseRecord_queue_length_le _).trans ?_
          rw [advanceIndex_lw]
  · have hlw : (Machine.arbitrate { raiseIfTimedOut s with mc := s.mc.endWindow }).lw = s.lw :=
      (raiseIfTimedOut_frame s).2.2.2.2.2.2.2.1
    rw [hlw]

theorem logQueue_length_le_of_answers {c : Instr} {s t : State} (h : Answers c s t)
    (hs : s.lw.queue.length ≤ Config.recordDepth) : t.lw.queue.length ≤ Config.recordDepth := by
  cases logEffect_of_answers h with
  | offered h => exact offered_queue_length_le h hs
  | aside hlw => rw [hlw.queue]; exact hs
  | accessEnds _ h => rw [h]; exact (endAccess_queue_length_le s).trans hs
  | request _ _ _ hlw | turns _ hlw | goesOn _ _ hlw | setIndex _ _ _ hlw | setPending _ _ _ hlw | setThreshold _ _ hlw
    | starts _ _ hlw => rw [hlw]; exact hs
  | reset _ hlw => rw [hlw]; exact Nat.zero_le _

/-! ### The request queue -/

@[simp] theorem finishMeter_queue (r : Request) (d : Dir) (i : Fin Config.clientCount) (v : Verdict) (why : Reason)
    (grant : Nat) (s : State) : (finishMeter r d i v why grant s).me.queue = s.me.queue := by
  simp [finishMeter]

@[simp] theorem meterEntry_queue (r : Request) (d : Dir) (i : Fin Config.clientCount) (s : State) :
    (meterEntry r d i s).me.queue = s.me.queue := by
  unfold meterEntry meterActive meterShared
  dsimp only
  repeat' split
  all_goals simp [refill]

theorem onClient_queue {r : Request} {serve : Fin Config.clientCount → State → State} {s : State}
    (h : ∀ i, (serve i (dequeue s)).me.queue = s.me.queue.tail) :
    (onClient r serve (dequeue s)).me.queue = s.me.queue.tail := by
  unfold onClient
  split
  · rfl
  · exact h _

theorem completeRecord_queue_length_le (bytes : List Byte) {s : State} (hs : s.me.queue.length ≤ Config.requestDepth) :
    (completeRecord bytes s).me.queue.length ≤ Config.requestDepth := by
  have hrefused (o : RspOutcome) (r : Request) : (refuseRequest o r s).me.queue = s.me.queue := by
    unfold refuseRequest
    split <;> rfl
  unfold completeRecord
  split
  · split
    · next r _ =>
      unfold presentRequest
      split
      · rw [hrefused]; exact hs
      · split
        · next hroom =>
          have hlength : (s.me.queue ++ [r]).length = s.me.queue.length + 1 := by simp
          exact hlength.trans_le hroom
        · rw [hrefused]; exact hs
    · exact hs
  · exact hs

theorem requestQueue_length_le_of_answers {c : Instr} {s t : State} (h : Answers c s t)
    (hs : s.me.queue.length ≤ Config.requestDepth) : t.me.queue.length ≤ Config.requestDepth := by
  have htail : s.me.queue.tail.length ≤ Config.requestDepth := by
    rw [List.length_tail]
    exact (Nat.sub_le _ _).trans hs
  by_cases hp : .meter ∈ partsOf c
  · cases c with
    | deviceReset held => rw [← answer_unique rfl h]; exact Nat.zero_le _
    | start b =>
      obtain rfl := answer_unique rfl h
      split
      · unfold takeStart
        split
        · exact hs
        · split
          · exact hs
          · exact Nat.zero_le _
      · exact hs
    | requestPresented tag code client argument =>
      obtain rfl := answer_unique rfl h
      rcases outOfReset_cases s (completeRecord [tag, code, client.1, client.2, argument.1, argument.2] s) with ho | ho
      · rw [ho]; exact hs
      · rw [ho]; exact completeRecord_queue_length_le _ hs
    | recordStartStrobe b more =>
      obtain rfl := answer_unique rfl h
      rcases outOfReset_cases s (startRecord b more s) with ho | ho <;> rw [ho] <;> exact hs
    | refusalSent =>
      obtain rfl := answer_unique rfl h
      split <;> exact hs
    | unknownRequest =>
      obtain rfl := answer_unique rfl h
      split
      · split
        · exact htail
        · exact hs
      · exact hs
    | meter =>
      obtain rfl := answer_unique rfl h
      split
      · split
        · unfold serveMeter
          rw [onClient_queue fun i => ?_]
          · exact htail
          · split
            · rfl
            · exact meterEntry_queue _ _ i _
        · exact hs
      · exact hs
    | attach =>
      obtain rfl := answer_unique rfl h
      split
      · split
        · unfold serveAttach
          rw [onClient_queue fun i => by simp [answerWith, respond, dequeue, State.setMe]]
          exact htail
        · exact hs
      · exact hs
    | move =>
      obtain rfl := answer_unique rfl h
      split
      · split
        · unfold serveMove
          rw [onClient_queue fun i => by simp [answerWith, respond, dequeue, State.setMe]]
          exact htail
        · exact hs
      · exact hs
    | detach =>
      obtain rfl := answer_unique rfl h
      split
      · split
        · unfold serveDetach
          rw [onClient_queue fun i => by simp [answerWith, respond, dequeue, State.setMe]]
          exact htail
        · exact hs
      · exact hs
    | _ => simp at hp
  · have hme : t.me = s.me := kept_of_answers .meter h hp
    rw [hme]
    exact hs

/-! ### Operations on the slots of the peer table -/

/-- The peer table is as it was, but for its slots. -/
def SlotsOnly (s t : State) : Prop := t.pt = { s.pt with slots := t.pt.slots }

theorem SlotsOnly.refl (s : State) : SlotsOnly s s := rfl

theorem SlotsOnly.trans {s t u : State} (h : SlotsOnly s t) (k : SlotsOnly t u) : SlotsOnly s u := by
  unfold SlotsOnly at h k ⊢
  rw [k, h]

theorem SlotsOnly.ite {p : Prop} [Decidable p] {s t u : State} (h : SlotsOnly s t) (k : SlotsOnly s u) :
    SlotsOnly s (if p then t else u) := by
  split
  · exact h
  · exact k

theorem SlotsOnly.of_eq {s t : State} (h : t.pt = s.pt) : SlotsOnly s t := by
  unfold SlotsOnly
  rw [h]

theorem slotsOnly_setSlot (k : Fin Config.peerSlots) (e : Option PeerEntry) (s : State) : SlotsOnly s (s.setSlot k e) := rfl

@[simp] theorem viewChange_pt (station : Word) (set : BitVec 4) (c : ViewChange) (s : State) :
    (viewChange station set c s).pt = s.pt := by
  unfold viewChange
  dsimp only
  split <;> simp

theorem slotsOnly_viewChange (station : Word) (set : BitVec 4) (c : ViewChange) (s : State) :
    SlotsOnly s (viewChange station set c s) := .of_eq (viewChange_pt _ _ _ _)

theorem slotsOnly_removePeer (k : Fin Config.peerSlots) (c : ViewChange) (s : State) : SlotsOnly s (removePeer k c s) := by
  unfold removePeer
  split
  · exact .refl s
  · exact .ite ((slotsOnly_setSlot k none s).trans (slotsOnly_viewChange _ _ _ _)) (slotsOnly_setSlot k none s)

theorem slotsOnly_storePeer (k : Fin Config.peerSlots) (n : Notice) (s : State) : SlotsOnly s (storePeer k n s) :=
  .ite ((slotsOnly_setSlot k _ s).trans (slotsOnly_viewChange _ _ _ _)) (slotsOnly_setSlot k _ s)

theorem slotsOnly_updatePeer (k : Fin Config.peerSlots) (e : PeerEntry) (n : Notice) (s : State) :
    SlotsOnly s (updatePeer k e n s) :=
  .ite ((slotsOnly_setSlot k _ s).trans (slotsOnly_viewChange _ _ _ _))
    (.ite ((slotsOnly_setSlot k _ s).trans (slotsOnly_viewChange _ _ _ _)) (slotsOnly_setSlot k _ s))

theorem slotsOnly_newPeer (n : Notice) (s : State) : SlotsOnly s (newPeer n s) := by
  unfold newPeer
  split
  · exact slotsOnly_storePeer _ n s
  · split
    · exact (slotsOnly_removePeer _ _ s).trans (slotsOnly_storePeer _ n _)
    · exact .of_eq rfl

theorem slotsOnly_takeNotice (n : Notice) (s : State) : SlotsOnly s (takeNotice n s) := by
  unfold takeNotice
  split
  · refine .ite (slotsOnly_removePeer _ _ s) ?_
    split
    · exact .ite (slotsOnly_setSlot _ _ s) (slotsOnly_updatePeer _ _ n s)
    · exact .refl s
  · exact .ite (.refl s) (slotsOnly_newPeer n s)

theorem slotsOnly_agePeer (k : Fin Config.peerSlots) (s : State) : SlotsOnly s (agePeer k s) := by
  unfold agePeer
  split
  · exact .refl s
  · exact .ite (slotsOnly_removePeer k _ s) (.ite (slotsOnly_removePeer k _ s) (slotsOnly_setSlot k _ s))

theorem slotsOnly_agePeers (ks : List (Fin Config.peerSlots)) (s : State) : SlotsOnly s (agePeers ks s) := by
  induction ks generalizing s with
  | nil => exact .refl s
  | cons k rest ih => exact (slotsOnly_agePeer k s).trans (ih _)

theorem slotsOnly_ageTable (s : State) : SlotsOnly s (ageTable s) := .ite (.refl s) (slotsOnly_agePeers _ s)

@[simp] theorem idConflict_pt (s : State) : (idConflict s).pt = s.pt := rfl

theorem slotsOnly_deliverNotice (n : Notice) (s : State) : SlotsOnly s (deliverNotice n s) :=
  .ite (.of_eq (idConflict_pt s)) (slotsOnly_takeNotice _ s)

theorem slotsOnly_judgeReceived (check : Byte) (s : State) : SlotsOnly s (judgeReceived check s) := by
  unfold judgeReceived
  dsimp only
  split
  · exact slotsOnly_deliverNotice _ _
  · exact .refl s

/-! ### The counts of uplink input and debounce -/

theorem inputsOk_of_eq {s t : State} (hs : InputsOk s) (hcount : t.pt.staleCount = s.pt.staleCount)
    (hstale : t.pt.stale = s.pt.stale) (hsettle : t.pt.settle = s.pt.settle) : InputsOk t := by
  unfold InputsOk
  rw [hcount, hstale, hsettle]
  exact hs

theorem SlotsOnly.inputsOk {s t : State} (h : SlotsOnly s t) (hs : InputsOk s) : InputsOk t :=
  inputsOk_of_eq hs (by rw [h]) (by rw [h]) (by rw [h])

theorem inputsOk_zeroStale {t : State} (hcount : t.pt.staleCount = 0) (hstale : t.pt.stale = false)
    (hsettle : t.pt.settle ≤ 10) : InputsOk t := by simp [InputsOk, hcount, hstale, hsettle]

theorem inputsOk_ageUplink {s : State} (hs : InputsOk s) : InputsOk (ageUplink s) := by
  obtain ⟨hcount, hstale, hsettle⟩ := hs
  unfold ageUplink
  split
  · next hages =>
    dsimp only
    split
    · next hfull => exact ⟨by simp [hfull], by simp [hfull], hsettle⟩
    · next hroom =>
      have hfresh : s.pt.stale = false := by
        rw [← Bool.not_eq_true, hstale]
        omega
      exact ⟨hages.2, by simp [hfresh, hroom], hsettle⟩
  · exact ⟨hcount, hstale, hsettle⟩

theorem flipOrAbsorb_pt (s : State) : (flipOrAbsorb s).pt = s.pt := by simp

theorem inputsOk_takeExpiry {s : State} (hs : InputsOk s) : InputsOk (takeExpiry s) := by
  have hflipped : SlotsOnly s (flipOrAbsorb (countExpiry s)) := .of_eq (flipOrAbsorb_pt _)
  have haged : InputsOk (ageUplink (ageTable (flipOrAbsorb (countExpiry s)))) :=
    inputsOk_ageUplink ((hflipped.trans (slotsOnly_ageTable _)).inputsOk hs)
  exact inputsOk_of_eq haged rfl rfl rfl

theorem inputsOk_takeEdge {s : State} (hs : InputsOk s) : InputsOk (takeEdge s) := by
  unfold takeEdge
  split <;> exact inputsOk_of_eq hs rfl rfl rfl

theorem inputsOk_applyPendingEdge {s : State} (hs : InputsOk s) : InputsOk (applyPendingEdge s) := by
  unfold applyPendingEdge
  split
  · exact inputsOk_of_eq hs rfl rfl rfl
  · exact hs

theorem inputsOk_restoreStation {s : State} (hs : InputsOk s) : InputsOk (restoreStation s) := by
  have hline (l : LineInterface) : InputsOk (s.setLine l) := hs
  exact inputsOk_of_eq (inputsOk_applyPendingEdge (hline _)) rfl rfl rfl

theorem inputsOk_writeUplink {s : State} (d : Dir) (v : Word) (hs : InputsOk s) : InputsOk (writeUplink d v s) := by
  unfold writeUplink
  split
  · exact inputsOk_zeroStale rfl rfl hs.2.2
  · exact hs

/-- A tick comes with no edge due, so that the settle count has room for one more. -/
theorem settle_ne_of_tickDue {s : State} (h : s.tickDue = false) : s.pt.settle ≠ 10 := fun hdue => by
  simp [State.tickDue, hdue] at h

theorem inputsOk_writeWord {s : State} (a : BitVec 7) (v : Word) (hs : InputsOk s) : InputsOk (writeWord a v s) := by
  have h := writeWord_cases a v s
  have hp (ps : List Part) {t : State} (hacts : ActsOn ps s t) (hno : .peers ∉ ps := by simp) : InputsOk t := by
    have hpt : t.pt = s.pt := hacts .peers hno
    exact inputsOk_of_eq hs (by rw [hpt]) (by rw [hpt]) (by rw [hpt])
  generalize writeWord a v s = t at h ⊢
  cases h with
  | config => exact hp _ (writeConfig_acts a v s)
  | uplink d => exact inputsOk_writeUplink d v hs
  | code => exact hp _ (writeCommandCode_acts v s)
  | flags => exact hp _ (clearFlags_acts v s)
  | logIndex => exact hp _ (writeLogIndexLow_acts v s)
  | threshold => exact hp _ (writeThresholdLow_acts v s)
  | indexHolding | thresholdHolding | lostCount => exact hs
  | memAddrLow => exact hp _ (writeMemAddrLow_acts v s)
  | memAddrHigh => exact hp _ (writeMemAddrHigh_acts v s)
  | memData => exact hp _ (writeMemData_acts v s)
  | other h => exact hp _ h

theorem inputsOk_judgeLine {s u : State} (hs : InputsOk s) (h : u.pt = s.pt) (check : Byte) :
    InputsOk (judgeReceived check u) :=
  (slotsOnly_judgeReceived check u).inputsOk (inputsOk_of_eq hs (by rw [h]) (by rw [h]) (by rw [h]))

theorem inputsOk_answers {c : Instr} {s t : State} (hs : InputsOk s) (h : Answers c s t) : InputsOk t := by
  by_cases hp : .peers ∈ partsOf c
  · cases c with
    | deviceReset held =>
      rw [← answer_unique rfl h]
      exact inputsOk_zeroStale rfl rfl (Nat.zero_le _)
    | millisecondTick composition line =>
      obtain rfl := answer_unique rfl h
      split
      · next hticks =>
        have hroom := settle_ne_of_tickDue hticks.2
        obtain ⟨hcount, hstale, hsettle⟩ := hs
        refine ⟨hcount, hstale, ?_⟩
        simp only [PeerTable.debounce]
        split
        · exact Nat.zero_le _
        · omega
      · exact hs
    | epochExpiry =>
      obtain rfl := answer_unique rfl h
      split
      · exact inputsOk_takeExpiry hs
      · exact hs
    | start b =>
      obtain rfl := answer_unique rfl h
      split
      · unfold takeStart
        split
        · exact hs
        · split
          · exact hs
          · exact inputsOk_zeroStale rfl rfl (Nat.zero_le _)
      · exact hs
    | restart =>
      obtain rfl := answer_unique rfl h
      split
      · split <;> exact inputsOk_of_eq hs rfl rfl rfl
      · exact hs
    | compositionEdge =>
      obtain rfl := answer_unique rfl h
      split
      · exact inputsOk_takeEdge ⟨hs.1, hs.2.1, Nat.zero_le _⟩
      · exact hs
    | uplinkWrite d v =>
      obtain rfl := answer_unique rfl h
      rcases outOfReset_cases s (writeUplink d v s) with ho | ho <;> rw [ho]
      · exact hs
      · exact inputsOk_writeUplink d v hs
    | registerWrite a v =>
      obtain rfl := answer_unique rfl h
      rcases outOfReset_cases s (writeWord a v s) with ho | ho <;> rw [ho]
      · exact hs
      · exact inputsOk_writeWord a v hs
    | frameReceived check line =>
      obtain rfl := answer_unique rfl h
      unfold receiveCheck
      split
      · split
        · exact inputsOk_judgeLine (u := s.passLevels line) hs rfl check
        · exact hs
      · exact hs
    | lineByteReceived b line =>
      obtain rfl := answer_unique rfl h
      unfold receiveByte
      split
      · split
        · exact inputsOk_judgeLine (u := s.passLevels line) hs rfl b
        · exact hs
      · exact hs
    | lineRestoration =>
      obtain rfl := answer_unique rfl h
      split
      · exact inputsOk_restoreStation hs
      · exact hs
    | _ => simp at hp
  · have hpt : t.pt = s.pt := kept_of_answers .peers h hp
    exact inputsOk_of_eq hs (by rw [hpt]) (by rw [hpt]) (by rw [hpt])

/-! ### O7 -/

/-- Settles O7: no command takes a level over its depth, a queue over its room, or a count out of its range. -/
theorem levelsQueuesAndCountsStayInRange : Obligations.LevelsQueuesAndCountsStayInRange :=
  ⟨kept_of_answers_keep (fun _ _ hs => hs) fun _ _ _ => bucketsOk_answers,
    kept_of_answers_keep (fun _ _ hs => hs) fun _ _ _ hs h =>
      ⟨requestQueue_length_le_of_answers h hs.1, logQueue_length_le_of_answers h hs.2⟩,
    kept_of_answers_keep (fun _ _ hs => hs) fun _ _ _ => inputsOk_answers,
    kept_of_answers_keep (fun _ _ hs => hs) fun _ _ _ => monitorOk_answers⟩

end Sys2Proof.Machine
end

section
/-! ## Proofs: what stands in the peer table (R41) -/

namespace Sys2Proof.Machine

/-- What the peer table tells of a station: its id and figures, and whether it is a gateway. -/
def PeerEntry.SameStation (e f : PeerEntry) : Prop :=
  f.station = e.station ∧ f.gateway = e.gateway ∧ f.figures = e.figures

theorem PeerEntry.SameStation.refl (e : PeerEntry) : e.SameStation e := ⟨rfl, rfl, rfl⟩

theorem PeerEntry.SameStation.trans {e f g : PeerEntry} (h : e.SameStation f) (k : f.SameStation g) :
    e.SameStation g := ⟨k.1.trans h.1, k.2.1.trans h.2.1, k.2.2.trans h.2.2⟩

/-- Every entry stands in the slot where it stood, though its silence count or markers may have changed; entries may have
gone. -/
structure PeersStay (s t : State) : Prop where
  cfg : t.mp.cfg = s.mp.cfg
  slot : ∀ k f, t.slot k = some f → ∃ e, s.slot k = some e ∧ e.SameStation f

theorem PeersStay.refl (s : State) : PeersStay s s := ⟨rfl, fun _ f hf => ⟨f, hf, .refl f⟩⟩

theorem PeersStay.trans {s t u : State} (h : PeersStay s t) (k : PeersStay t u) : PeersStay s u where
  cfg := k.cfg.trans h.cfg
  slot j g hg := by
    obtain ⟨f, hf, hfg⟩ := k.slot j g hg
    obtain ⟨e, he, hef⟩ := h.slot j f hf
    exact ⟨e, he, hef.trans hfg⟩

theorem PeersStay.ite {p : Prop} [Decidable p] {s t u : State} (h : PeersStay s t) (k : PeersStay s u) :
    PeersStay s (if p then t else u) := by
  split
  · exact h
  · exact k

theorem peersStay_of_slots {s t : State} (hcfg : t.mp.cfg = s.mp.cfg) (h : ∀ k, t.slot k = s.slot k) : PeersStay s t :=
  ⟨hcfg, fun k f hf => ⟨f, by rw [← h k]; exact hf, .refl f⟩⟩

theorem PeersStay.peersOk {s t : State} (h : PeersStay s t) (hs : PeersOk s) : PeersOk t where
  entries k f hf := by
    obtain ⟨e, he, hstation, hgateway, hfigures⟩ := h.slot k f hf
    obtain ⟨hown, hweight, huplink⟩ := hs.entries k e he
    refine ⟨?_, ?_, ?_⟩
    · rw [h.cfg, hstation]; exact hown
    · rw [hfigures]; exact hweight
    · rw [hgateway, hfigures]; exact huplink
  distinct j k f g hf hg hfg := by
    obtain ⟨e, he, hef⟩ := h.slot j f hf
    obtain ⟨e', he', hef'⟩ := h.slot k g hg
    exact hs.distinct j k e e' he he' (hef.1.symm.trans (hfg.trans hef'.1))

theorem peersStay_removePeer (k : Fin Config.peerSlots) (c : ViewChange) (s : State) : PeersStay s (removePeer k c s) where
  cfg := by simp
  slot j f hf := by
    rw [slot_removePeer] at hf
    split at hf
    · exact nomatch hf
    · exact ⟨f, hf, .refl f⟩

theorem peersStay_setSlot {k : Fin Config.peerSlots} {e f : PeerEntry} {s : State} (hk : s.slot k = some e)
    (h : e.SameStation f) : PeersStay s (s.setSlot k (some f)) where
  cfg := rfl
  slot j g hg := by
    rw [slot_setSlot] at hg
    split at hg
    · next hj =>
      obtain rfl := Option.some.inj hg
      exact ⟨e, by rw [hj]; exact hk, h⟩
    · exact ⟨g, hg, .refl g⟩

theorem peersStay_agePeer (k : Fin Config.peerSlots) (s : State) : PeersStay s (agePeer k s) := by
  unfold agePeer
  split
  · exact .refl s
  · next e hk =>
    exact .ite (peersStay_removePeer k _ s)
      (.ite (peersStay_removePeer k _ s) (peersStay_setSlot hk ⟨rfl, rfl, rfl⟩))

theorem peersStay_agePeers (ks : List (Fin Config.peerSlots)) (s : State) : PeersStay s (agePeers ks s) := by
  induction ks generalizing s with
  | nil => exact .refl s
  | cons k rest ih => exact (peersStay_agePeer k s).trans (ih _)

theorem peersStay_markAllPeers (s : State) : PeersStay s (markAllPeers s) where
  cfg := rfl
  slot k f hf := by
    rw [slot_markAllPeers] at hf
    obtain ⟨e, he, rfl⟩ := Option.map_eq_some_iff.1 hf
    exact ⟨e, he, rfl, rfl, rfl⟩

theorem peersStay_of_pt {s t : State} (hcfg : t.mp.cfg = s.mp.cfg) (h : t.pt.slots = s.pt.slots) : PeersStay s t :=
  peersStay_of_slots hcfg fun k => by rw [State.slot, h]; rfl

theorem peersStay_takeExpiry (s : State) : PeersStay s (takeExpiry s) := by
  have hflipped : PeersStay s (flipOrAbsorb (countExpiry s)) :=
    peersStay_of_slots (by simp) fun k => by simp
  have haged (u : State) : PeersStay u (ageTable u) := .ite (.refl u) (peersStay_agePeers _ u)
  have huplink (u : State) : PeersStay u (ageUplink u) := by
    unfold ageUplink
    split
    · dsimp only
      split <;> exact peersStay_of_pt rfl rfl
    · exact .refl u
  have hline (u : State) : PeersStay u (u.setLine u.li.countExpiry) := peersStay_of_slots rfl fun _ => rfl
  exact ((hflipped.trans (haged _)).trans (huplink _)).trans (hline _)

theorem peersStay_takeEdge (s : State) : PeersStay s (takeEdge s) :=
  .ite (peersStay_of_pt rfl rfl) (peersStay_markAllPeers s)

theorem peersStay_restoreStation (s : State) : PeersStay s (restoreStation s) := by
  have hline (l : LineInterface) : PeersStay s (s.setLine l) := peersStay_of_pt rfl rfl
  have hedge (u : State) : PeersStay u (applyPendingEdge u) :=
    .ite (.trans (t := { u with pt := { u.pt with pendingEdge := false } }) (peersStay_of_pt rfl rfl)
      (peersStay_markAllPeers _)) (.refl u)
  exact ((hline _).trans (hedge _)).trans (peersStay_of_pt rfl rfl)

theorem peersStay_restartPart (s : State) : PeersStay s (restartPart s) where
  cfg := rfl
  slot k f hf := by
    have hempty : (restartPart s).slot k = none := slot_emptyPeers _ k
    rw [hempty] at hf
    exact nomatch hf

/-! ### A notice -/

theorem peerOk_entryOf {n : Notice} {s t : State} (hcfg : t.mp.cfg = s.mp.cfg) (h : n.station ≠ s.mp.cfg.stationId) (c : ConfigWords) :
    PeerOk t (c.entryOf n.clamp) := by
  have hstation : n.clamp.station = n.station := by unfold Notice.clamp; dsimp only; split <;> rfl
  have hgateway : n.clamp.gateway = n.gateway := by unfold Notice.clamp; dsimp only; split <;> rfl
  refine ⟨?_, fun d => ?_, fun hno d => ?_⟩
  · show n.clamp.station ≠ _
    rw [hcfg, hstation]
    exact h
  · show (n.clamp.figures.get d).weight = 0 ↔ (n.clamp.figures.get d).demand = 0
    rw [Notice.figures_clamp_get]
    exact Figures.clamp_weight_eq_zero_iff _
  · show (n.clamp.figures.get d).uplink = 0
    have hno' : n.gateway = false := hgateway.symm.trans hno
    rw [Notice.figures_clamp_get, hno']
    rfl

/-- A good entry of a station that no other slot holds may take a slot. -/
theorem peersOk_put {s t : State} {k : Fin Config.peerSlots} {f : PeerEntry} (hs : PeersOk s) (hcfg : t.mp.cfg = s.mp.cfg)
    (hslot : ∀ j, t.slot j = if j = k then some f else s.slot j) (hf : PeerOk t f)
    (hother : ∀ j e, j ≠ k → s.slot j = some e → e.station ≠ f.station) : PeersOk t where
  entries j e he := by
    rw [hslot] at he
    split at he
    · rw [← Option.some.inj he]; exact hf
    · have hold := hs.entries j e he
      unfold PeerOk at hold ⊢
      rw [hcfg]
      exact hold
  distinct i j e g he hg heg := by
    rw [hslot] at he hg
    split at he <;> split at hg
    · next hi hj => rw [hi, hj]
    · next hi hj =>
      obtain rfl := Option.some.inj he
      exact absurd heg.symm (hother j g hj hg)
    · next hi hj =>
      obtain rfl := Option.some.inj hg
      exact absurd heg (hother i e hi he)
    · exact hs.distinct i j e g he hg heg

theorem peersOk_storePeer {n : Notice} {s : State} (k : Fin Config.peerSlots) (hs : PeersOk s)
    (hown : n.station ≠ s.mp.cfg.stationId) (hnew : ∀ j e, s.slot j = some e → e.station ≠ n.clamp.station) :
    PeersOk (storePeer k n.clamp s) :=
  peersOk_put hs (by simp) (fun j => slot_storePeer s k j _) (peerOk_entryOf (by simp) hown _)
    fun j e _ he => hnew j e he

theorem peersOk_updatePeer {n : Notice} {s : State} {k : Fin Config.peerSlots} {e : PeerEntry} (hs : PeersOk s)
    (hown : n.station ≠ s.mp.cfg.stationId) (hk : s.slot k = some e) (hsame : e.station = n.clamp.station) :
    PeersOk (updatePeer k e n.clamp s) :=
  peersOk_put hs (by simp) (fun j => slot_updatePeer s k j e _) (peerOk_entryOf (by simp) hown _)
    fun j f hj hf hstation => hj (hs.distinct j k f e hf hk (hstation.trans hsame.symm))

theorem peersOk_newPeer {n : Notice} {s : State} (hs : PeersOk s) (hown : n.station ≠ s.mp.cfg.stationId)
    (hnew : ∀ j e, s.slot j = some e → e.station ≠ n.clamp.station) : PeersOk (newPeer n.clamp s) := by
  unfold newPeer
  split
  · exact peersOk_storePeer _ hs hown hnew
  · split
    · next k _ =>
      have hstay := peersStay_removePeer k .replaced s
      refine peersOk_storePeer k (hstay.peersOk hs) (by simpa using hown) fun j f hf hstation => ?_
      obtain ⟨e, he, hef⟩ := hstay.slot j f hf
      exact hnew j e he (hef.1.symm.trans hstation)
    · exact (peersStay_of_pt (s := s) (t := raise .peerTableFull s) rfl rfl).peersOk hs

theorem peersOk_takeNotice {n : Notice} {s : State} (hs : PeersOk s) (hown : n.station ≠ s.mp.cfg.stationId) :
    PeersOk (takeNotice n.clamp s) := by
  unfold takeNotice
  split
  · next k hk =>
    obtain ⟨e, he, hstation⟩ := findPeer_some hk
    rw [he]
    dsimp only
    split
    · exact (peersStay_removePeer k _ s).peersOk hs
    · split
      · exact (peersStay_setSlot (f := { e with silence := 0, purge := false }) he ⟨rfl, rfl, rfl⟩).peersOk hs
      · exact peersOk_updatePeer hs hown he hstation
  · next hnone =>
    split
    · exact hs
    · exact peersOk_newPeer hs hown (findPeer_none.1 hnone)

theorem peersOk_judgeReceived {s : State} (hs : PeersOk s) (check : Byte) : PeersOk (judgeReceived check s) := by
  unfold judgeReceived
  dsimp only
  have hline (l : LineInterface) : PeersOk (s.setLine l) := (peersStay_of_pt (s := s) (t := s.setLine l) rfl rfl).peersOk hs
  split
  · next n _ =>
    unfold deliverNotice
    split
    · exact (peersStay_of_pt (s := s.setLine s.li.waitIdle) (by simp) (by simp)).peersOk (hline _)
    · next hown => exact peersOk_takeNotice (hline _) hown
  · exact hline _

/-! ### Every command -/

/-- A command that acts on neither slots nor configuration keeps the peer table. -/
theorem peersOk_of_slots {s t : State} (hcfg : t.mp.cfg = s.mp.cfg) (h : t.pt.slots = s.pt.slots) (hs : PeersOk s) :
    PeersOk t := (peersStay_of_pt hcfg h).peersOk hs

theorem slots_takeStart (b : Bool) (s : State) : (takeStart b s).pt.slots = s.pt.slots := by
  unfold takeStart
  split
  · rfl
  · split <;> rfl

theorem slots_writeUplink (d : Dir) (v : Word) (s : State) : (writeUplink d v s).pt.slots = s.pt.slots := by
  unfold writeUplink
  split <;> rfl

theorem slots_writeWord (a : BitVec 7) (v : Word) (s : State) : (writeWord a v s).pt.slots = s.pt.slots := by
  have h := writeWord_cases a v s
  have hp {ps : List Part} {t : State} (hacts : ActsOn ps s t) (hno : .peers ∉ ps := by simp) :
      t.pt.slots = s.pt.slots := by
    have hpt : t.pt = s.pt := hacts .peers hno
    rw [hpt]
  generalize writeWord a v s = t at h ⊢
  cases h with
  | config => exact hp (writeConfig_acts a v s)
  | uplink d => exact slots_writeUplink d v s
  | code => exact hp (writeCommandCode_acts v s)
  | flags => exact hp (clearFlags_acts v s)
  | logIndex => exact hp (writeLogIndexLow_acts v s)
  | threshold => exact hp (writeThresholdLow_acts v s)
  | indexHolding | thresholdHolding | lostCount => rfl
  | memAddrLow => exact hp (writeMemAddrLow_acts v s)
  | memAddrHigh => exact hp (writeMemAddrHigh_acts v s)
  | memData => exact hp (writeMemData_acts v s)
  | other h => exact hp h

theorem outOfReset_slots {s t : State} (h : t.pt.slots = s.pt.slots) : (outOfReset s t).pt.slots = s.pt.slots := by
  rcases outOfReset_cases s t with ho | ho <;> rw [ho]
  exact h

theorem peersOk_answers_of_started {c : Instr} {s t : State} (hs : PeersOk s) (hstarted : s.started = true)
    (hreset : ∀ held, c ≠ .deviceReset held) (h : Answers c s t) : PeersOk t := by
  have hcfg := cfg_of_answers_of_started h hstarted hreset
  by_cases hp : .peers ∈ partsOf c
  · cases c with
    | deviceReset held => exact absurd rfl (hreset held)
    | epochExpiry =>
      obtain rfl := answer_unique rfl h
      split
      · exact (peersStay_takeExpiry s).peersOk hs
      · exact hs
    | restart =>
      obtain rfl := answer_unique rfl h
      split
      · exact peersOk_of_slots (s := restartPart s) rfl rfl ((peersStay_restartPart s).peersOk hs)
      · exact hs
    | compositionEdge =>
      obtain rfl := answer_unique rfl h
      split
      · exact (peersStay_takeEdge _).peersOk (peersOk_of_slots (s := s) rfl rfl hs)
      · exact hs
    | lineRestoration =>
      obtain rfl := answer_unique rfl h
      split
      · exact (peersStay_restoreStation s).peersOk hs
      · exact hs
    | frameReceived check line =>
      obtain rfl := answer_unique rfl h
      have hpassed : PeersOk (s.passLevels line) := peersOk_of_slots (s := s) rfl rfl hs
      rw [if_pos hstarted]
      unfold receiveCheck
      split
      · exact peersOk_judgeReceived hpassed check
      · exact hpassed
    | lineByteReceived b line =>
      obtain rfl := answer_unique rfl h
      have hpassed : PeersOk (s.passLevels line) := peersOk_of_slots (s := s) rfl rfl hs
      rw [if_pos hstarted]
      unfold receiveByte
      split
      · exact peersOk_judgeReceived hpassed b
      · exact peersOk_of_slots (s := s.passLevels line) rfl rfl hpassed
    | millisecondTick composition line =>
      refine peersOk_of_slots hcfg ?_ hs
      obtain rfl := answer_unique rfl h
      split <;> rfl
    | start b =>
      refine peersOk_of_slots hcfg ?_ hs
      obtain rfl := answer_unique rfl h
      split
      · exact slots_takeStart b s
      · rfl
    | uplinkWrite d v =>
      refine peersOk_of_slots hcfg ?_ hs
      obtain rfl := answer_unique rfl h
      exact outOfReset_slots (slots_writeUplink d v s)
    | registerWrite a v =>
      refine peersOk_of_slots hcfg ?_ hs
      obtain rfl := answer_unique rfl h
      exact outOfReset_slots (slots_writeWord a v s)
    | _ => simp at hp
  · have hpt : t.pt = s.pt := kept_of_answers .peers h hp
    exact peersOk_of_slots hcfg (by rw [hpt]) hs

theorem peersOk_of_empty {s : State} (h : ∀ k, s.slot k = none) : PeersOk s where
  entries k e he := by rw [h k] at he; exact nomatch he
  distinct j k e f he := by rw [h j] at he; exact nomatch he

theorem peersOk_answers {c : Instr} {s t : State} (hpart : PartOk s) (hs : PeersOk s) (h : Answers c s t) : PeersOk t := by
  rcases ht : t.started with _ | _
  · exact peersOk_of_empty ((partOk_answers hpart h).rest ht).slots
  · rcases hstarted : s.started with _ | _
    · obtain ⟨b, rfl⟩ := isStart_of_started hpart hstarted ht h
      refine peersOk_of_empty fun k => ?_
      have hslots : t.pt.slots = s.pt.slots := by
        obtain rfl := answer_unique rfl h
        split
        · exact slots_takeStart b s
        · rfl
      rw [State.slot, hslots]
      exact (hpart.rest hstarted).slots k
    · refine peersOk_answers_of_started hs hstarted ?_ h
      rintro held rfl
      obtain rfl := answer_unique rfl h
      cases ht

/-- Settles O8: before and at START the table is empty; from then on entries stay, go, or come from notices that are clamped
and carry another station's id. -/
theorem peerTableIsKept : Obligations.PeerTableIsKept := fun s t hpart hs h =>
  step_keeps (pre := PartOk) partOk_pending (fun s _ hs => peersOk_of_slots (s := s) rfl rfl hs)
    (fun _ _ _ hpre hs h => peersOk_answers hpre hs h) s t hpart hs h

end Sys2Proof.Machine
end

section
/-! ## Proofs: the step, device reset, and the invariants at reset (R193) -/

namespace Sys2Proof.Machine

/-! ### How a guarded command answers -/

theorem answers_if {c : Instr} {s t u v : State} {p : Prop} [Decidable p] (h : exec c s = .next (if p then v else u))
    (hp : p) (ht : v = t) : Answers c s t := by rw [Answers, h, if_pos hp, ht]

theorem answers_else {c : Instr} {s t u : State} {p : Prop} [Decidable p] (h : exec c s = .next (if p then t else u))
    (hp : ¬ p) : Answers c s u := by rw [Answers, h, if_neg hp]

theorem outOfReset_of_released {s t : State} (h : s.resetLow = false) : outOfReset s t = t := by simp [outOfReset, h]

theorem outOfReset_of_held {s t : State} (h : s.resetLow = true) : outOfReset s t = s := by simp [outOfReset, h]

/-- R193: out of reset a command of the ports acts. -/
theorem answers_released {c : Instr} {s t u : State} (h : exec c s = .next (outOfReset s u)) (hreset : s.resetLow = false)
    (ht : u = t) : Answers c s t := by rw [Answers, h, outOfReset_of_released hreset, ht]

/-- R193: while RESET_N is held low it does not. -/
theorem answers_held {c : Instr} {s t : State} (h : exec c s = .next (outOfReset s t)) (hreset : s.resetLow = true) :
    Answers c s s := by rw [Answers, h, outOfReset_of_held hreset]

/-! ### The end of a command -/

theorem endedOnly_endCommand (o : CommandOutcome) (s : State) : EndedOnly o s (endCommand o s) := rfl

theorem ended_endCommand (o : CommandOutcome) {s u : State} (hport : u.mp.noFlags = s.mp.noFlags)
    (hflags : ∀ f, s.flag f = true → u.flag f = true) : Ended o s (endCommand o u) where
  port := endCommand_ended o hport
  raised := flag_endCommand_self o u
  kept f hf := endCommand_flags o (hflags f hf)

/-! ### O1, O3, O4 -/

/-- Settles O1: the step is defined so. -/
theorem stepTakesTheFrontCommand : Obligations.StepTakesTheFrontCommand := fun _ _ _ => rfl

/-- The commands of the ports have no effect while RESET_N is held low. -/
theorem held_ports_have_no_effect (s : State) (d : Dir) (k : Fin 4) (a : BitVec 7) (v : Word) (b e : Byte)
    (p q : Byte × Byte) (more : List Byte) (h : s.resetLow = true) :
    ∀ c ∈ ([.uplinkWrite d v, .watchModeWrite k v, .watchCountLowWrite k v, .watchCountLowRead k, .watchStatusWrite v,
        .logIndexLowWrite v, .logIndexLowRead, .thresholdLowWrite v, .thresholdLowRead, .lostCountWrite v,
        .memAddrLowWrite v, .memDataRead, .memDataWrite v, .configWrite a v, .interruptFlagsWrite v,
        .interruptEnablesWrite v, .refusedStatusWrite v, .registerWrite a v, .commandCodeWrite v, .unknownCommand v,
        .requestPresented b e p q, .recordStartStrobe b more] : List Instr), Answers c s s := by
  simp only [List.forall_mem_cons]
  refine ⟨?_, ?_, ?_, ?_, ?_, ?_, ?_, ?_, ?_, ?_, ?_, ?_, ?_, ?_, ?_, ?_, ?_, ?_, ?_, ?_, ?_, ?_, fun _ hno => nomatch hno⟩
  all_goals exact answers_held rfl h

/-- Where no transaction is in progress, one with these bits only ends the selection. -/
theorem transact_of_not_begun {s u : State} (bits : List Bool) (hbegin : beginTransaction s = u)
    (hactive : u.mp.serial.active = false) :
    s.transact bits = { u with mp := { u.mp with serial := { u.mp.serial with selected := false } } } := by
  unfold State.transact
  rw [hbegin, clockPulses_idle bits u hactive]
  simp [endTransaction, hactive, State.setSerial]

/-- Then the data output keeps its level. -/
theorem shiftedOut_of_not_begun {s u : State} (bits : List Bool) (hbegin : beginTransaction s = u)
    (hactive : u.mp.serial.active = false) (hlevel : u.dataOutput = some false) :
    s.shiftedOut bits = bits.map fun _ => some false := by
  unfold State.shiftedOut
  rw [hbegin, sampled_idle bits u hactive, hlevel]

theorem transaction_while_held {s : State} (bits : List Bool) (hs : HeldOk s) (h : s.resetLow = true) :
    s.transact bits = { s with mp := { s.mp with serial := { s.mp.serial with selected := false } } } ∧
    s.shiftedOut bits = bits.map fun _ => some false := by
  have hactive := hs.serial h
  cases hsel : s.mp.serial.selected with
  | true =>
    have hbegin : beginTransaction s = s := by simp [beginTransaction, hsel]
    exact ⟨transact_of_not_begun bits hbegin hactive,
      shiftedOut_of_not_begun bits hbegin hactive (by simp [State.dataOutput, hsel, h])⟩
  | false =>
    have hbegin : beginTransaction s = s.setSerial { s.mp.serial with selected := true } := by
      simp [beginTransaction, hsel, h]
    exact ⟨(transact_of_not_begun bits hbegin hactive :),
      shiftedOut_of_not_begun bits hbegin hactive (by simp [State.dataOutput, State.setSerial, h])⟩

theorem transaction_after_cut {held : Bool} {s t : State} (bits : List Bool) (h : Answers (.deviceReset held) s t)
    (hsel : s.mp.serial.selected = true) :
    t.transact bits = { t with mp := { t.mp with serial := { t.mp.serial with selected := false } } } ∧
    t.shiftedOut bits = bits.map fun _ => some false := by
  have hserial : t.mp.serial = { SerialPort.reset with selected := true } := by
    rw [← answer_unique rfl h]
    simp [SerialPort.cut, hsel]
  have hbegin : beginTransaction t = t := by simp [beginTransaction, hserial]
  have hactive : t.mp.serial.active = false := by rw [hserial]; rfl
  exact ⟨transact_of_not_begun bits hbegin hactive,
    shiftedOut_of_not_begun bits hbegin hactive (by simp [State.dataOutput, hserial, SerialPort.reset])⟩

/-- R182: device reset changes at most the word of a write in its strobe. -/
theorem read_cutMemory {s : State} (hwf : Memory.wf s.mem) (a : Nat) :
    (cutMemory s).read a = s.mem.read a ∨
      (s.mc.phase = .strobe ∧ ∃ v, s.busAccess = some (.write, a, v) ∧ (cutMemory s).read a = v) := by
  unfold cutMemory
  split
  · next b v hphase hbus =>
    split
    · rw [Memory.read_write hwf]
      split
      · next hab => exact .inr ⟨hphase, v, by rw [hab]; exact hbus, rfl⟩
      · exact .inl rfl
    · exact .inl rfl
  · exact .inl rfl

theorem station_failAttempt {s : State} (h : s.li.station = .unconfigured) :
    (failAttempt s).li.station = .unconfigured := by
  unfold failAttempt
  split
  · exact h
  · simp [LineInterface.endLeaving, LineInterface.discardNotice, h]

theorem station_publishPass {s : State} (n : Snapshot) (h : s.li.station = .unconfigured) :
    (publishPass n s).li.station = .unconfigured := by
  have hpublished (d : Dir) : (publishDir d n s).li = s.li := (publishDir_frame d n s).2.2.1
  rcases publishPass_cases n s with hsame | ⟨a, ha, hup⟩ | ⟨a, ha, hdown⟩
  · rw [hsame]; exact h
  · have hli : a.li = s.li := by rw [ha]; exact hpublished .up
    rw [hup]
    exact (congrArg LineInterface.station hli).trans h
  · have hli : a.li.station = .unconfigured := by rw [ha, hpublished .down]; exact h
    rw [hdown]
    simp [completePass, passCompleted, hli]

/-- An unconfigured part that runs no command stays unconfigured. -/
theorem not_started_of_answers {c : Instr} {s t : State} (hs : s.started = false) (hruns : s.mp.running = false)
    (h : Answers c s t) : t.started = false := by
  have hstation : s.li.station = .unconfigured := by simpa [State.started] using hs
  have hno (code : Nat) : s.commandRuns code = false := by simp [State.commandRuns, hruns]
  by_cases hp : .line ∈ partsOf c
  · cases c with
    | deviceReset held =>
      obtain rfl := answer_unique rfl h
      rfl
    | publish =>
      obtain rfl := answer_unique rfl h
      split
      · simp [State.started, station_publishPass _ hstation]
      · exact hs
    | start | restart | leave | resume =>
      obtain rfl := answer_unique rfl h
      simp [hno, hs]
    | lineRestoration =>
      obtain rfl := answer_unique rfl h
      simp [State.restorationDue, hstation, hs]
    | readbackMismatch =>
      obtain rfl := answer_unique rfl h
      split
      · simp [State.started, station_failAttempt hstation]
      · exact hs
    | noticeSent =>
      obtain rfl := answer_unique rfl h
      split
      · simp [State.started, State.setLine, LineInterface.endLeaving, LineInterface.discardNotice, hstation]
      · exact hs
    | jitterExpiry | backoffExpiry =>
      obtain rfl := answer_unique rfl h
      split <;> exact hs
    | millisecondTick | epochExpiry | frameReceived | lineByteReceived | carrierIdle | busyPeriodStart | busyPeriodLimit
    | framingError | attemptStart | stuckLine | runLengthOverflow =>
      obtain rfl := answer_unique rfl h
      simp [hs]
    | _ => simp at hp
  · have hli : t.li = s.li := kept_of_answers .line h hp
    simp [State.started, hli, hstation]

theorem heldOk_answers {c : Instr} {s t : State} (hs : HeldOk s) (h : Answers c s t) : HeldOk t := by
  by_cases hc : ∃ held, c = .deviceReset held
  · obtain ⟨held, rfl⟩ := hc
    obtain rfl := answer_unique rfl h
    exact ⟨fun _ => rfl, fun _ => rfl, fun _ => rfl⟩
  · push Not at hc
    have hheld : t.resetLow = s.resetLow := kept_of_answers .held h (by cases c <;> simp_all)
    have hserial : t.mp.serial = s.mp.serial := kept_of_answers .serial h (by cases c <;> simp_all)
    refine ⟨fun hlow => ?_, fun hlow => ?_, fun hlow => ?_⟩ <;> rw [hheld] at hlow
    · exact not_started_of_answers (hs.station hlow) (hs.command hlow) h
    · have hidle := hs.command hlow
      by_cases hp : .channel ∈ partsOf c
      · cases c with
        | deviceReset held => exact absurd rfl (hc held)
        | commandCodeWrite v => rw [← answer_unique (answers_held (t := writeCommandCode v s) rfl hlow) h]; exact hidle
        | unknownCommand code => rw [← answer_unique (answers_held rfl hlow) h]; exact hidle
        | registerWrite a v => rw [← answer_unique (answers_held (t := writeWord a v s) rfl hlow) h]; exact hidle
        | _ => simp at hp
      · have hkept : Part.channel.Kept s t := kept_of_answers .channel h hp
        rw [← Bool.not_eq_true]
        exact fun hruns => by simp [hkept hruns] at hidle
    · rw [hserial]
      exact hs.serial hlow

/-- Settles O3: the reset state is written out in the command, the ports' commands wait for RESET_N, and no transaction
begins or goes on. -/
theorem deviceResetRestoresEveryBlock : Obligations.DeviceResetRestoresEveryBlock :=
  ⟨fun _ _ hwf => ⟨_, rfl, rfl, rfl, read_cutMemory hwf⟩,
    fun s d k a v b e p q more h => held_ports_have_no_effect s d k a v b e p q more h,
    fun _ bits hs h => transaction_while_held bits hs h,
    fun _ _ _ bits h hsel => transaction_after_cut bits h hsel,
    kept_of_answers_keep (fun _ _ hs => ⟨hs.station, hs.command, hs.serial⟩) fun _ _ _ => heldOk_answers⟩

theorem atRest_reset : AtRest State.reset where
  timer := rfl
  slots k := by simp [State.slot, State.reset, PeerTable.reset]
  entries i := by simp [State.client, State.reset, ClientTable.reset]
  walk := rfl
  pass := rfl
  requests := rfl
  records := rfl
  writer := rfl
  pendingIndex := rfl
  bus := rfl
  logRequest := rfl
  slot := rfl

/-- Settles O4: the part after device reset is at rest, and every invariant holds of a part at rest in its reset state. -/
theorem invariantsHoldAtReset : Obligations.InvariantsHoldAtReset := by
  have hrest := atRest_reset
  have hfree (i : Fin Config.clientCount) : State.reset.client i = ClientEntry.free := hrest.entries i
  have hunstarted {p : Prop} (h : State.reset.started = true) : p := nomatch h
  refine ⟨⟨⟨lineOk_reset, fun _ => hrest⟩, ⟨fun _ => rfl, fun _ => rfl, fun _ => rfl⟩, ?_, monitorOk_reset⟩,
    SharesOk.of_reset rfl rfl, fun i d hcapped => ?_, fun i => ?_, ⟨Nat.zero_le _, Nat.zero_le _⟩,
    peersOk_of_empty hrest.slots, ⟨hunstarted, hunstarted, hunstarted, fun h => nomatch h⟩, busOk_reset rfl rfl,
    inputsOk_zeroStale rfl rfl (Nat.zero_le _), reset_mem_wf⟩
  · exact ⟨by decide, by decide, by decide⟩
  · simp [hfree, ClientEntry.free] at hcapped
  · rw [hfree]
    exact levelsIn_free

end Sys2Proof.Machine
end

section
/-! ## Proofs: time base and station commands (chapter 1; R78 to R80, R186, R187) -/

namespace Sys2Proof.Machine

/-! ### The millisecond tick (R1 to R6, R52, R86, R93) -/

theorem LineInterface.bitTimes_restoration (line : List LineLevel) (l : LineInterface) :
    (line.foldl LineInterface.bitTime l).restoration =
      if l.station = .lineFault ∧ .dominant ∈ line then 0 else l.restoration := by
  induction line generalizing l with
  | nil => simp
  | cons b rest ih =>
    refine (ih (l.bitTime b)).trans ?_
    have hstation : (l.bitTime b).station = l.station := by cases b <;> rfl
    have hrestoration : (l.bitTime b).restoration =
        if l.station = .lineFault ∧ b = .dominant then 0 else l.restoration := by
      cases b <;> simp [LineInterface.bitTime, LineInterface.dominantBit, LineInterface.recessiveBit]
    rw [hstation, hrestoration]
    by_cases hfault : l.station = .lineFault <;> by_cases hrest : LineLevel.dominant ∈ rest <;>
      simp [hfault, hrest, eq_comm]

theorem passLevels_of_not_due {s : State} (h : s.restorationDue = false) (line : List LineLevel) :
    s.passLevels line = s.setLine (line.foldl LineInterface.bitTime s.li) := by simp [State.passLevels, h]

theorem restorationDue_of_tickDue {s : State} (h : s.tickDue = false) : s.restorationDue = false := by
  simp only [State.tickDue, Bool.or_eq_false_iff] at h
  exact h.2

/-- The state that a tick makes. -/
def State.ticked (composition : Bool) (line : List LineLevel) (s : State) : State :=
  { s with
    tb := s.tb.tick, pt := s.pt.debounce composition, li := (s.passLevels line).li.tick, composition := composition }

theorem ticked_li {composition : Bool} {line : List LineLevel} {s : State} (h : s.tickDue = false) :
    (s.ticked composition line).li = { (s.passLevels line).li with
        jitterLeft := if s.li.tx = .jitter then s.li.jitterLeft - 1 else s.li.jitterLeft
        restoration := if s.li.station = .lineFault then
            (if LineLevel.dominant ∈ line then 1 else s.li.restoration + 1)
          else s.li.restoration } := by
  have hrestoration : (s.passLevels line).li.restoration =
      if s.li.station = .lineFault ∧ .dominant ∈ line then 0 else s.li.restoration := by
    rw [passLevels_of_not_due (restorationDue_of_tickDue h)]
    exact LineInterface.bitTimes_restoration line s.li
  have hjitter : (s.passLevels line).li.jitterLeft = s.li.jitterLeft := by rw [passLevels_li_eq]
  simp only [State.ticked, LineInterface.tick, passLevels_tx, passLevels_station, hrestoration, hjitter]
  by_cases hfault : s.li.station = .lineFault <;> by_cases hdom : LineLevel.dominant ∈ line <;> simp [hfault, hdom]

/-- Settles O14: a tick counts where no event of the last one is due; before START there is none. -/
theorem tickAdvancesTheTimers : Obligations.TickAdvancesTheTimers := by
  refine ⟨fun composition line s hs hdue => ?_, fun composition line s hs => answers_else rfl (by simp [hs])⟩
  refine ⟨s.ticked composition line, answers_if rfl ⟨hs, hdue⟩ rfl, rfl, ?_, ticked_li hdue, rfl⟩
  simp [State.ticked, PeerTable.debounce]

/-! ### START's checks (R186) -/

/-- The first check of a numbered list that fails, where the list holds each number once, in order. -/
theorem find_failing_spec {checks : List (Nat × Bool)} {valid : Nat → Prop} (horder : checks.Pairwise (·.1 < ·.1))
    (hlisted : ∀ p ∈ checks, p.2 = true ↔ valid p.1) (hother : ∀ n, n ∉ checks.map Prod.fst → valid n) (n : Nat)
    (h : (checks.find? fun p => !p.2).map Prod.fst = some n) : ¬ valid n ∧ ∀ m, m < n → valid m := by
  obtain ⟨x, hx, rfl⟩ := Option.map_eq_some_iff.1 h
  obtain ⟨hfails, before, behind, rfl, hbefore⟩ := List.find?_eq_some_iff_append.1 hx
  refine ⟨fun hvalid => ?_, fun m hm => ?_⟩
  · simp [(hlisted x (by simp)).2 hvalid] at hfails
  · by_cases hin : m ∈ (before ++ x :: behind).map Prod.fst
    · obtain ⟨y, hy, rfl⟩ := List.mem_map.1 hin
      have hpassed : y ∈ before → valid y.1 := fun hb => (hlisted y hy).1 (by simpa using hbefore y hb)
      rcases List.mem_append.1 hy with hb | hb
      · exact hpassed hb
      · rcases List.mem_cons.1 hb with rfl | hb
        · exact absurd hm (Nat.lt_irrefl _)
        · have hlater := (List.pairwise_cons.1 (List.pairwise_append.1 horder).2.1).1 y hb
          omega
    · exact hother m hin

theorem find_failing_none {checks : List (Nat × Bool)} {valid : Nat → Prop}
    (hlisted : ∀ p ∈ checks, p.2 = true ↔ valid p.1) (hother : ∀ n, n ∉ checks.map Prod.fst → valid n) :
    (checks.find? fun p => !p.2).map Prod.fst = none ↔ ∀ n, valid n := by
  rw [Option.map_eq_none_iff, List.find?_eq_none]
  refine ⟨fun hall n => ?_, fun hall p hp => by simp [(hlisted p hp).2 (hall p.1)]⟩
  by_cases hin : n ∈ checks.map Prod.fst
  · obtain ⟨p, hp, rfl⟩ := List.mem_map.1 hin
    exact (hlisted p hp).1 (by simpa using hall p hp)
  · exact hother n hin

theorem find_failing_some {checks : List (Nat × Bool)} {valid : Nat → Prop} (horder : checks.Pairwise (·.1 < ·.1))
    (hlisted : ∀ p ∈ checks, p.2 = true ↔ valid p.1) (hother : ∀ n, n ∉ checks.map Prod.fst → valid n) (n : Nat) :
    (checks.find? fun p => !p.2).map Prod.fst = some n ↔ ¬ valid n ∧ ∀ m, m < n → valid m := by
  refine ⟨find_failing_spec horder hlisted hother n, fun ⟨hno, hbelow⟩ => ?_⟩
  cases hfound : (checks.find? fun p => !p.2).map Prod.fst with
  | none => exact absurd ((find_failing_none hlisted hother).1 hfound n) hno
  | some k =>
    obtain ⟨hk, hkbelow⟩ := find_failing_spec horder hlisted hother k hfound
    rcases Nat.lt_trichotomy k n with hlt | heq | hgt
    · exact absurd (hbelow k hlt) hk
    · rw [heq]
    · exact absurd (hkbelow n hgt) hno

theorem inRange_iff (low high : Nat) (w : Word) : inRange low high w = true ↔ low ≤ w.toNat ∧ w.toNat ≤ high := by
  simp [inRange]

theorem inRange_zero_iff (high : Nat) (w : Word) : inRange 0 high w = true ↔ w.toNat ≤ high := by simp [inRange]

theorem inRange_bit_iff (w : Word) : inRange 0 1 w = true ↔ w = 0 ∨ w = 1 := by
  rw [inRange_zero_iff]
  bv_omega

theorem capacitiesValid_iff (c : ConfigWords) :
    c.capacitiesValid = true ↔ ∀ g : Fin Config.groupCount, g.val < c.groupCount.toNat →
      (c.capacity.up[g.val]).toNat ≤ 16383 ∧ (c.capacity.down[g.val]).toNat ≤ 16383 := by
  have hgroup (g : BitVec 3) : (!c.groupExists g || (c.groupCapacity .up g ≤ 16383 && c.groupCapacity .down g ≤ 16383)) = true ↔
      (g.toNat < c.groupCount.toNat → c.groupCapacity .up g ≤ 16383 ∧ c.groupCapacity .down g ≤ 16383) := by
    simp [ConfigWords.groupExists, Decidable.imp_iff_not_or]
  unfold ConfigWords.capacitiesValid
  rw [List.all_eq_true]
  refine ⟨fun hall g hg => ?_, fun hall g _ => (hgroup g).2 fun hg => ?_⟩
  · have hval : (BitVec.ofNat 3 g.val).toNat = g.val := by
      have : g.val < 8 := g.isLt
      simp only [BitVec.toNat_ofNat]
      omega
    have := (hgroup (BitVec.ofNat 3 g.val)).1 (hall _ (mem_allGroups _)) (by rw [hval]; exact hg)
    simpa [ConfigWords.groupCapacity, PerDir.get, hval] using this
  · exact hall ⟨g.toNat, g.isLt⟩ hg

/-! ### START, RESTART, LEAVE, RESUME, SYNC_EPOCH -/

theorem answers_start_after {level : Bool} {s : State} (hruns : s.commandRuns 1 = true) (hs : s.started = true) :
    Answers (.start level) s (endCommand .badState s)  :=
  answers_if rfl hruns (if_pos hs)

theorem answers_start_invalid {level : Bool} {s : State} {n : Nat} (hruns : s.commandRuns 1 = true) (hs : s.started = false)
    (hinvalid : s.mp.cfg.firstInvalid = some n) : Answers (.start level) s { s with mp := { s.mp with
        running := false, outcome := .configInvalid, check := n, flags := s.mp.flags ||| BitVec.twoPow 16 14 } } := by
  refine answers_if rfl hruns ?_
  rw [takeStart, if_neg (by simp [hs]), hinvalid]
  rfl

theorem answers_start_valid {level : Bool} {s : State} (hruns : s.commandRuns 1 = true) (hs : s.started = false)
    (hvalid : s.mp.cfg.firstInvalid = none) : Answers (.start level) s (endCommand .done (startPart level s)) := by
  refine answers_if rfl hruns ?_
  rw [takeStart, if_neg (by simp [hs]), hvalid]

/-- Settles O16: the checks are the listed ones, and a START that fails one ends the command and does nothing else. -/
theorem startJudgesTheConfiguration : Obligations.StartJudgesTheConfiguration := by
  refine ⟨fun c => ?_, fun level s n hruns hs hinvalid => ⟨_, answers_start_invalid hruns hs hinvalid, rfl⟩,
    fun level s hruns hs => ⟨_, answers_start_after hruns hs, endedOnly_endCommand _ s⟩⟩
  intro valid
  have horder : c.checks.Pairwise (·.1 < ·.1) := by simp [ConfigWords.checks]
  have hother : ∀ n, n ∉ c.checks.map Prod.fst → valid n := by
    intro n hn
    simp only [ConfigWords.checks, List.map_cons, List.map_nil, List.mem_cons, List.not_mem_nil, or_false, not_or] at hn
    simp only [valid]
    split <;> simp_all
  have hlisted : ∀ p ∈ c.checks, p.2 = true ↔ valid p.1 := by
    simp only [ConfigWords.checks, List.forall_mem_cons, valid, Bool.and_eq_true, inRange_bit_iff, capacitiesValid_iff]
    simp [inRange, Nat.dvd_iff_mod_eq_zero, and_assoc]
  exact ⟨find_failing_none hlisted hother, find_failing_some horder hlisted hother⟩

/-- Settles O17: the state that START makes is written out. -/
theorem startSetsThePartGoing : Obligations.StartSetsThePartGoing := fun _ _ hruns hs hvalid =>
  ⟨_, answers_start_valid hruns hs hvalid, rfl, rfl, ended_endCommand _ rfl fun _ hf => hf⟩

/-- Settles O18: the state that RESTART makes is written out block by block. -/
theorem restartReturnsToListening : Obligations.RestartReturnsToListening := by
  refine ⟨fun s hruns hs => ⟨_, ?_, endedOnly_endCommand .badState s⟩, fun s hruns hs => ⟨endCommand .done (restartPart s), ?_, ?_⟩⟩
  · exact answers_if rfl hruns (if_neg (by simp [hs]))
  · exact answers_if rfl hruns (if_pos hs)
  · have hended : Ended .done s (endCommand .done (restartPart s)) := ended_endCommand _ rfl fun _ hf => hf
    have hli : (endCommand .done (restartPart s)).li = s.li.restart := rfl
    rw [hli]
    refine ⟨fun hfault => ?_, fun hfault => ?_, ?_⟩
    · simp [LineInterface.restart, hfault, LineInterface.discardNotice]
    · simp [LineInterface.restart, hfault, LineInterface.discardNotice]
    · have hrestart : s.li.restart = { s.li with
          station := s.li.restart.station, remembered := s.li.restart.remembered, expiryCount := 0, conflict := false
          tx := .idle, notice := none, attempts := 0, jitterLeft := s.li.restart.jitterLeft
          backoffSlots := s.li.restart.backoffSlots } := by
        unfold LineInterface.restart
        dsimp only
        split <;> rfl
      exact ⟨by rw [hrestart], by rw [hrestart], by rw [hrestart], by rw [hrestart], by rw [hrestart], hrestart, rfl, rfl,
        rfl, fun i => client_restartPart s i, fun k => slot_emptyPeers _ k, rfl, hended, rfl⟩

theorem sendLeaving_notice (s : State) : (sendLeaving s).li.notice = some (sendLeaving s).leavingNotice := rfl

/-- Settles O19: LEAVE and RESUME act in one state each. -/
theorem leaveAndResumeChangeTheStation : Obligations.LeaveAndResumeChangeTheStation := by
  refine ⟨⟨fun s hruns hactive => ⟨endCommand .done (sendLeaving (s.setLine { s.li with station := .leaving })), ?_, ?_⟩,
    fun s hruns hactive => ⟨_, ?_, endedOnly_endCommand .badState s⟩⟩,
    fun s hruns hsilent hclear => ⟨endCommand .done (s.setLine { s.li with station := .active }), ?_, rfl,
      ended_endCommand _ rfl fun _ hf => hf, rfl⟩,
    fun s hruns hno => ⟨_, ?_, endedOnly_endCommand .badState s⟩⟩
  · exact answers_if rfl hruns (if_pos hactive)
  · unfold sendLeaving supersede
    cases hnotice : s.li.notice with
    | none =>
      simp only [State.setLine, hnotice]
      exact ⟨rfl, (fun h => nomatch h), fun _ => rfl, ended_endCommand _ rfl fun _ hf => hf, rfl⟩
    | some bytes =>
      simp only [State.setLine, hnotice]
      exact ⟨rfl, fun _ => endCommand_flags _ (flag_raise_self _ .noticeAbandoned), (fun h => nomatch h),
        ended_endCommand _ rfl fun _ hf => flag_raise_of_flag .noticeAbandoned hf, rfl⟩
  · exact answers_if rfl hruns (if_neg hactive)
  · exact answers_if rfl hruns (if_pos ⟨hsilent, hclear⟩)
  · exact answers_if rfl hruns (if_neg (by rcases hno with h | h <;> simp [h]))

/-- Settles O20: SYNC_EPOCH acts in three states. -/
theorem syncEpochReloadsTheTimer : Obligations.SyncEpochReloadsTheTimer := by
  intro s hruns
  by_cases hst : s.li.station = .active ∨ s.li.station = .silent ∨ s.li.station = .listening
  · refine ⟨endCommand .done (s.setTb { s.tb with epochTimer := s.mp.cfg.epoch }), ?_,
      fun _ => ⟨rfl, ended_endCommand _ rfl fun _ hf => hf, rfl⟩, fun h => ?_⟩
    · exact answers_if rfl hruns (if_pos hst)
    · rcases hst with h1 | h1 | h1 <;> rcases h with h2 | h2 | h2 <;> simp [h1] at h2
  · refine ⟨endCommand .badState s, ?_, fun h => absurd h hst, fun _ => endedOnly_endCommand _ s⟩
    exact answers_if rfl hruns (if_neg hst)

end Sys2Proof.Machine
end

section
/-! ## Proofs: log words, window words and the phases of an access (chapters 10 and 11) -/

namespace Sys2Proof.Machine

/-! ### Log words (R166 to R169) -/

theorem refuseWrite_eq (cause : RefusedCause) (a : BitVec 7) (s : State) : refuseWrite cause a s = { s with mp := { s.mp with
    refused := some (cause, a), flags := s.mp.flags ||| BitVec.twoPow 16 15 } } := rfl

theorem writeLogIndexLow_of_address {s : State} {v : Word} (hs : s.started = true)
    (h : s.mp.cfg.LogAddress (joinHolding s.lw.indexHolding v)) :
    writeLogIndexLow v s = { s with lw :=
      if s.lw.writer = .idle then { s.lw with index := joinHolding s.lw.indexHolding v }
      else { s.lw with pendingIndex := some (joinHolding s.lw.indexHolding v) } } := by
  have haddress := logAddress_iff.2 h
  cases hw : s.lw.writer <;> simp [writeLogIndexLow, hs, haddress, hw]

theorem writeLogIndexLow_refused {s : State} {v : Word}
    (h : s.started = false ∨ ¬ s.mp.cfg.LogAddress (joinHolding s.lw.indexHolding v)) :
    writeLogIndexLow v s = refuseWrite (if s.started = false then .notStarted else .badValue) 0x0C s := by
  rw [← logAddress_iff] at h
  cases hs : s.started <;> simp_all [writeLogIndexLow]

theorem writeThresholdLow_of_address {s : State} {v : Word} (hs : s.started = true)
    (h : s.mp.cfg.LogAddress (joinHolding s.lw.thresholdHolding v)) :
    writeThresholdLow v s = { s with lw := { s.lw with threshold := joinHolding s.lw.thresholdHolding v } } := by
  simp [writeThresholdLow, hs, logAddress_iff.2 h]

theorem writeThresholdLow_refused {s : State} {v : Word}
    (h : s.started = false ∨ ¬ s.mp.cfg.LogAddress (joinHolding s.lw.thresholdHolding v)) :
    writeThresholdLow v s = refuseWrite (if s.started = false then .notStarted else .badValue) 0x0E s := by
  rw [← logAddress_iff] at h
  cases hs : s.started <;> simp_all [writeThresholdLow]

/-- Settles O53: the two words are judged alike, and reads latch. -/
theorem logWordsAreJudged : Obligations.LogWordsAreJudged := fun _ _ hreset =>
  ⟨fun hs h => ⟨_, answers_released rfl hreset (writeLogIndexLow_of_address hs h), rfl⟩,
    fun hs h => ⟨_, answers_released rfl hreset (writeThresholdLow_of_address hs h), rfl⟩,
    fun h => ⟨_, answers_released rfl hreset (writeLogIndexLow_refused h), rfl⟩,
    fun h => ⟨_, answers_released rfl hreset (writeThresholdLow_refused h), rfl⟩,
    ⟨_, answers_released rfl hreset rfl, by simp [latchIndex, setDataOut, part]⟩,
    ⟨_, answers_released rfl hreset rfl, by simp [latchThreshold, setDataOut, part]⟩,
    ⟨_, answers_released rfl hreset rfl, rfl⟩⟩

/-! ### Window words (R178 to R181) -/

theorem placeWindowRequest_of_busy {s : State} (r : WindowRequest) (m : MemController) (h : m.phase ≠ .idle) :
    placeWindowRequest r { s with mc := m } = { s with mc := { m with slot := some r, ready := false } } := by
  have hbusy : ({ m with slot := some r, ready := false } : MemController).arbitrate =
      { m with slot := some r, ready := false } := MemController.arbitrate_busy h
  simp [placeWindowRequest, Machine.arbitrate, hbusy]

/-- R174, R177: what a free bus makes of a window request. -/
theorem placeWindowRequest_of_free {s : State} (r : WindowRequest) (m : MemController) (h : m.phase = .idle)
    (hlog : m.logRequest = none) :
    placeWindowRequest r { s with mc := m } = { s with mc := { m with
      ready := false, slot := none, owner := .window, granted := some r
      phase := if m.marker = r.dir then .setup else .turnaround
      timedOut := if m.marker = r.dir then false else m.timedOut } } := by
  have hgranted : ({ m with slot := some r, ready := false } : MemController).arbitrate =
      ({ m with slot := some r, ready := false } : MemController).grantWindow r :=
    MemController.arbitrate_window h hlog rfl
  unfold placeWindowRequest Machine.arbitrate
  dsimp only
  rw [hgranted]
  by_cases hmarker : m.marker = r.dir
  · simp [MemController.grantWindow, MemController.enter, MemController.beginSetup, hmarker]
  · simp [MemController.grantWindow, MemController.enter, hmarker]

/-- The three port commands that place a window request: the request, and the controller with the address moved on. -/
inductive PlacesRequest (s : State) : Instr → WindowRequest → MemController → MaintPort → Prop
  | addrLow (v : Word) : PlacesRequest s (.memAddrLowWrite v) (.read (s.mc.addressHolding ++ v))
      { s.mc with address := s.mc.addressHolding ++ v, timeout := false } s.mp
  | dataWrite (v : Word) : PlacesRequest s (.memDataWrite v) (.write s.mc.address v)
      { s.mc with address := s.mc.address + 1 } s.mp
  | dataRead (hready : s.mc.ready = true) : PlacesRequest s .memDataRead (.read (s.mc.address + 1))
      { s.mc with address := s.mc.address + 1 } { s.mp with dataOut := s.mc.data }

theorem PlacesRequest.answers {s : State} {c : Instr} {r : WindowRequest} {m : MemController} {p : MaintPort}
    (h : PlacesRequest s c r m p) (hreset : s.resetLow = false) (hs : s.started = true) :
    Answers c s (placeWindowRequest r { s with mc := m, mp := p }) := by
  cases h with
  | addrLow v => exact answers_released rfl hreset (by simp [writeMemAddrLow, hs])
  | dataWrite v => exact answers_released rfl hreset (by simp [writeMemData, hs])
  | dataRead hready =>
    refine answers_released rfl hreset ?_
    have hstarted : (setDataOut s.mc.data s).started = true := hs
    have hready' : (setDataOut s.mc.data s).mc.ready = true := hready
    simp only [fetchNext, hstarted, hready', Bool.and_self, if_true]
    rfl

/-- What a placed request leaves alone. -/
theorem PlacesRequest.phase_eq {s : State} {c : Instr} {r : WindowRequest} {m : MemController} {p : MaintPort}
    (h : PlacesRequest s c r m p) : m.phase = s.mc.phase ∧ m.logRequest = s.mc.logRequest ∧ m.marker = s.mc.marker := by
  cases h <;> exact ⟨rfl, rfl, rfl⟩

theorem PlacesRequest.answers_of_busy {s : State} {c : Instr} {r : WindowRequest} {m : MemController} {p : MaintPort}
    (h : PlacesRequest s c r m p) (hreset : s.resetLow = false) (hs : s.started = true) (hbusy : s.mc.phase ≠ .idle) :
    Answers c s { s with mc := { m with slot := some r, ready := false }, mp := p } := by
  have hplaced := h.answers hreset hs
  rw [placeWindowRequest_of_busy (s := { s with mp := p }) r m (by rw [h.phase_eq.1]; exact hbusy)] at hplaced
  exact hplaced

theorem PlacesRequest.answers_of_free {s : State} {c : Instr} {r : WindowRequest} {m : MemController} {p : MaintPort}
    (h : PlacesRequest s c r m p) (hreset : s.resetLow = false) (hs : s.started = true) (hbus : BusOk s)
    (hfree : s.mc.phase = .idle) : Answers c s { s with
      mp := p
      mc := { m with
        ready := false, slot := none, owner := .window, granted := some r
        phase := if m.marker = r.dir then .setup else .turnaround
        timedOut := if m.marker = r.dir then false else m.timedOut } } := by
  obtain ⟨hphase, hlog, -⟩ := h.phase_eq
  have hplaced := h.answers hreset hs
  rw [placeWindowRequest_of_free (s := { s with mp := p }) r m (hphase.trans hfree) (hlog.trans (hbus.idle hfree).1)]
    at hplaced
  exact hplaced

theorem answers_memDataRead_of_not_ready {s : State} (hreset : s.resetLow = false)
    (h : s.mc.ready = false ∨ s.started = false) :
    Answers .memDataRead s { s with mp := { s.mp with dataOut := s.mc.data } } := by
  refine answers_released rfl hreset ?_
  have hno : ((setDataOut s.mc.data s).started && (setDataOut s.mc.data s).mc.ready) = false := by
    rcases h with h | h
    · exact (congrArg _ h).trans (Bool.and_false _)
    · exact (congrArg (· && s.mc.ready) h).trans (Bool.false_and _)
  simp only [fetchNext, hno]
  rfl

theorem placeWindowRequest_address (r : WindowRequest) (s : State) :
    (placeWindowRequest r s).mc.address = s.mc.address ∧ (placeWindowRequest r s).mc.ready = false := by
  obtain ⟨-, hready, haddress, -⟩ := MemController.arbitrate_frame { s.mc with slot := some r, ready := false }
  exact ⟨haddress, hready⟩

/-- Settles O55: each window word places one request, which a held bus keeps waiting and a free one takes. -/
theorem windowWordsPlaceRequests : Obligations.WindowWordsPlaceRequests := by
  refine ⟨fun v s hreset hs hbusy => ⟨_, (PlacesRequest.addrLow v).answers_of_busy hreset hs hbusy, rfl⟩,
    fun v s hreset hs hbusy => ⟨_, (PlacesRequest.dataWrite v).answers_of_busy hreset hs hbusy, rfl⟩,
    fun c v s hreset hs hbus hfree hc => ?_, fun s hreset h => ⟨_, answers_memDataRead_of_not_ready hreset h, rfl⟩,
    fun s hreset hready hs => ?_, fun v s hreset hs => ?_⟩
  · rcases hc with rfl | rfl | ⟨rfl, hready⟩
    · refine ⟨_, (PlacesRequest.addrLow v).answers_of_free hreset hs hbus hfree, ?_, rfl, rfl, by simp⟩
      by_cases hmarker : s.mc.marker = .read <;> simp [hmarker, WindowRequest.dir]
    · refine ⟨_, (PlacesRequest.dataWrite v).answers_of_free hreset hs hbus hfree, ?_, rfl, rfl, by simp⟩
      by_cases hmarker : s.mc.marker = .write <;> simp [hmarker, WindowRequest.dir]
    · refine ⟨_, (PlacesRequest.dataRead hready).answers_of_free hreset hs hbus hfree, ?_, rfl, rfl, by simp⟩
      by_cases hmarker : s.mc.marker = .read <;> simp [hmarker, WindowRequest.dir]
  · obtain ⟨haddress, hcleared⟩ := placeWindowRequest_address (.read (s.mc.address + 1))
      { s with mc := { s.mc with address := s.mc.address + 1 }, mp := { s.mp with dataOut := s.mc.data } }
    refine ⟨_, (PlacesRequest.dataRead hready).answers hreset hs, rfl, haddress, hcleared, fun hbusy => ?_, rfl⟩
    rw [placeWindowRequest_of_busy (s := { s with mp := { s.mp with dataOut := s.mc.data } }) _
      { s.mc with address := s.mc.address + 1 } hbusy]
  · simp only [List.forall_mem_cons]
    exact ⟨⟨_, answers_released rfl hreset (writeMemAddrLow_of_not_started hs v), rfl⟩,
      ⟨_, answers_released rfl hreset (writeMemData_of_not_started hs v), rfl⟩, fun _ hno => nomatch hno⟩

/-! ### The phases of an access (R173 to R175, R177) -/

theorem busLines_of_access {s : State} {dir : AccessDir} {a : Nat} {v : Word} (h : s.busAccess = some (dir, a, v)) :
    s.busLines = if s.mc.phase = .idle ∨ s.mc.phase = .turnaround then
        { address := none, data := none, strobe := false, write := false }
      else { address := some a, data := if dir = .write then some v else none
             strobe := s.mc.phase == .strobe, write := dir == .write } := by
  simp [State.busLines, h]

theorem endTurnaround_log {m : MemController} (h : m.owner = .log) :
    m.endTurnaround = { m with phase := .setup, marker := .write, timedOut := false } := by
  simp [MemController.endTurnaround, h, MemController.beginSetup]

theorem endTurnaround_window {m : MemController} {q : WindowRequest} (howner : m.owner = .window)
    (hgranted : m.granted = some q) :
    m.endTurnaround = if m.logRequest.isSome then { m with slot := m.slot.or (some q) }.grantLog
      else { m with phase := .setup, marker := q.dir, timedOut := false } := by
  simp [MemController.endTurnaround, howner, hgranted, MemController.beginSetup]

theorem endStrobe_read {s : State} {a : Nat} {v : Word} (n : Nat) (h : s.busAccess = some (.read, a, v)) :
    endStrobe n s = { s with mc := { s.mc with phase := .hold, waitCount := n, sampled := s.mem.read a } } := by
  simp [endStrobe, h]

theorem endStrobe_write {s : State} {a : Nat} {v : Word} (n : Nat) (h : s.busAccess = some (.write, a, v)) :
    endStrobe n s = { s with mc := { s.mc with phase := .hold, waitCount := n }, mem := s.mem.write a v } := by
  simp [endStrobe, h]

theorem waitAllowed_eq {s : State} {waited : Nat}
    (h : s.mp.cfg.waitEnable ≠ 1 ∨ waited ≤ (s.mp.cfg.waitLimit.toNat + 1) * 16) :
    s.waitAllowed waited = some (if s.mp.cfg.waitEnable = 1 then waited else 0) := by
  unfold State.waitAllowed ConfigWords.waitTop
  by_cases hw : s.mp.cfg.waitEnable = 1
  · rw [if_pos hw, if_pos hw, if_pos (h.resolve_left (not_not.2 hw))]
  · rw [if_neg hw, if_neg hw]

theorem answers_strobeEnd {s : State} {waited : Nat} (hphase : s.mc.phase = .strobe)
    (h : s.mp.cfg.waitEnable ≠ 1 ∨ waited ≤ (s.mp.cfg.waitLimit.toNat + 1) * 16) :
    Answers (.strobeEnd waited) s (endStrobe (if s.mp.cfg.waitEnable = 1 then waited else 0) s) :=
  answers_if rfl hphase (by rw [waitAllowed_eq h])

/-- Settles O56: each phase ends into the next, and a strobe with its word. -/
theorem accessPhasesFollow : Obligations.AccessPhasesFollow := by
  refine ⟨fun s dir a v h => ⟨fun hphase => ?_, fun hphase => ?_⟩, fun s q hphase howner hgranted => ?_,
    fun s hphase howner => ⟨_, answers_if rfl hphase (by rw [endTurnaround_log howner]), rfl⟩,
    fun s hphase => ⟨_, answers_if rfl hphase rfl, rfl⟩, fun waited a dir v s hphase h hallowed hwf => ?_⟩
  · rw [busLines_of_access h, if_neg (by rcases hphase with hp | hp | hp <;> simp [hp])]
    cases dir <;> cases s.mc.phase <;> rfl
  · rw [busLines_of_access h, if_pos (.inr hphase)]
    exact ⟨rfl, rfl⟩
  · refine ⟨_, answers_if rfl hphase rfl, rfl, ?_⟩
    show (s.mc.logRequest = none → s.mc.endTurnaround = _) ∧ (s.mc.logRequest ≠ none → s.mc.endTurnaround.owner = _ ∧
      s.mc.endTurnaround.granted = _ ∧ s.mc.endTurnaround.wordIndex = _ ∧ s.mc.endTurnaround.slot = _ ∧
      s.mc.endTurnaround.marker = _ ∧ s.mc.endTurnaround.phase = _)
    rw [endTurnaround_window howner hgranted]
    refine ⟨fun hno => by simp [hno], fun hlog => ?_⟩
    rw [if_pos (Option.isSome_iff_ne_none.2 hlog)]
    obtain ⟨hphase', howner', -, hslot, hgranted', hmarker, -, -, -, -, hindex⟩ := MemController.enter_phase .write
      { s.mc with slot := s.mc.slot.or (some q), owner := .log, wordIndex := 0, granted := none }
    refine ⟨howner', hgranted', hindex, hslot.trans ?_, hmarker, hphase'⟩
    cases s.mc.slot <;> simp
  · refine ⟨_, answers_strobeEnd hphase hallowed, ?_⟩
    cases dir with
    | read =>
      rw [endStrobe_read _ h]
      exact ⟨rfl, rfl, rfl, fun _ => ⟨rfl, rfl⟩, (fun hno => nomatch hno), fun _ _ => rfl, rfl⟩
    | write =>
      rw [endStrobe_write _ h]
      exact ⟨rfl, rfl, rfl, (fun hno => nomatch hno), fun _ => ⟨by simp [Memory.read_write hwf], rfl⟩,
        fun b hb => by simp [Memory.read_write hwf, hb], rfl⟩

/-- Settles O57: at the wait limit the strobe ends whatever the access; only its own word is free. -/
theorem waitTimeoutEndsTheStrobe : Obligations.WaitTimeoutEndsTheStrobe := by
  intro s a dir v hphase h hwait hwf
  refine ⟨_, answers_if rfl ⟨hphase, hwait⟩ rfl, ?_⟩
  unfold endStrobeTimedOut
  rw [h]
  cases dir with
  | read => exact ⟨rfl, rfl, rfl, fun _ => rfl, (fun hno => nomatch hno), fun _ _ => rfl, rfl⟩
  | write =>
    dsimp only
    split
    · exact ⟨rfl, rfl, rfl, (fun hno => nomatch hno), fun _ => .inl (by simp [Memory.read_write hwf]),
        fun b hb => by simp [Memory.read_write hwf, hb], rfl⟩
    · exact ⟨rfl, rfl, rfl, (fun hno => nomatch hno), fun _ => .inr rfl, fun _ _ => rfl, rfl⟩

end Sys2Proof.Machine
end

section
/-! ## Proofs: host commands on clients (R108 to R111, R146) and the command channel (R188) -/

namespace Sys2Proof.Machine

/-! ### The judgement (R108) -/

theorem judgeClientCommand_of_badIndex {s : State} (hs : s.started = true) (h : 383 < s.mp.taken0.toNat) (valid : Bool)
    (act : Fin Config.clientCount → State → State) : judgeClientCommand valid act s = endCommand .badArgument s := by
  simp [judgeClientCommand, hs, clientOfArgument_none h]

theorem judgeClientCommand_of_badValue {s : State} (hs : s.started = true) (act : Fin Config.clientCount → State → State) :
    judgeClientCommand false act s = endCommand .badArgument s := by
  unfold judgeClientCommand
  rw [if_neg (by simp [hs])]
  split <;> rfl

theorem judgeClientCommand_of_free {s : State} {i : Fin Config.clientCount} (hs : s.started = true)
    (hi : s.mp.taken0.toNat = i.val) (hfree : (s.client i).state = .free) (act : Fin Config.clientCount → State → State) :
    judgeClientCommand true act s = endCommand .notAttached s := by
  simp [judgeClientCommand, hs, clientOfArgument_eq hi, hfree]

/-- What the judgement refuses, it refuses with no other effect. -/
theorem judgeClientCommand_refuses (act : Fin Config.clientCount → State → State) (s : State) :
    (s.started = false → EndedOnly .badState s (judgeClientCommand true act s)) ∧
    (s.started = true → 383 < s.mp.taken0.toNat → EndedOnly .badArgument s (judgeClientCommand true act s)) ∧
    ∀ i, s.started = true → s.mp.taken0.toNat = i.val → (s.client i).state = .free →
      EndedOnly .notAttached s (judgeClientCommand true act s) := by
  refine ⟨fun hs => ?_, fun hs h => ?_, fun i hs hi hfree => ?_⟩
  · rw [judgeClientCommand_of_not_started hs]; exact endedOnly_endCommand _ s
  · rw [judgeClientCommand_of_badIndex hs h]; exact endedOnly_endCommand _ s
  · rw [judgeClientCommand_of_free hs hi hfree]; exact endedOnly_endCommand _ s

theorem tierOfCode_none {w : Word} (h : 2 < w.toNat) : tierOfCode w = none := by
  have hne (k : Word) (hk : k.toNat ≤ 2) : w ≠ k := fun he => by rw [he] at h; omega
  rw [tierOfCode, if_neg (hne 0 (by decide)), if_neg (hne 1 (by decide)), if_neg (hne 2 (by decide))]

theorem tierOfCode_some {w : Word} (h : w.toNat ≤ 2) : ∃ t, tierOfCode w = some t := by
  have hcases : w = 0 ∨ w = 1 ∨ w = 2 := by bv_omega
  rcases hcases with rfl | rfl | rfl <;> exact ⟨_, rfl⟩

theorem tierOfCode_code {w : Word} {t : Tier} (h : w.toNat = t.code) : tierOfCode w = some t := by
  have hw : w = BitVec.ofNat 16 t.code := by rw [← h]; simp
  rw [hw]
  cases t <;> rfl

theorem setTier_refuses {s : State} (hruns : s.commandRuns 8 = true) : ∃ t, Answers .setTier s t ∧
    (s.started = false → EndedOnly .badState s t) ∧
    (s.started = true → 383 < s.mp.taken0.toNat → EndedOnly .badArgument s t) ∧
    (s.started = true → 2 < s.mp.taken1.toNat → EndedOnly .badArgument s t) ∧
    ∀ i, s.started = true → s.mp.taken0.toNat = i.val → (s.client i).state = .free → s.mp.taken1.toNat ≤ 2 →
      EndedOnly .notAttached s t := by
  refine ⟨_, answers_if rfl hruns rfl, ?_⟩
  by_cases hvalid : s.mp.taken1.toNat ≤ 2
  · obtain ⟨t, ht⟩ := tierOfCode_some hvalid
    rw [ht]
    obtain ⟨hstate, hindex, hfree⟩ := judgeClientCommand_refuses (fun i s => endCommand .done (setClientTier i t s)) s
    exact ⟨hstate, hindex, fun _ h => absurd hvalid (Nat.not_le_of_gt h), fun i hs hi hf _ => hfree i hs hi hf⟩
  · rw [tierOfCode_none (Nat.lt_of_not_le hvalid)]
    refine ⟨fun hs => ?_, fun hs h => ?_, fun hs h => ?_, fun i hs hi hf h => absurd h hvalid⟩
    · rw [judgeClientCommand_of_not_started hs]; exact endedOnly_endCommand _ s
    · rw [judgeClientCommand_of_badValue hs]; exact endedOnly_endCommand _ s
    · rw [judgeClientCommand_of_badValue hs]; exact endedOnly_endCommand _ s

/-- Settles O27: the five commands are judged alike, SET_TIER with its value, SET_ALLOWANCE with the tier. -/
theorem clientCommandsAreJudged : Obligations.ClientCommandsAreJudged := by
  refine ⟨?_, fun s i hruns hs hi hf htier => ⟨_, answers_if rfl hruns ?_, endedOnly_endCommand .badArgument s⟩⟩
  · simp only [List.forall_mem_cons]
    have hjudged {c : Instr} {act : Fin Config.clientCount → State → State} {s : State} (hc : c ≠ .setTier)
        (h : Answers c s (judgeClientCommand true act s)) : ∃ t, Answers c s t ∧
          (s.started = false → EndedOnly .badState s t) ∧
          (s.started = true → 383 < s.mp.taken0.toNat → EndedOnly .badArgument s t) ∧
          (s.started = true → c = .setTier → 2 < s.mp.taken1.toNat → EndedOnly .badArgument s t) ∧
          (∀ i, s.started = true → s.mp.taken0.toNat = i.val → (s.client i).state = .free →
            (c = .setTier → s.mp.taken1.toNat ≤ 2) → EndedOnly .notAttached s t) := by
      obtain ⟨hstate, hindex, hfree⟩ := judgeClientCommand_refuses act s
      exact ⟨_, h, hstate, hindex, fun _ hno => absurd hno hc, fun i hs hi hf _ => hfree i hs hi hf⟩
    refine ⟨fun s hruns => hjudged (by simp) (answers_if rfl hruns rfl),
      fun s hruns => hjudged (by simp) (answers_if rfl hruns rfl), fun s hruns => ?_,
      fun s hruns => hjudged (by simp) (answers_if rfl hruns rfl),
      fun s hruns => hjudged (by simp) (answers_if rfl hruns rfl), fun _ hno => nomatch hno⟩
    obtain ⟨t, ht, hstate, hindex, hvalue, hfree⟩ := setTier_refuses hruns
    exact ⟨t, ht, hstate, hindex, fun hs _ => hvalue hs, fun i hs hi hf hv => hfree i hs hi hf (hv trivial)⟩
  · rw [judgeClientCommand_acts hs hi hf, if_pos htier]

/-! ### What an operation on one entry leaves alone -/

/-- Client table and share engine may have changed, and nothing else. -/
def ClientsOnly (s t : State) : Prop := ∃ se ct, t = { s with se := se, ct := ct }

theorem ClientsOnly.refl (s : State) : ClientsOnly s s := ⟨s.se, s.ct, rfl⟩

theorem ClientsOnly.trans {s t u : State} (h : ClientsOnly s t) (k : ClientsOnly t u) : ClientsOnly s u := by
  obtain ⟨_, _, rfl⟩ := h
  obtain ⟨se, ct, rfl⟩ := k
  exact ⟨se, ct, rfl⟩

theorem ClientsOnly.eq {s t : State} (h : ClientsOnly s t) : t = { s with se := t.se, ct := t.ct } := by
  obtain ⟨_, _, rfl⟩ := h
  rfl

theorem clientsOnly_setClient (i : Fin Config.clientCount) (e : ClientEntry) (s : State) : ClientsOnly s (s.setClient i e) :=
  ⟨s.se, _, rfl⟩

theorem clientsOnly_setRemainder (d : Dir) (r : Nat) (s : State) : ClientsOnly s (s.setRemainder d r) := ⟨_, s.ct, rfl⟩

theorem clientsOnly_strike (i : Fin Config.clientCount) (s : State) : ClientsOnly s (strike i s) := ⟨_, s.ct, rfl⟩

theorem clientsOnly_drawGrant (d : Dir) (i : Fin Config.clientCount) (g : Nat) (s : State) :
    ClientsOnly s (drawGrant d i g s) := (clientsOnly_setClient i _ s).trans (clientsOnly_setRemainder d _ _)

theorem clientsOnly_takeJoinGrants (i : Fin Config.clientCount) (s : State) : ClientsOnly s (takeJoinGrants i s) :=
  (clientsOnly_drawGrant .up i _ s).trans (clientsOnly_drawGrant .down i _ _)

theorem clientsOnly_returnGrant (keep : Nat) (d : Dir) (i : Fin Config.clientCount) (s : State) :
    ClientsOnly s (returnGrant keep d i s) := (clientsOnly_setClient i _ s).trans (clientsOnly_setRemainder d _ _)

theorem clientsOnly_returnGrants (keep : Nat) (i : Fin Config.clientCount) (s : State) :
    ClientsOnly s (returnGrant keep .down i (returnGrant keep .up i s)) :=
  (clientsOnly_returnGrant keep .up i s).trans (clientsOnly_returnGrant keep .down i _)

theorem clientsOnly_leaveSharing (i : Fin Config.clientCount) (s : State) : ClientsOnly s (leaveSharing i s) :=
  (clientsOnly_returnGrants 0 i s).trans (clientsOnly_strike i _)

/-- The entry may have changed, with the remainders and the membership list, and nothing else. -/
structure EntryChange (i : Fin Config.clientCount) (s t : State) : Prop where
  only : ClientsOnly s t
  others : OthersKept i s t
  shares : SharesKept s t

theorem SharesKept.refl (s : State) : SharesKept s s := ⟨rfl, fun _ => rfl⟩

theorem SharesKept.of_shareDir {s t : State} (hpass : t.se.pass = s.se.pass) (r : Dir → Nat)
    (h : ∀ d, t.shareDir d = { s.shareDir d with remainder := r d }) : SharesKept s t :=
  ⟨hpass, fun d => by rw [h d]⟩

theorem SharesKept.trans {s t u : State} (h : SharesKept s t) (k : SharesKept t u) : SharesKept s u :=
  ⟨k.1.trans h.1, fun d => by rw [k.2 d, h.2 d]⟩

theorem OthersKept.trans {i : Fin Config.clientCount} {s t u : State} (h : OthersKept i s t) (k : OthersKept i t u) :
    OthersKept i s u := ⟨k.1.trans h.1, fun j hj => (k.2 j hj).trans (h.2 j hj)⟩

theorem EntryChange.refl (i : Fin Config.clientCount) (s : State) : EntryChange i s s :=
  ⟨.refl s, ⟨rfl, fun _ _ => rfl⟩, .refl s⟩

theorem EntryChange.trans {i : Fin Config.clientCount} {s t u : State} (h : EntryChange i s t) (k : EntryChange i t u) :
    EntryChange i s u := ⟨h.only.trans k.only, h.others.trans k.others, h.shares.trans k.shares⟩

theorem entryChange_setClient (i : Fin Config.clientCount) (e : ClientEntry) (s : State) :
    EntryChange i s (s.setClient i e) := ⟨clientsOnly_setClient i e s, othersKept_setClient i e s, ⟨rfl, fun _ => rfl⟩⟩

theorem entryChange_takeJoinGrants (i : Fin Config.clientCount) (s : State) : EntryChange i s (takeJoinGrants i s) where
  only := clientsOnly_takeJoinGrants i s
  others := ⟨rfl, fun j hj => by rw [client_takeJoinGrants, if_neg hj]⟩
  shares := .of_shareDir rfl _ fun d => shareDir_takeJoinGrants i s d

theorem entryChange_leaveSharing (i : Fin Config.clientCount) (s : State) : EntryChange i s (leaveSharing i s) where
  only := clientsOnly_leaveSharing i s
  others := ⟨rfl, fun j hj => by rw [client_leaveSharing, if_neg hj]⟩
  shares := .of_shareDir rfl _ fun d => shareDir_leaveSharing i s d

theorem entryChange_returnGrants (keep : Nat) (i : Fin Config.clientCount) (s : State) :
    EntryChange i s (returnGrant keep .down i (returnGrant keep .up i s)) where
  only := clientsOnly_returnGrants keep i s
  others := ⟨rfl, fun j hj => by rw [client_returnGrants, if_neg hj]⟩
  shares := .of_shareDir rfl _ fun d => shareDir_returnGrants keep i s d

theorem entryChange_joinWithFullBuckets (i : Fin Config.clientCount) (s : State) :
    EntryChange i s (joinWithFullBuckets i s) :=
  (entryChange_takeJoinGrants i s).trans (entryChange_setClient i _ _)

/-- A command that changes one entry and is DONE. -/
theorem EntryChange.ends {i : Fin Config.clientCount} {s u : State} (h : EntryChange i s u) :
    OthersKept i s (endCommand .done u) ∧ SharesKept s (endCommand .done u) ∧ Ended .done s (endCommand .done u) ∧
      endCommand .done u = { s with
        se := (endCommand .done u).se, ct := (endCommand .done u).ct, mp := (endCommand .done u).mp } := by
  refine ⟨h.others, h.shares, ?_⟩
  obtain ⟨se, ct, rfl⟩ := h.only
  exact ⟨ended_endCommand _ rfl fun _ hf => hf, rfl⟩

/-! ### Grants read back -/

@[simp] theorem endCommand_grant (o : CommandOutcome) (s : State) (d : Dir) (i : Fin Config.clientCount) :
    (endCommand o s).grant d i = s.grant d i := rfl

/-- An entry whose grants have been written shows them. -/
theorem client_of_withGrants {i : Fin Config.clientCount} {u : State} {e : ClientEntry} {up down : Nat}
    (h : u.client i = e.withGrants up down) : u.client i = e.withGrants (u.grant .up i) (u.grant .down i) := by
  simp only [State.grant, h, ClientEntry.grant_withGrants]
  rfl

/-- Any entry shows its grants. -/
theorem client_of_eq {i : Fin Config.clientCount} {u : State} {e : ClientEntry} (h : u.client i = e) :
    u.client i = e.withGrants (u.grant .up i) (u.grant .down i) := by
  rw [State.grant, State.grant, h]
  rfl

/-- R34, R36: the join grant that an entry gets. -/
def State.joinFor (s : State) (capped : Bool) (d : Dir) : Nat :=
  let join := min s.mp.cfg.joinRate.toNat (s.shareDir d).remainder
  if capped = true then min s.mp.cfg.cappedRate.toNat join else join

theorem joinAmount_setClient (i : Fin Config.clientCount) (e : ClientEntry) (s : State) (d : Dir) :
    (s.setClient i e).joinAmount d i = s.joinFor e.capped d := by
  rw [joinAmount_eq, client_setClient_self]
  rfl

/-- An entry that takes join grants once it has been written. -/
theorem client_rejoins (i : Fin Config.clientCount) (e : ClientEntry) (s : State) :
    (takeJoinGrants i (s.setClient i e)).client i = e.withGrants (s.joinFor e.capped .up) (s.joinFor e.capped .down) := by
  rw [client_takeJoinGrants, if_pos rfl, client_setClient_self, joinAmount_setClient, joinAmount_setClient]

theorem grant_rejoins (i : Fin Config.clientCount) (e : ClientEntry) (s : State) (d : Dir) :
    (takeJoinGrants i (s.setClient i e)).grant d i = s.joinFor e.capped d := by
  rw [State.grant, client_rejoins, ClientEntry.grant_withGrants]
  cases d <;> rfl

theorem remainder_rejoins (i : Fin Config.clientCount) (e : ClientEntry) (s : State) (d : Dir) :
    ((takeJoinGrants i (s.setClient i e)).shareDir d).remainder = (s.shareDir d).remainder - s.joinFor e.capped d := by
  rw [shareDir_takeJoinGrants, joinAmount_setClient]
  rfl

/-- An entry written once it has left sharing, with no grant in it. -/
theorem grant_leaves (i : Fin Config.clientCount) {e : ClientEntry} (he : ∀ d, (e.dir d).grant = 0) (s : State) (d : Dir) :
    ((leaveSharing i s).setClient i e).grant d i = 0 := by rw [grant_setClient, if_pos rfl, he]

theorem remainder_leaves (i : Fin Config.clientCount) (e : ClientEntry) (s : State) (d : Dir) :
    (((leaveSharing i s).setClient i e).shareDir d).remainder = (s.shareDir d).remainder + s.grant d i := by
  rw [setClient_shareDir, shareDir_leaveSharing]

theorem struck_leaves (i : Fin Config.clientCount) (e : ClientEntry) (s : State) :
    Struck i s ((leaveSharing i s).setClient i e) := leaveSharing_snapshot i s

theorem ClientEntry.grant_withoutGrants (e : ClientEntry) (d : Dir) : ((e.withGrants 0 0).dir d).grant = 0 := by
  rw [ClientEntry.grant_withGrants]
  cases d <;> rfl

/-! ### BLOCK and UNBLOCK (R109, R110) -/

theorem blockClient_of_blocked {i : Fin Config.clientCount} {s : State} (h : (s.client i).blocked = true) :
    blockClient i s = s := if_pos h

theorem blockClient_of_not_blocked {i : Fin Config.clientCount} {s : State} (h : (s.client i).blocked = false) :
    blockClient i s = (leaveSharing i s).setClient i { (s.client i).withGrants 0 0 with blocked := true } := by
  simp [blockClient, h, client_leaveSharing_self]

theorem blockClient_change (i : Fin Config.clientCount) (s : State) : EntryChange i s (blockClient i s) := by
  unfold blockClient
  split
  · exact .refl i s
  · exact (entryChange_leaveSharing i s).trans (entryChange_setClient i _ _)

theorem blockClient_entry (i : Fin Config.clientCount) (s : State) :
    (blockClient i s).client i = ({ s.client i with blocked := true } : ClientEntry).withGrants
      ((blockClient i s).grant .up i) ((blockClient i s).grant .down i) := by
  refine client_of_withGrants (up := if (s.client i).blocked = true then s.grant .up i else 0)
    (down := if (s.client i).blocked = true then s.grant .down i else 0) ?_
  cases h : (s.client i).blocked with
  | true =>
    rw [blockClient_of_blocked h]
    exact ClientEntry.ext rfl rfl h rfl rfl rfl rfl rfl rfl rfl rfl rfl rfl rfl
  | false => rw [blockClient_of_not_blocked h, client_setClient_self]; rfl

theorem blockClient_returns {i : Fin Config.clientCount} {s : State} (h : (s.client i).blocked = false) :
    Struck i s (blockClient i s) ∧ ∀ d, (blockClient i s).grant d i = 0 ∧
      ((blockClient i s).shareDir d).remainder = (s.shareDir d).remainder + s.grant d i := by
  rw [blockClient_of_not_blocked h]
  exact ⟨struck_leaves i _ s, fun d => ⟨grant_leaves i
    (e := { (s.client i).withGrants 0 0 with blocked := true }) (fun d => ClientEntry.grant_withoutGrants (s.client i) d) s d,
    remainder_leaves i _ s d⟩⟩

theorem unblockClient_of_not_blocked {i : Fin Config.clientCount} {s : State} (h : (s.client i).blocked = false) :
    unblockClient i s = s := by simp [unblockClient, h]

theorem unblockClient_of_joining {i : Fin Config.clientCount} {s : State} (h : (s.client i).blocked = true)
    (hjoins : (s.client i).state = .active ∧ (s.client i).tier ≠ .operations) :
    unblockClient i s = takeJoinGrants i (s.setClient i { s.client i with blocked := false, idleCount := 0 }) := by
  simp [unblockClient, h, ClientEntry.sharing, hjoins]

theorem unblockClient_of_staying {i : Fin Config.clientCount} {s : State} (h : (s.client i).blocked = true)
    (hstays : ¬ ((s.client i).state = .active ∧ (s.client i).tier ≠ .operations)) :
    unblockClient i s = s.setClient i { s.client i with blocked := false, idleCount := 0 } := by
  have hno : ({ s.client i with blocked := false, idleCount := 0 } : ClientEntry).sharing = false := by
    simpa [ClientEntry.sharing] using hstays
  simp [unblockClient, h, hno]

theorem unblockClient_change (i : Fin Config.clientCount) (s : State) : EntryChange i s (unblockClient i s) := by
  unfold unblockClient
  dsimp only
  split
  · exact .refl i s
  · split
    · exact (entryChange_setClient i _ s).trans (entryChange_takeJoinGrants i _)
    · exact entryChange_setClient i _ s

theorem unblockClient_snapshot (i : Fin Config.clientCount) (s : State) :
    (unblockClient i s).se.snapshot = s.se.snapshot := by
  unfold unblockClient
  dsimp only
  split
  · rfl
  · split
    · exact (takeJoinGrants_pass i _).2.1
    · rfl

theorem unblockClient_entry {i : Fin Config.clientCount} {s : State} (h : (s.client i).blocked = true) :
    (unblockClient i s).client i = ({ s.client i with blocked := false, idleCount := 0 } : ClientEntry).withGrants
      ((unblockClient i s).grant .up i) ((unblockClient i s).grant .down i) := by
  by_cases hjoins : (s.client i).state = .active ∧ (s.client i).tier ≠ .operations
  · rw [unblockClient_of_joining h hjoins]
    exact client_of_withGrants (client_rejoins i _ s)
  · rw [unblockClient_of_staying h hjoins]
    exact client_of_eq (client_setClient_self s i _)

/-- Grant and remainder of a direction, where the entry joins and where it does not. -/
theorem unblockClient_draws {i : Fin Config.clientCount} {s : State} (h : (s.client i).blocked = true) (d : Dir) :
    if (s.client i).state = .active ∧ (s.client i).tier ≠ .operations then
      (unblockClient i s).grant d i = s.joinFor (s.client i).capped d ∧
        ((unblockClient i s).shareDir d).remainder = (s.shareDir d).remainder - (unblockClient i s).grant d i
    else (unblockClient i s).grant d i = s.grant d i ∧
      ((unblockClient i s).shareDir d).remainder = (s.shareDir d).remainder := by
  split
  · next hjoins =>
    rw [unblockClient_of_joining h hjoins, remainder_rejoins, grant_rejoins]
    exact ⟨rfl, rfl⟩
  · next hstays =>
    rw [unblockClient_of_staying h hstays, grant_setClient, if_pos rfl]
    exact ⟨rfl, rfl⟩

theorem answers_clientCommand {c : Instr} {s : State} {code : Nat} {i : Fin Config.clientCount}
    {act : Fin Config.clientCount → State → State}
    (h : exec c s = .next (if s.commandRuns code = true then judgeClientCommand true act s else s))
    (hruns : s.commandRuns code = true) (hs : s.started = true) (hi : s.mp.taken0.toNat = i.val)
    (hf : (s.client i).state ≠ .free) : Answers c s (act i s) :=
  answers_if h hruns (judgeClientCommand_acts hs hi hf)

/-- Settles O28: BLOCK leaves sharing, UNBLOCK joins where the entry then shares. -/
theorem blockReturnsAndUnblockDrawsGrants : Obligations.BlockReturnsAndUnblockDrawsGrants := by
  refine ⟨fun s i hruns hs hi hf => ⟨_, answers_clientCommand rfl hruns hs hi hf, ?_⟩,
    fun s i hruns hs hi hf => ⟨_, answers_clientCommand rfl hruns hs hi hf, ?_⟩⟩
  · have hchange := blockClient_change i s
    have hentry := blockClient_entry i s
    have hreturns := blockClient_returns (i := i) (s := s)
    have hsame := blockClient_of_blocked (i := i) (s := s)
    generalize blockClient i s = u at *
    exact ⟨fun h => by rw [hsame h]; exact ⟨rfl, rfl⟩, hreturns, hentry, hchange.ends⟩
  · have hchange := unblockClient_change i s
    have hentry := unblockClient_entry (i := i) (s := s)
    have hdraws := unblockClient_draws (i := i) (s := s)
    have hsame := unblockClient_of_not_blocked (i := i) (s := s)
    have hsnapshot := unblockClient_snapshot i s
    generalize unblockClient i s = u at *
    exact ⟨fun h => by rw [hsame h]; exact ⟨rfl, rfl⟩, fun h => ⟨hentry h, hdraws h⟩, hsnapshot, hchange.ends⟩

/-! ### SET_TIER (R111) -/

theorem setClientTier_of_same {i : Fin Config.clientCount} {t : Tier} {s : State} (h : (s.client i).tier = t) :
    setClientTier i t s = s := if_pos h

theorem setClientTier_of_between {i : Fin Config.clientCount} {t : Tier} {s : State} (h : (s.client i).tier ≠ t)
    (hold : (s.client i).tier ≠ .operations) (hnew : t ≠ .operations) :
    setClientTier i t s = s.setClient i { s.client i with tier := t } := by simp [setClientTier, h, hold, hnew]

theorem setClientTier_of_leaving {i : Fin Config.clientCount} {s : State} (hold : (s.client i).tier ≠ .operations) :
    setClientTier i .operations s = (leaveSharing i s).setClient i
      { ((s.client i).withGrants 0 0).zeroEstimates with tier := .operations } := by
  simp [setClientTier, hold, client_leaveSharing_self]

theorem setClientTier_of_joining {i : Fin Config.clientCount} {t : Tier} {s : State} (hold : (s.client i).tier = .operations)
    (hnew : t ≠ .operations) (hjoins : (s.client i).state = .active ∧ (s.client i).blocked = false) :
    setClientTier i t s = takeJoinGrants i (s.setClient i { (s.client i).zeroEstimates with tier := t }) := by
  have hshares : ({ (s.client i).zeroEstimates with tier := t } : ClientEntry).sharing = true := by
    simp [ClientEntry.sharing, ClientEntry.zeroEstimates, hjoins, hnew]
  simp [setClientTier, hold, hnew, hnew.symm, hshares]

theorem setClientTier_of_staying {i : Fin Config.clientCount} {t : Tier} {s : State} (hold : (s.client i).tier = .operations)
    (hnew : t ≠ .operations) (hstays : ¬ ((s.client i).state = .active ∧ (s.client i).blocked = false)) :
    setClientTier i t s = s.setClient i { (s.client i).zeroEstimates with tier := t } := by
  have hno : ({ (s.client i).zeroEstimates with tier := t } : ClientEntry).sharing = false := by
    by_contra hshares
    simp [ClientEntry.sharing, ClientEntry.zeroEstimates] at hshares
    obtain ⟨hstate, hblocked, -⟩ := hshares
    exact hstays ⟨hstate, hblocked⟩
  simp [setClientTier, hold, hnew, hnew.symm, hno]

theorem setClientTier_change (i : Fin Config.clientCount) (t : Tier) (s : State) : EntryChange i s (setClientTier i t s) := by
  unfold setClientTier
  dsimp only
  split
  · exact .refl i s
  · split
    · exact (entryChange_leaveSharing i s).trans (entryChange_setClient i _ _)
    · split
      · split
        · exact (entryChange_setClient i _ s).trans (entryChange_takeJoinGrants i _)
        · exact entryChange_setClient i _ s
      · exact entryChange_setClient i _ s

/-- A change between STANDARD and PREMIUM. -/
theorem setClientTier_between {i : Fin Config.clientCount} {t : Tier} {s : State} (hold : (s.client i).tier ≠ .operations)
    (hnew : t ≠ .operations) :
    (setClientTier i t s).client i = { s.client i with tier := t } ∧ (setClientTier i t s).se = s.se := by
  by_cases h : (s.client i).tier = t
  · rw [setClientTier_of_same h]
    exact ⟨ClientEntry.ext rfl h rfl rfl rfl rfl rfl rfl rfl rfl rfl rfl rfl rfl, rfl⟩
  · rw [setClientTier_of_between h hold hnew]
    exact ⟨client_setClient_self s i _, rfl⟩

/-- A change to OPERATIONS. -/
theorem setClientTier_leaves {i : Fin Config.clientCount} {s : State} (hold : (s.client i).tier ≠ .operations) :
    Struck i s (setClientTier i .operations s) ∧ ∀ d, (setClientTier i .operations s).grant d i = 0 ∧
      ((setClientTier i .operations s).shareDir d).remainder = (s.shareDir d).remainder + s.grant d i := by
  rw [setClientTier_of_leaving hold]
  refine ⟨struck_leaves i _ s, fun d => ⟨grant_leaves i (fun d => ?_) s d, remainder_leaves i _ s d⟩⟩
  cases d <;> rfl

/-- A change from OPERATIONS. -/
theorem setClientTier_draws {i : Fin Config.clientCount} {t : Tier} {s : State} (hold : (s.client i).tier = .operations)
    (hnew : t ≠ .operations) : (setClientTier i t s).se.snapshot = s.se.snapshot ∧ ∀ d,
      if (s.client i).state = .active ∧ (s.client i).blocked = false then
        (setClientTier i t s).grant d i = s.joinFor (s.client i).capped d ∧
          ((setClientTier i t s).shareDir d).remainder = (s.shareDir d).remainder - (setClientTier i t s).grant d i
      else (setClientTier i t s).grant d i = s.grant d i ∧
        ((setClientTier i t s).shareDir d).remainder = (s.shareDir d).remainder := by
  by_cases hjoins : (s.client i).state = .active ∧ (s.client i).blocked = false
  · rw [setClientTier_of_joining hold hnew hjoins]
    refine ⟨(takeJoinGrants_pass i _).2.1, fun d => ?_⟩
    rw [if_pos hjoins, remainder_rejoins, grant_rejoins]
    exact ⟨rfl, rfl⟩
  · rw [setClientTier_of_staying hold hnew hjoins]
    refine ⟨rfl, fun d => ?_⟩
    rw [if_neg hjoins, grant_setClient, if_pos rfl]
    exact ⟨by cases d <;> rfl, rfl⟩

/-- The entry whose tier has changed to or from OPERATIONS. -/
theorem setClientTier_entry {i : Fin Config.clientCount} {t : Tier} {s : State}
    (h : (s.client i).tier = .operations ∧ t ≠ .operations ∨ (s.client i).tier ≠ .operations ∧ t = .operations) :
    (setClientTier i t s).client i = ({ (s.client i).zeroEstimates with tier := t } : ClientEntry).withGrants
      ((setClientTier i t s).grant .up i) ((setClientTier i t s).grant .down i) := by
  rcases h with ⟨hold, hnew⟩ | ⟨hold, rfl⟩
  · by_cases hjoins : (s.client i).state = .active ∧ (s.client i).blocked = false
    · rw [setClientTier_of_joining hold hnew hjoins]
      exact client_of_withGrants (client_rejoins i _ s)
    · rw [setClientTier_of_staying hold hnew hjoins]
      exact client_of_eq (client_setClient_self s i _)
  · rw [setClientTier_of_leaving hold]
    exact client_of_withGrants (up := 0) (down := 0) (client_setClient_self _ i _)

/-- Settles O29: the four changes of tier. -/
theorem setTierMovesGrants : Obligations.SetTierMovesGrants := by
  intro s i tier hruns hs hi hcode hf
  refine ⟨endCommand .done (setClientTier i tier s),
    answers_if rfl hruns (by rw [tierOfCode_code hcode]; exact judgeClientCommand_acts hs hi hf), ?_⟩
  have hchange := setClientTier_change i tier s
  have hsame := setClientTier_of_same (i := i) (t := tier) (s := s)
  have hbetween := setClientTier_between (i := i) (t := tier) (s := s)
  have hleaves (hold : (s.client i).tier ≠ .operations) (hnew : tier = .operations) := by
    have := setClientTier_leaves hold
    rwa [← hnew] at this
  have hdraws := setClientTier_draws (i := i) (t := tier) (s := s)
  have hentry := setClientTier_entry (i := i) (t := tier) (s := s)
  generalize setClientTier i tier s = u at *
  exact ⟨fun h => by rw [hsame h]; exact ⟨rfl, rfl⟩, hbetween, hleaves, hdraws, hentry, hchange.ends⟩

/-! ### SET_ALLOWANCE (R138, R146) -/

/-- Settles O30: the counter is loaded and CAPPED cleared. -/
theorem setAllowanceLoadsTheCounter : Obligations.SetAllowanceLoadsTheCounter := by
  intro s i hruns hs hi hf htier
  refine ⟨endCommand .done (loadClientAllowance i s.mp.taken1 s), answers_if rfl hruns ?_, ?_, ?_, ?_, rfl⟩
  · rw [judgeClientCommand_acts hs hi hf, if_neg htier]
  · rw [endCommand_client, loadClientAllowance, client_setClient_self]
    rfl
  · exact (entryChange_setClient i _ s).ends.1
  · exact ended_endCommand _ rfl fun _ hf => hf

/-! ### The command channel (R188) -/

theorem writeCommandCode_of_running {s : State} (code : Word) (h : s.mp.running = true) :
    writeCommandCode code s = { s with mp := { s.mp with busy := true } } := by
  simp [writeCommandCode, h, State.setMp]

theorem writeCommandCode_of_listed {s : State} {code : Word} (h : s.mp.running = false) (hlisted : commandCodeListed code = true) :
    writeCommandCode code s = { s with mp := { s.mp with
      code := code, running := true, busy := false, outcome := .none, check := 0, started := code.toNat
      taken0 := s.mp.arg0, taken1 := s.mp.arg1 } } := by
  simp [writeCommandCode, h, hlisted, acceptCommand, State.setMp]

theorem writeCommandCode_of_unlisted {s : State} {code : Word} (h : s.mp.running = false)
    (hunlisted : commandCodeListed code = false) :
    writeCommandCode code s = { s with mp := { s.mp with
      code := code, running := false, busy := false, outcome := .badArgument, check := 0, started := 0
      taken0 := s.mp.arg0, taken1 := s.mp.arg1, flags := s.mp.flags ||| BitVec.twoPow 16 14 } } := by
  simp [writeCommandCode, h, hunlisted, acceptCommand, State.setMp, endCommand, raise, IrqFlag.bit]

/-- Settles O60: a code that finds no command running is accepted, or ends at once where no command has it. -/
theorem commandsStartOneAtATime : Obligations.CommandsStartOneAtATime := by
  refine ⟨fun v s hreset hidle hlow hhigh => ⟨_, answers_released rfl hreset (writeCommandCode_of_listed hidle ?_), rfl⟩,
    fun v s hreset hruns => ⟨_, answers_released rfl hreset (writeCommandCode_of_running v hruns), rfl⟩,
    fun v s hreset hidle hv => ?_⟩
  · simp [commandCodeListed, hlow, hhigh]
  · have hunlisted : commandCodeListed v = false := by
      rcases hv with rfl | hv
      · rfl
      · simp [commandCodeListed, hv]
    simp only [List.forall_mem_cons]
    refine ⟨⟨_, answers_released rfl hreset (writeCommandCode_of_unlisted hidle hunlisted), rfl⟩,
      ⟨_, answers_released rfl hreset ?_, rfl⟩, fun _ hno => nomatch hno⟩
    rw [if_neg (by simp [hunlisted]), writeCommandCode_of_unlisted hidle hunlisted]

end Sys2Proof.Machine
end

section
/-! ## Proofs: requests, attachment and removal (R97 to R100, R119 to R124), and the wake (R107) -/

namespace Sys2Proof.Machine

/-! ### Presentation (R119, R121, R122) -/

theorem completeRecord_of_completed {s : State} {tag code c0 c1 a0 a1 : Byte} {rest : List Byte} (hrest : rest ≠ [])
    (hbytes : s.me.partialRecord ++ rest = [tag, code, c0, c1, a0, a1]) (hbegun : s.me.partialRecord ≠ []) :
    completeRecord [tag, code, c0, c1, a0, a1] s = presentRequest ⟨tag, code, c1 ++ c0, a1 ++ a0⟩ s := by
  have hshort : s.me.partialRecord ≠ [tag, code, c0, c1, a0, a1] := fun hwhole =>
    hrest (List.self_eq_append_right.1 (hwhole.trans hbytes.symm))
  rw [completeRecord, if_pos ⟨hbegun, ⟨rest, hbytes⟩, hshort⟩]
  rfl

theorem completeRecord_of_other {s : State} {bytes : List Byte}
    (h : s.me.partialRecord = [] ∨ ∀ rest, rest ≠ [] → s.me.partialRecord ++ rest ≠ bytes) :
    completeRecord bytes s = s := by
  refine if_neg fun ⟨hbegun, ⟨rest, hbytes⟩, hshort⟩ => ?_
  rcases h with hnone | hno
  · exact hbegun hnone
  · refine hno rest (fun hempty => hshort ?_) hbytes
    rw [hempty, List.append_nil] at hbytes
    exact hbytes

theorem presentRequest_accepted {s : State} (r : Request) (hs : s.started = true) (hroom : s.me.queue.length < 32) :
    presentRequest r s = { s with me := { s.me with partialRecord := [], queue := s.me.queue ++ [r] } } := by
  rw [presentRequest, if_neg (by simp [hs]), if_pos hroom]
  rfl

theorem presentRequest_refused {s : State} (r : Request) (h : s.started = false ∨ 32 ≤ s.me.queue.length)
    (hfree : s.me.refusal = none) :
    presentRequest r s = { s with me := { s.me with
      partialRecord := []
      refusal := some ⟨r.tag, if s.started = false then .notReady else .busy, .none, r.code⟩ } } := by
  have hrefuse (o : RspOutcome) : refuseRequest o r s = { s with me := { s.me with
      partialRecord := [], refusal := some ⟨r.tag, o, .none, r.code⟩ } } := by
    simp [refuseRequest, hfree, State.setMe]
  cases hs : s.started with
  | false => rw [presentRequest, if_pos (by simp [hs]), hrefuse]; rfl
  | true =>
    have hfull : ¬ s.me.queue.length < Config.requestDepth := Nat.not_lt.2 (h.resolve_left (by simp [hs]))
    rw [presentRequest, if_neg (by simp [hs]), if_neg hfull, hrefuse]
    rfl

theorem requestKind_eq (code : Byte) : requestKind code = (match code.toNat with
    | 1 => .meter .up
    | 2 => .meter .down
    | 3 => .attach .standard
    | 4 => .attach .premium
    | 5 => .attach .operations
    | 6 => .move
    | 7 => .detach
    | _ => .unknown) := by
  have hiff (k : Byte) : code = k ↔ code.toNat = k.toNat := BitVec.toNat_inj.symm
  split <;> simp_all [requestKind]

/-- Settles O41: a record completed is presented; a refusal is sent on its turn. -/
theorem requestsAreAcceptedOrRefused : Obligations.RequestsAreAcceptedOrRefused := by
  refine ⟨fun b more s hreset hmore => ⟨_, answers_released rfl hreset rfl, ?_⟩,
    fun tag code c0 c1 a0 a1 rest s hreset hrest hbytes hbegun => ⟨fun hs hroom => ?_, fun h hfree => ?_⟩,
    fun tag code c0 c1 a0 a1 s h => ?_, fun r => ⟨?_, ?_, ?_, ?_⟩, requestKind_eq,
    fun s p h => ⟨{ s with me := { s.me with refusal := none, lane := some p } }, ?_, rfl⟩⟩
  · rw [startRecord, List.take_of_length_le hmore]
    rfl
  · refine ⟨_, answers_released rfl hreset ?_, rfl⟩
    rw [completeRecord_of_completed hrest hbytes hbegun, presentRequest_accepted _ hs hroom]
  · refine ⟨_, answers_released rfl hreset ?_, rfl⟩
    rw [completeRecord_of_completed hrest hbytes hbegun, presentRequest_refused _ h hfree]
  · have hnone : exec (.requestPresented tag code (c0, c1) (a0, a1)) s = .next (outOfReset s s) :=
      congrArg (fun t => Host.Outcome.next (outOfReset s t)) (completeRecord_of_other h)
    rw [Answers, hnone]
    simp [outOfReset]
  · simp [Request.index]
  · simp [Request.length]
  · simp [Request.port]
  · simp [Request.group, Nat.shiftRight_eq_div_pow]
  · show Host.Outcome.next (match s.me.refusal with
      | some p => s.setMe { s.me with refusal := none, lane := some p }
      | none => s) = _
    rw [h]
    rfl

/-! ### A request at the head of the queue (R120, R123, R124) -/

/-- The metering engine once the head of the queue has been answered. -/
def State.answered (s : State) (r : Request) (o : RspOutcome) (why : Reason) : MeterEngine :=
  { s.me with queue := s.me.queue.tail, lane := some ⟨r.tag, o, why, r.code⟩ }

theorem respond_dequeue (r : Request) (o : RspOutcome) (why : Reason) (s : State) :
    respond r o why (dequeue s) = { s with me := s.answered r o why } := rfl

theorem exec_meter {s : State} {r : Request} {d : Dir} (hhead : s.turnHead = some r) (hkind : requestKind r.code = .meter d) :
    exec .meter s = .next (serveMeter r d (dequeue s)) := by
  show execMeter s = _
  simp only [execMeter, hhead, hkind]

theorem exec_attach {s : State} {r : Request} {t : Tier} (hhead : s.turnHead = some r)
    (hkind : requestKind r.code = .attach t) : exec .attach s = .next (serveAttach r t (dequeue s)) := by
  show execAttach s = _
  simp only [execAttach, hhead, hkind]

theorem exec_move {s : State} {r : Request} (hhead : s.turnHead = some r) (hkind : requestKind r.code = .move) :
    exec .move s = .next (serveMove r (dequeue s)) := by
  show execMove s = _
  simp only [execMove, hhead, hkind]

theorem exec_detach {s : State} {r : Request} (hhead : s.turnHead = some r) (hkind : requestKind r.code = .detach) :
    exec .detach s = .next (serveDetach r (dequeue s)) := by
  show execDetach s = _
  simp only [execDetach, hhead, hkind]

theorem exec_unknownRequest {s : State} {r : Request} (hhead : s.turnHead = some r)
    (hkind : requestKind r.code = .unknown) :
    exec .unknownRequest s = .next (respond r .refused .badKind (dequeue s)) := by
  show execUnknownRequest s = _
  simp only [execUnknownRequest, hhead, hkind]

theorem onClient_of_badIndex {r : Request} {s : State} (serve : Fin Config.clientCount → State → State) (h : 384 ≤ r.index) :
    onClient r serve s = respond r .refused .badIndex s := by simp [onClient, Request.clientIndex_none h]

theorem onClient_of_index {r : Request} {s : State} {i : Fin Config.clientCount}
    (serve : Fin Config.clientCount → State → State) (h : r.index = i.val) : onClient r serve s = serve i s := by
  simp [onClient, Request.clientIndex_eq h]

theorem answers_of_served {c : Instr} {s t u : State} (h : exec c s = .next u) (ht : u = t) : Answers c s t := by
  rw [Answers, h, ht]

/-- Settles O42: a failed check answers REFUSED, and the request is gone. -/
theorem checksRefuseRequests : Obligations.ChecksRefuseRequests := by
  refine ⟨fun p => ?_, fun s r hhead => ⟨fun hkind => ⟨_, exec_unknownRequest hhead hkind, rfl⟩, ?_,
    fun d hkind hindex hlength => ?_⟩⟩
  · obtain ⟨tag, outcome, reason, code⟩ := p
    cases outcome <;> cases reason <;> rfl
  · simp only [List.forall_mem_cons]
    exact ⟨fun hkind hi => ⟨_, answers_of_served (exec_meter hhead hkind) (onClient_of_badIndex _ hi), rfl⟩,
      fun hkind hi => ⟨_, answers_of_served (exec_meter hhead hkind) (onClient_of_badIndex _ hi), rfl⟩,
      fun hkind hi => ⟨_, answers_of_served (exec_attach hhead hkind) (onClient_of_badIndex _ hi), rfl⟩,
      fun hkind hi => ⟨_, answers_of_served (exec_attach hhead hkind) (onClient_of_badIndex _ hi), rfl⟩,
      fun hkind hi => ⟨_, answers_of_served (exec_attach hhead hkind) (onClient_of_badIndex _ hi), rfl⟩,
      fun hkind hi => ⟨_, answers_of_served (exec_move hhead hkind) (onClient_of_badIndex _ hi), rfl⟩,
      fun hkind hi => ⟨_, answers_of_served (exec_detach hhead hkind) (onClient_of_badIndex _ hi), rfl⟩,
      fun _ hno => nomatch hno⟩
  · refine ⟨{ s with me := s.answered r .refused .badLength }, answers_of_served (exec_meter hhead hkind) ?_, rfl⟩
    rw [serveMeter, onClient_of_index (i := ⟨r.index, hindex⟩) _ rfl, if_pos hlength, respond_dequeue]

/-! ### Attachment (R97 to R99) -/

/-- What the client table answers reaches the lane. -/
theorem answerWith_eq (r : Request) {a : State × RspOutcome × Reason} {u : State} {o : RspOutcome} {why : Reason}
    (h : a = (u, o, why)) : answerWith r a = respond r o why u := by rw [h]; rfl

theorem serveAttach_eq {r : Request} {t : Tier} {i : Fin Config.clientCount} {s u : State} {o : RspOutcome} {why : Reason}
    (hi : r.index = i.val) (h : attachClient i t r.group r.port s = (u, o, why)) :
    serveAttach r t s = respond r o why u := by rw [serveAttach, onClient_of_index _ hi, answerWith_eq r h]

theorem serveMove_eq {r : Request} {i : Fin Config.clientCount} {s u : State} {o : RspOutcome} {why : Reason}
    (hi : r.index = i.val) (h : moveClient i r.group r.port s = (u, o, why)) :
    serveMove r s = respond r o why u := by rw [serveMove, onClient_of_index _ hi, answerWith_eq r h]

theorem serveDetach_eq {r : Request} {i : Fin Config.clientCount} {s u : State} {o : RspOutcome} {why : Reason}
    (hi : r.index = i.val) (h : detachClient i s = (u, o, why)) :
    serveDetach r s = respond r o why u := by rw [serveDetach, onClient_of_index _ hi, answerWith_eq r h]

theorem groupExists_iff (c : ConfigWords) (g : BitVec 3) : c.groupExists g = true ↔ g.toNat < c.groupCount.toNat := by
  simp [ConfigWords.groupExists]

section
variable {i : Fin Config.clientCount} {t : Tier} {g : BitVec 3} {p : BitVec 12} {s : State}

theorem attachClient_of_badPoint (h : ¬ g.toNat < s.mp.cfg.groupCount.toNat) :
    attachClient i t g p s = (s, .refused, .badPoint) := by
  rw [← groupExists_iff] at h
  simp [attachClient, h]

theorem attachClient_of_free (hg : g.toNat < s.mp.cfg.groupCount.toNat) (hfree : (s.client i).state = .free) :
    attachClient i t g p s = (attachFree i t g p s, .done, .none) := by
  rw [← groupExists_iff] at hg
  simp [attachClient, hg, hfree]

theorem attachClient_of_same (hg : g.toNat < s.mp.cfg.groupCount.toNat) (hf : (s.client i).state ≠ .free)
    (hhere : (s.client i).group = g ∧ (s.client i).port = p) : attachClient i t g p s = (s, .done, .same) := by
  rw [← groupExists_iff] at hg
  simp [attachClient, hg, hf, hhere]

theorem attachClient_of_inUse (hg : g.toNat < s.mp.cfg.groupCount.toNat) (hf : (s.client i).state ≠ .free)
    (hhere : ¬ ((s.client i).group = g ∧ (s.client i).port = p)) : attachClient i t g p s = (s, .refused, .inUse) := by
  rw [← groupExists_iff] at hg
  simp only [attachClient, hg, hf, hhere, Bool.not_true, if_false, Bool.false_eq_true]

theorem moveClient_of_badPoint (h : ¬ g.toNat < s.mp.cfg.groupCount.toNat) :
    moveClient i g p s = (s, .refused, .badPoint) := by
  rw [← groupExists_iff] at h
  simp [moveClient, h]

theorem moveClient_of_free (hg : g.toNat < s.mp.cfg.groupCount.toNat) (hfree : (s.client i).state = .free) :
    moveClient i g p s = (s, .refused, .notAttached) := by
  rw [← groupExists_iff] at hg
  simp [moveClient, hg, hfree]

theorem moveClient_of_same (hg : g.toNat < s.mp.cfg.groupCount.toNat) (hf : (s.client i).state ≠ .free)
    (hhere : (s.client i).group = g ∧ (s.client i).port = p) : moveClient i g p s = (s, .done, .same) := by
  rw [← groupExists_iff] at hg
  simp [moveClient, hg, hf, hhere]

theorem moveClient_of_other (hg : g.toNat < s.mp.cfg.groupCount.toNat) (hf : (s.client i).state ≠ .free)
    (hhere : ¬ ((s.client i).group = g ∧ (s.client i).port = p)) :
    moveClient i g p s = (s.setClient i { s.client i with group := g, port := p }, .done, .none) := by
  rw [← groupExists_iff] at hg
  simp only [moveClient, hg, hf, hhere, Bool.not_true, if_false, Bool.false_eq_true]

theorem detachClient_of_free (hfree : (s.client i).state = .free) : detachClient i s = (s, .refused, .notAttached) := by
  simp [detachClient, hfree]

theorem detachClient_of_attached (hf : (s.client i).state ≠ .free) :
    detachClient i s = (removeClient i .detached s, .done, .none) := by simp [detachClient, hf]

end

/-- Settles O44: each answer is one branch of the client table's judgement. -/
theorem attachmentAnswers : Obligations.AttachmentAnswers := fun s _ i hhead hi =>
  ⟨fun _ hkind hg => answers_of_served (exec_attach hhead hkind) (serveAttach_eq hi (attachClient_of_badPoint (s := dequeue s) hg)),
    fun _ hkind hg hf hh =>
      answers_of_served (exec_attach hhead hkind) (serveAttach_eq hi (attachClient_of_same (s := dequeue s) hg hf hh)),
    fun _ hkind hg hf hh =>
      answers_of_served (exec_attach hhead hkind) (serveAttach_eq hi (attachClient_of_inUse (s := dequeue s) hg hf hh)),
    fun hkind hg => answers_of_served (exec_move hhead hkind) (serveMove_eq hi (moveClient_of_badPoint (s := dequeue s) hg)),
    fun hkind hg hf => answers_of_served (exec_move hhead hkind) (serveMove_eq hi (moveClient_of_free (s := dequeue s) hg hf)),
    fun hkind hg hf hh => answers_of_served (exec_move hhead hkind) (serveMove_eq hi (moveClient_of_same (s := dequeue s) hg hf hh)),
    fun hkind hg hf hh => ⟨_, answers_of_served (exec_move hhead hkind) (serveMove_eq hi (moveClient_of_other (s := dequeue s) hg hf hh)),
      client_setClient_self (dequeue s) i _, othersKept_setClient i _ (dequeue s), rfl⟩,
    fun hkind hf => answers_of_served (exec_detach hhead hkind) (serveDetach_eq hi (detachClient_of_free (s := dequeue s) hf))⟩

/-! ### A client that becomes ACTIVE (R97, R107, R129, R134) -/

theorem attachFree_change (i : Fin Config.clientCount) (t : Tier) (g : BitVec 3) (p : BitVec 12) (s : State) :
    EntryChange i s (attachFree i t g p s) := by
  rw [attachFree_eq]
  split
  · exact entryChange_setClient i _ s
  · exact (entryChange_setClient i _ s).trans (entryChange_joinWithFullBuckets i _)

/-- An entry written and then joined with full buckets. -/
theorem client_joins (i : Fin Config.clientCount) (e : ClientEntry) (s : State) :
    (joinWithFullBuckets i (s.setClient i e)).client i =
      (e.withGrants (s.joinFor e.capped .up) (s.joinFor e.capped .down)).fillBuckets s.mp.cfg s.tb.stamp := by
  rw [client_joinWithFullBuckets, if_pos rfl, client_setClient_self, joinAmount_setClient, joinAmount_setClient]
  rfl

theorem remainder_joins (i : Fin Config.clientCount) (e : ClientEntry) (s : State) (d : Dir) :
    ((joinWithFullBuckets i (s.setClient i e)).shareDir d).remainder = (s.shareDir d).remainder - s.joinFor e.capped d := by
  rw [shareDir_joinWithFullBuckets, joinAmount_setClient]
  rfl

/-- Its direction afterwards. -/
theorem dir_joins (i : Fin Config.clientCount) (e : ClientEntry) (s : State) (d : Dir) :
    ((joinWithFullBuckets i (s.setClient i e)).client i).dir d =
      fullBuckets s.mp.cfg e.capped s.tb.stamp { e.dir d with grant := s.joinFor e.capped d } := by
  rw [client_joins]
  cases d <;> rfl

/-- The fields outside the two directions. -/
theorem entry_joins (i : Fin Config.clientCount) (e : ClientEntry) (s : State) :
    (joinWithFullBuckets i (s.setClient i e)).client i =
      { e with dirs := ((joinWithFullBuckets i (s.setClient i e)).client i).dirs } := by
  rw [client_joins]
  rfl

theorem freshEntry_volume (s : State) (t : Tier) (g : BitVec 3) (p : BitVec 12) :
    (s.freshEntry t g p).volume = if s.mp.cfg.defaultAllowance = 0 then 0
      else BitVec.ofNat 40 (2 ^ 40 - s.mp.cfg.defaultAllowance.toNat * 1048576) := rfl

theorem snapshot_joinWithFullBuckets (i : Fin Config.clientCount) (s : State) :
    (joinWithFullBuckets i s).se.snapshot = s.se.snapshot := (joinWithFullBuckets_pass i s).2.1

theorem attachFree_snapshot (i : Fin Config.clientCount) (t : Tier) (g : BitVec 3) (p : BitVec 12) (s : State) :
    (attachFree i t g p s).se.snapshot = s.se.snapshot := by
  rw [attachFree_eq]
  split
  · rfl
  · exact snapshot_joinWithFullBuckets i _

/-- The entry that ATTACH makes, but for its two directions. -/
theorem attachFree_entry (i : Fin Config.clientCount) (t : Tier) (g : BitVec 3) (p : BitVec 12) (s : State) :
    (attachFree i t g p s).client i =
      { s.freshEntry t g p with dirs := ((attachFree i t g p s).client i).dirs } := by
  rw [attachFree_eq]
  split
  · rw [client_setClient_self]; rfl
  · exact entry_joins i _ s

/-- Each direction of it: no grant and empty buckets of an OPERATIONS entry, full buckets of a join grant of another. -/
theorem attachFree_dir (i : Fin Config.clientCount) (t : Tier) (g : BitVec 3) (p : BitVec 12) (s : State) (d : Dir) :
    let join := if t = .operations then 0 else min s.mp.cfg.joinRate.toNat (s.shareDir d).remainder
    let depth := if t = .operations then 0 else max 2048 (2 * join * s.mp.cfg.burstMs.toNat)
    ((attachFree i t g p s).client i).dir d = { ClientDir.zero with
        grant := join, committed := depth, excess := depth, committedDepth := depth, excessDepth := depth
        refillStamp := s.tb.stamp } ∧
      ((attachFree i t g p s).shareDir d).remainder = (s.shareDir d).remainder - join := by
  intro join depth
  rw [attachFree_eq]
  by_cases hops : t = .operations
  · simp only [join, depth, if_pos hops, client_setClient_self]
    exact ⟨by cases d <;> rfl, rfl⟩
  · simp only [join, depth, if_neg hops, dir_joins, remainder_joins]
    exact ⟨by cases d <;> rfl, rfl⟩

/-- What is known but for the directions is known but for the volume and the directions. -/
theorem entry_up_to_volume {e f : ClientEntry} (h : e = { f with dirs := e.dirs }) :
    e = { f with volume := e.volume, dirs := e.dirs } :=
  h.trans (congrArg (fun v => { f with volume := v, dirs := e.dirs }) (congrArg ClientEntry.volume h).symm)

/-- Settles O43: ATTACH makes the fresh entry and joins it. -/
theorem attachMakesAFreeEntryActive : Obligations.AttachMakesAFreeEntryActive := by
  intro s r tier i hhead hkind hi hfree hg
  refine ⟨_, answers_of_served (exec_attach hhead hkind)
    (serveAttach_eq hi (attachClient_of_free (s := dequeue s) hg hfree)), ?_⟩
  have hchange := attachFree_change i tier r.group r.port (dequeue s)
  have hentry := attachFree_entry i tier r.group r.port (dequeue s)
  have hdir := attachFree_dir i tier r.group r.port (dequeue s)
  have hsnapshot := attachFree_snapshot i tier r.group r.port (dequeue s)
  generalize attachFree i tier r.group r.port (dequeue s) = u at *
  obtain ⟨se, ct, rfl⟩ := hchange.only
  refine ⟨rfl, ?_, ?_, hdir, hsnapshot, hchange.others, hchange.shares, rfl⟩
  · exact entry_up_to_volume hentry
  · exact (congrArg ClientEntry.volume hentry).trans (freshEntry_volume (dequeue s) tier r.group r.port)

/-! ### The wake (R34, R107, R134) -/

theorem wakeClient_change (i : Fin Config.clientCount) (s : State) : EntryChange i s (wakeClient i s) := by
  rw [wakeClient_eq]
  split
  · exact entryChange_setClient i _ s
  · exact (entryChange_setClient i _ s).trans (entryChange_joinWithFullBuckets i _)

theorem wakeClient_of_operations {i : Fin Config.clientCount} {s : State} (h : (s.client i).tier = .operations) :
    wakeClient i s = s.setClient i { s.client i with state := .active, idleCount := 0 } := by
  rw [wakeClient_eq, if_pos h]

theorem wakeClient_entry (i : Fin Config.clientCount) (s : State) :
    (wakeClient i s).client i =
      { s.client i with state := .active, idleCount := 0, dirs := ((wakeClient i s).client i).dirs } := by
  rw [wakeClient_eq]
  split
  · rw [client_setClient_self]
  · exact entry_joins i _ s

theorem wakeClient_snapshot (i : Fin Config.clientCount) (s : State) : (wakeClient i s).se.snapshot = s.se.snapshot := by
  rw [wakeClient_eq]
  split
  · rfl
  · exact snapshot_joinWithFullBuckets i _

theorem wakeClient_joins {i : Fin Config.clientCount} {s : State} (h : (s.client i).tier ≠ .operations) (d : Dir) :
    ((wakeClient i s).client i).dir d = fullBuckets s.mp.cfg (s.client i).capped s.tb.stamp
        { (s.client i).dir d with grant := s.joinFor (s.client i).capped d } ∧
      ((wakeClient i s).shareDir d).remainder = (s.shareDir d).remainder - s.joinFor (s.client i).capped d := by
  rw [wakeClient_eq, if_neg h, dir_joins, remainder_joins]
  exact ⟨rfl, rfl⟩

theorem turnHead_congr {s t : State} (h : t.me = s.me) : t.turnHead = s.turnHead := by simp [State.turnHead, h]

/-! ### METER on the entry that a turn names (R126) -/

theorem serveMeter_eq {r : Request} {d : Dir} {i : Fin Config.clientCount} {s : State} (hi : r.index = i.val)
    (hlength : r.length ≠ 0) : serveMeter r d s = meterEntry r d i s := by
  rw [serveMeter, onClient_of_index _ hi, if_neg hlength]

theorem answers_meter {s t : State} {r : Request} {d : Dir} {i : Fin Config.clientCount} (hhead : s.turnHead = some r)
    (hkind : requestKind r.code = .meter d) (hi : r.index = i.val) (hlength : r.length ≠ 0)
    (ht : meterEntry r d i (dequeue s) = t) : Answers .meter s t :=
  answers_of_served (exec_meter hhead hkind) ((serveMeter_eq hi hlength).trans ht)

theorem meterEntry_of_free {r : Request} {d : Dir} {i : Fin Config.clientCount} {s : State}
    (h : (s.client i).state = .free) : meterEntry r d i s = respond r .refused .notAttached s := if_pos h

theorem meterEntry_of_blocked {r : Request} {d : Dir} {i : Fin Config.clientCount} {s : State}
    (hf : (s.client i).state ≠ .free) (h : (s.client i).blocked = true) :
    meterEntry r d i s = finishMeter r d i .drop .blocked ((s.client i).dir d).grant s := by simp [meterEntry, hf, h]

theorem meterEntry_of_idle {r : Request} {d : Dir} {i : Fin Config.clientCount} {s : State}
    (h : (s.client i).state = .idle) (hb : (s.client i).blocked = false) :
    meterEntry r d i s = meterActive r d i (wakeClient i s) := by simp [meterEntry, h, hb]

theorem meterEntry_of_active {r : Request} {d : Dir} {i : Fin Config.clientCount} {s : State}
    (h : (s.client i).state = .active) (hb : (s.client i).blocked = false) :
    meterEntry r d i s = meterActive r d i s := by simp [meterEntry, h, hb]

/-- Waking and dequeueing act on different blocks. -/
theorem dequeue_wakeClient (i : Fin Config.clientCount) (s : State) :
    dequeue (wakeClient i s) = wakeClient i (dequeue s) := by
  have hclient : (dequeue s).client i = s.client i := rfl
  rw [wakeClient_eq, wakeClient_eq, hclient]
  split <;> rfl

end Sys2Proof.Machine
end

section
/-! ## Proofs: the METER service (R126 to R136), the crossing (R140 to R145) and the delivery (R152) -/

namespace Sys2Proof.Machine

/-! ### What an offer and a delivery read -/

/-- All that an offered record reads is the same, and, where `p` says so, the whole port. -/
structure OffersAlike (p : Prop) (s t : State) : Prop where
  lw : t.lw = s.lw
  mc : t.mc = s.mc
  cfg : t.mp.cfg = s.mp.cfg
  mp : p → t.mp = s.mp

namespace OffersAlike

variable {p : Prop} {s t : State}

theorem loseRecord (h : OffersAlike p s t) : OffersAlike p (loseRecord s) (loseRecord t) :=
  ⟨by simp only [Machine.loseRecord, raise, h.lw], h.mc, h.cfg, fun hp => by simp only [Machine.loseRecord, raise, h.mp hp]⟩

theorem takeFrom (rs : List Record) {s t : State} (h : OffersAlike p s t) :
    OffersAlike p (takeFrom rs s) (takeFrom rs t) := by
  induction rs generalizing s t with
  | nil => exact ⟨by simp only [Machine.takeFrom, h.lw], h.mc, h.cfg, h.mp⟩
  | cons r rest ih =>
    rw [Machine.takeFrom, Machine.takeFrom, h.lw, h.cfg]
    by_cases hfull : s.lw.index = s.mp.cfg.limit
    · rw [if_pos hfull, if_pos hfull]
      exact ih h.loseRecord
    · rw [if_neg hfull, if_neg hfull]
      exact ⟨rfl, by simp only [placeLogRequest, arbitrate, h.mc], h.cfg, h.mp⟩

theorem offerRecord (h : OffersAlike p s t) (r : Record) : OffersAlike p (offerRecord r s) (offerRecord r t) := by
  have hqueued : OffersAlike p { s with lw := { s.lw with queue := s.lw.queue ++ [r] } }
      { t with lw := { t.lw with queue := t.lw.queue ++ [r] } } := ⟨by simp only [h.lw], h.mc, h.cfg, h.mp⟩
  rw [Machine.offerRecord, Machine.offerRecord, writerTake, writerTake, h.lw]
  rw [h.lw] at hqueued
  by_cases hroom : s.lw.queue.length < Config.recordDepth
  · rw [if_pos hroom, if_pos hroom]
    by_cases hidle : s.lw.writer = .idle
    · rw [if_pos hidle, if_pos hidle]
      exact hqueued.takeFrom _
    · rw [if_neg hidle, if_neg hidle]
      exact hqueued
  · rw [if_neg hroom, if_neg hroom]
    exact h.loseRecord

end OffersAlike

/-- All that an offered record and a delivery read is the same, and, where `p` says so, the whole port. -/
structure ReadsAlike (p : Prop) (s t : State) : Prop where
  tb : t.tb = s.tb
  wu : t.wu = s.wu
  lw : t.lw = s.lw
  mc : t.mc = s.mc
  cfg : t.mp.cfg = s.mp.cfg
  mp : p → t.mp = s.mp

namespace ReadsAlike

variable {p : Prop} {s t : State}

theorem refl (s : State) : ReadsAlike p s s := ⟨rfl, rfl, rfl, rfl, rfl, fun _ => rfl⟩

theorem raise (h : ReadsAlike p s t) (f : IrqFlag) : ReadsAlike p (raise f s) (raise f t) :=
  ⟨h.tb, h.wu, h.lw, h.mc, h.cfg, fun hp => by simp only [Machine.raise, h.mp hp]⟩

theorem watch (h : ReadsAlike p s t) (k : Fin Config.watchCount) : t.watch k = s.watch k := by simp [State.watch, h.wu]

theorem setWatch (h : ReadsAlike p s t) (k : Fin Config.watchCount) (w : Watch) :
    ReadsAlike p (s.setWatch k w) (t.setWatch k w) :=
  ⟨h.tb, by simp only [State.setWatch, h.wu], h.lw, h.mc, h.cfg, h.mp⟩

theorem offerRecord (h : ReadsAlike p s t) (r : Record) : ReadsAlike p (offerRecord r s) (offerRecord r t) := by
  have hoffers : OffersAlike p s t := ⟨h.lw, h.mc, h.cfg, h.mp⟩
  have hafter := hoffers.offerRecord r
  exact ⟨by simp [h.tb], by simp [h.wu], hafter.lw, hafter.mc, hafter.cfg, hafter.mp⟩

theorem countVerdict (h : ReadsAlike p s t) (v : Delivery) (k : Fin Config.watchCount) :
    ReadsAlike p (countVerdict v k s) (countVerdict v k t) := by
  have hcounted := h.setWatch k ((s.watch k).counted v)
  simp only [Machine.countVerdict, h.watch]
  split
  · exact hcounted.raise _
  · exact hcounted

theorem tracedSet (h : ReadsAlike p s t) (v : Delivery) : t.tracedSet v = s.tracedSet v := by
  simp only [State.tracedSet, h.watch]

theorem traceRecord (h : ReadsAlike p s t) (v : Delivery) (traced : List (Fin Config.watchCount)) :
    t.traceRecord v traced = s.traceRecord v traced := by simp only [State.traceRecord, h.watch, h.tb]

theorem countOthers (v : Delivery) (traced ks : List (Fin Config.watchCount)) {s t : State} (h : ReadsAlike p s t) :
    ReadsAlike p (countOthers v traced ks s) (countOthers v traced ks t) := by
  induction ks generalizing s t with
  | nil => exact h
  | cons k rest ih =>
    rw [Machine.countOthers, Machine.countOthers, h.watch]
    apply ih
    split
    · exact h.countVerdict v k
    · exact h

theorem restartTraced (ks : List (Fin Config.watchCount)) {s t : State} (h : ReadsAlike p s t) :
    ReadsAlike p (restartTraced ks s) (restartTraced ks t) := by
  induction ks generalizing s t with
  | nil => exact h
  | cons k rest ih =>
    rw [Machine.restartTraced, Machine.restartTraced, h.watch]
    exact ih (h.setWatch k _)

theorem deliverVerdict (h : ReadsAlike p s t) (v : Delivery) :
    ReadsAlike p (deliverVerdict v s) (deliverVerdict v t) := by
  have hcounted := h.countOthers v (s.tracedSet v) allWatches
  simp only [Machine.deliverVerdict, h.tracedSet, hcounted.traceRecord]
  split
  · exact hcounted
  · exact (hcounted.offerRecord _).restartTraced _

end ReadsAlike

/-- A delivery to a state that only has other clients, shares and metering engine. -/
theorem deliverVerdict_of_alike {s t : State} (h : ReadsAlike True s t) (v : Delivery) :
    deliverVerdict v t = { t with wu := (deliverVerdict v s).wu, lw := (deliverVerdict v s).lw
                                  mc := (deliverVerdict v s).mc, mp := (deliverVerdict v s).mp } := by
  have hafter := h.deliverVerdict v
  rw [← hafter.wu, ← hafter.lw, ← hafter.mc, ← hafter.mp trivial]
  obtain ⟨htb, hse, hpt, hli, hct, hme, hmem, hcomp, hlow, hdraws, hpend, _⟩ := deliverVerdict_frame (v := v) (s := t)
  generalize deliverVerdict v t = u at *
  cases u
  cases t
  simp_all

/-- An offer to such a state. -/
theorem offerRecord_of_alike {s t : State} (h : ReadsAlike True s t) (r : Record) :
    offerRecord r t = { t with lw := (offerRecord r s).lw, mc := (offerRecord r s).mc, mp := (offerRecord r s).mp } := by
  have hafter := h.offerRecord r
  rw [← hafter.lw, ← hafter.mc, ← hafter.mp trivial]
  obtain ⟨htb, hse, hpt, hli, hct, hme, hwu, hmem, hcomp, hlow, hdraws, hpend, _⟩ := offerRecord_frame (r := r) (s := t)
  generalize offerRecord r t = u at *
  cases u
  cases t
  simp_all

theorem readsAlike_setMe (m : MeterEngine) (s : State) : ReadsAlike True s (s.setMe m) := ⟨rfl, rfl, rfl, rfl, rfl, fun _ => rfl⟩

theorem readsAlike_setClient (i : Fin Config.clientCount) (e : ClientEntry) (s : State) :
    ReadsAlike True s (s.setClient i e) := ⟨rfl, rfl, rfl, rfl, rfl, fun _ => rfl⟩

theorem deliverVerdict_setMe (v : Delivery) (m : MeterEngine) (s : State) :
    deliverVerdict v (s.setMe m) = (deliverVerdict v s).setMe m := by
  rw [deliverVerdict_of_alike (readsAlike_setMe m s), deliverVerdict_of_alike (.refl s)]
  rfl

theorem deliverVerdict_setClient (v : Delivery) (i : Fin Config.clientCount) (e : ClientEntry) (s : State) :
    deliverVerdict v (s.setClient i e) = { deliverVerdict v s with ct := (s.setClient i e).ct } := by
  rw [deliverVerdict_of_alike (readsAlike_setClient i e s), deliverVerdict_of_alike (.refl s)]
  rfl

theorem offerRecord_setMe (r : Record) (m : MeterEngine) (s : State) :
    offerRecord r (s.setMe m) = (offerRecord r s).setMe m := by
  rw [offerRecord_of_alike (readsAlike_setMe m s), offerRecord_of_alike (.refl s)]
  rfl

/-! ### The crossing (R142, R143) -/

/-- The entry as the crossing caps it: the grants above the capped rate go back, the excess buckets go. -/
def State.capEntry (i : Fin Config.clientCount) (s : State) : State :=
  (returnGrant s.mp.cfg.cappedRate.toNat .down i (returnGrant s.mp.cfg.cappedRate.toNat .up i s)).setClient i
    { (s.client i).withGrants (min (s.grant .up i) s.mp.cfg.cappedRate.toNat)
        (min (s.grant .down i) s.mp.cfg.cappedRate.toNat) with
      capped := true
      dirs := ((s.client i).withGrants (min (s.grant .up i) s.mp.cfg.cappedRate.toNat)
        (min (s.grant .down i) s.mp.cfg.cappedRate.toNat)).dirs.map ClientDir.dropExcess }

theorem capClient_eq (i : Fin Config.clientCount) (s : State) :
    capClient i s = raise .clientCapped
      (offerRecord (.cap i s.tb.epoch (s.client i).allowance (s.client i).admitted) (s.capEntry i)) := by
  simp only [capClient, client_returnGrants, if_true]
  rfl

theorem capEntry_change (i : Fin Config.clientCount) (s : State) : EntryChange i s (s.capEntry i) :=
  (entryChange_returnGrants _ i s).trans (entryChange_setClient i _ _)

theorem capEntry_snapshot (i : Fin Config.clientCount) (s : State) : (s.capEntry i).se.snapshot = s.se.snapshot := rfl

theorem client_capEntry (i : Fin Config.clientCount) (s : State) :
    (s.capEntry i).client i = { s.client i with capped := true, dirs := ((s.capEntry i).client i).dirs } := by
  rw [State.capEntry, client_setClient_self]
  rfl

theorem dir_capEntry (i : Fin Config.clientCount) (s : State) (d : Dir) :
    ((s.capEntry i).client i).dir d =
      { (s.client i).dir d with
        grant := min (s.grant d i) s.mp.cfg.cappedRate.toNat, excess := 0, excessDepth := 0 } := by
  rw [State.capEntry, client_setClient_self]
  cases d <;> rfl

theorem grant_capEntry (i : Fin Config.clientCount) (s : State) (d : Dir) :
    (s.capEntry i).grant d i = min (s.grant d i) s.mp.cfg.cappedRate.toNat := by rw [State.grant, dir_capEntry]

theorem remainder_capEntry (i : Fin Config.clientCount) (s : State) (d : Dir) :
    ((s.capEntry i).shareDir d).remainder =
      (s.shareDir d).remainder + (s.grant d i - (s.capEntry i).grant d i) := by
  rw [grant_capEntry]
  exact congrArg ShareDir.remainder (shareDir_returnGrants s.mp.cfg.cappedRate.toNat i s d)

/-! ### The volume counter (R140, R141) -/

section
variable {i : Fin Config.clientCount} {n : Nat} {v : Verdict} {why : Reason} {s : State}

theorem volumeCounts_iff (e : ClientEntry) (v : Verdict) (why : Reason) :
    e.volumeCounts v why = true ↔ e.allowance ≠ 0 ∧ e.tier ≠ .operations ∧ v ≠ .drop ∧ why ≠ .exempt := by
  simp [ClientEntry.volumeCounts, and_assoc]

theorem countVolume_of_uncounted (h : ¬ (s.client i).volumeCounts v why = true) : countVolume i n v why s = s := if_neg h

theorem countVolume_of_no_crossing (h : (s.client i).volumeCounts v why = true)
    (hno : ¬ 2 ^ 40 ≤ (s.client i).volume.toNat + n ∨ (s.client i).capped = true) :
    countVolume i n v why s =
      s.setClient i { s.client i with volume := (s.client i).volume + BitVec.ofNat 40 n } := by
  have hnone : ¬ (2 ^ 40 ≤ (s.client i).volume.toNat + n ∧ (s.client i).capped = false) := fun ⟨hcross, hcapped⟩ =>
    hno.elim (· hcross) fun hcapped' => absurd (hcapped'.symm.trans hcapped) (by decide)
  rw [countVolume, if_pos h, if_neg hnone]

theorem countVolume_of_crossing (h : (s.client i).volumeCounts v why = true)
    (hcross : 2 ^ 40 ≤ (s.client i).volume.toNat + n) (hcapped : (s.client i).capped = false) :
    countVolume i n v why s =
      capClient i (s.setClient i { s.client i with volume := (s.client i).volume + BitVec.ofNat 40 n }) := by
  rw [countVolume, if_pos h, if_pos ⟨hcross, hcapped⟩]

/-- The counter with no crossing, whether or not it counts. -/
theorem countVolume_of_small (htier : (s.client i).tier ≠ .operations) (hwhy : why ≠ .exempt)
    (h : v = .drop ∨ (s.client i).allowance = 0 ∨ (s.client i).volume.toNat + n < 2 ^ 40) :
    countVolume i n v why s = s.setClient i { s.client i with
      volume := if v ≠ .drop ∧ (s.client i).allowance ≠ 0 then (s.client i).volume + BitVec.ofNat 40 n
        else (s.client i).volume } := by
  by_cases hcounts : v ≠ .drop ∧ (s.client i).allowance ≠ 0
  · have hsmall : ¬ 2 ^ 40 ≤ (s.client i).volume.toNat + n := by
      rcases h with h | h | h
      · exact absurd h hcounts.1
      · exact absurd h hcounts.2
      · exact Nat.not_le.2 h
    rw [countVolume_of_no_crossing ((volumeCounts_iff _ _ _).2 ⟨hcounts.2, htier, hcounts.1, hwhy⟩) (.inl hsmall),
      if_pos hcounts]
  · rw [countVolume_of_uncounted fun hc => hcounts ?_, if_neg hcounts, setClient_self]
    obtain ⟨hallowance, _, hdrop, _⟩ := (volumeCounts_iff _ _ _).1 hc
    exact ⟨hdrop, hallowance⟩

end

theorem capEntry_setMe (i : Fin Config.clientCount) (m : MeterEngine) (s : State) :
    (s.setMe m).capEntry i = (s.capEntry i).setMe m := rfl

theorem raise_setMe (f : IrqFlag) (m : MeterEngine) (s : State) : raise f (s.setMe m) = (raise f s).setMe m := rfl

theorem capClient_setMe (i : Fin Config.clientCount) (m : MeterEngine) (s : State) :
    capClient i (s.setMe m) = (capClient i s).setMe m := by
  have hclient : (s.setMe m).client i = s.client i := rfl
  have htb : (s.setMe m).tb = s.tb := rfl
  rw [capClient_eq, capClient_eq, capEntry_setMe, offerRecord_setMe, raise_setMe, hclient, htb]

theorem countVolume_setMe (i : Fin Config.clientCount) (n : Nat) (v : Verdict) (why : Reason) (m : MeterEngine) (s : State) :
    countVolume i n v why (s.setMe m) = (countVolume i n v why s).setMe m := by
  have hclient : (s.setMe m).client i = s.client i := rfl
  have hset (e : ClientEntry) : (s.setMe m).setClient i e = (s.setClient i e).setMe m := rfl
  simp only [countVolume, hclient, hset, capClient_setMe]
  split
  · split
    · rfl
    · rfl
  · rfl

/-! ### The service behind a verdict (R125, R136) -/

/-- The delivery of a METER, from the entry as the decision left it. -/
def Request.delivery (r : Request) (d : Dir) (i : Fin Config.clientCount) (v : Verdict) (why : Reason) (grant : Nat)
    (e : ClientEntry) : Delivery :=
  { client := i, dir := d, length := r.length, verdict := v, reason := why, committed := (e.dir d).committed
    excess := (e.dir d).excess, grant := grant }

theorem finishMeter_dequeue (r : Request) (d : Dir) (i : Fin Config.clientCount) (v : Verdict) (why : Reason) (grant : Nat)
    (e : ClientEntry) (s : State) :
    finishMeter r d i v why grant (dequeue (s.setClient i e)) =
      { deliverVerdict (r.delivery d i v why grant e)
          (countVolume i r.length v why (s.setClient i (e.countVerdict d r.length v why))) with
        me := s.answered r v.outcome why } := by
  have hclient : (dequeue (s.setClient i e)).client i = e := client_setClient_self s i e
  rw [finishMeter, hclient]
  show respond r _ _ (deliverVerdict (r.delivery d i v why grant e) (countVolume i r.length v why
    (((s.setClient i e).setClient i (e.countVerdict d r.length v why)).setMe _))) = _
  rw [countVolume_setMe, deliverVerdict_setMe, setClient_setClient]
  rfl

/-- A verdict that the volume counter leaves out. -/
theorem finishMeter_of_uncounted (r : Request) (d : Dir) {i : Fin Config.clientCount} {v : Verdict} {why : Reason}
    (grant : Nat) {s : State} (h : ¬ ((s.client i).countVerdict d r.length v why).volumeCounts v why = true) :
    finishMeter r d i v why grant (dequeue s) =
      { deliverVerdict (r.delivery d i v why grant (s.client i)) s with
        me := s.answered r v.outcome why
        ct := (s.setClient i ((s.client i).countVerdict d r.length v why)).ct } := by
  have hall := finishMeter_dequeue r d i v why grant (s.client i) s
  rw [setClient_self] at hall
  rw [hall, countVolume_of_uncounted (by rwa [client_setClient_self]), deliverVerdict_setClient]

/-! ### METER outside the buckets (R126) -/

/-- The window of the selector takes the bytes, the other one stays. -/
theorem dir_countWindow (e : ClientEntry) (d : Dir) (n : Nat) :
    (e.countWindow d n).dir d = { e.dir d with
      window0 := if e.selector = true then (e.dir d).window0 else min 4294967295 ((e.dir d).window0 + n)
      window1 := if e.selector = true then min 4294967295 ((e.dir d).window1 + n) else (e.dir d).window1 } := by
  cases hselector : e.selector <;> simp [ClientEntry.countWindow, hselector] <;> rfl

theorem activeBytes_countWindow (e : ClientEntry) (d : Dir) (n : Nat) :
    (e.countWindow d n).activeBytes d = min 4294967295 (e.activeBytes d + n) := by
  have hkept : (e.countWindow d n).selector = e.selector := rfl
  cases hselector : e.selector <;> simp [ClientEntry.activeBytes, dir_countWindow, hkept, hselector]

theorem closedBytes_countWindow (e : ClientEntry) (d : Dir) (n : Nat) :
    (e.countWindow d n).closedBytes d = e.closedBytes d := by
  have hkept : (e.countWindow d n).selector = e.selector := rfl
  cases hselector : e.selector <;> simp [ClientEntry.closedBytes, dir_countWindow, hkept, hselector]

theorem dir_countWindow_of_ne (e : ClientEntry) {d d' : Dir} (h : d' ≠ d) (n : Nat) :
    (e.countWindow d n).dir d' = e.dir d' := by simp [ClientEntry.countWindow, h]

/-- Settles O46: no entry, a drop of a blocked one, and the exempt pass of OPERATIONS. -/
theorem meterOutsideTheBuckets : Obligations.MeterOutsideTheBuckets := by
  intro s r d i hhead hkind hi hlength e delivery answered
  refine ⟨fun hfree => ?_, fun hfree hblocked => ?_, fun hactive hopen htier => ?_⟩
  · exact answers_meter hhead hkind hi hlength (meterEntry_of_free (s := dequeue s) hfree)
  · refine ⟨_, answers_meter hhead hkind hi hlength ((meterEntry_of_blocked (s := dequeue s) hfree hblocked).trans
      (finishMeter_of_uncounted r d _ (by simp [volumeCounts_iff]))), ?_, ?_, rfl⟩
    · exact client_setClient_self s i _
    · exact othersKept_setClient i _ s
  · have hmeter : meterActive r d i (dequeue s) = finishMeter r d i .pass .exempt 0 (dequeue s) := if_pos htier
    refine ⟨_, answers_meter hhead hkind hi hlength (((meterEntry_of_active (s := dequeue s) hactive hopen).trans hmeter).trans
      (finishMeter_of_uncounted r d _ (by simp [volumeCounts_iff]))), ?_⟩
    have hclient := client_setClient_self s i (e.countVerdict d r.length .pass .exempt)
    have hothers := othersKept_setClient i (e.countVerdict d r.length .pass .exempt) s
    generalize s.setClient i (e.countVerdict d r.length .pass .exempt) = u at hclient hothers ⊢
    refine ⟨?_, ?_, ?_, fun d' hd => ⟨?_, ?_⟩, ?_, ?_, hothers, rfl⟩
    · exact (congrArg (ClientEntry.activeBytes · d) hclient).trans (activeBytes_countWindow e d _)
    · exact (congrArg (ClientEntry.closedBytes · d) hclient).trans (closedBytes_countWindow e d _)
    · refine (congrArg (fun e : ClientEntry => e.admitted.get d) hclient).trans ?_
      exact (PerDir.get_set e.admitted d d _).trans (if_pos rfl)
    · exact (congrArg (ClientEntry.dir · d') hclient).trans (dir_countWindow_of_ne e hd _)
    · refine (congrArg (fun e : ClientEntry => e.admitted.get d') hclient).trans ?_
      exact (PerDir.get_set e.admitted d d' _).trans (if_neg hd)
    · have hdir : (u.client i).dir d = _ := (congrArg (ClientEntry.dir · d) hclient).trans (dir_countWindow e d r.length)
      show (u.client i).dir d = { e.dir d with
        window0 := ((u.client i).dir d).window0, window1 := ((u.client i).dir d).window1 }
      rw [hdir]
    · show u.client i = { e with dirs := (u.client i).dirs, admitted := (u.client i).admitted }
      rw [hclient]
      rfl

/-! ### A client that a METER wakes (R107) -/

/-- The life of the entry, that no METER on an ACTIVE entry changes. -/
def ClientEntry.SameLife (e f : ClientEntry) : Prop := f.state = e.state ∧ f.idleCount = e.idleCount

theorem ClientEntry.SameLife.trans {e f g : ClientEntry} (h : e.SameLife f) (k : f.SameLife g) : e.SameLife g :=
  ⟨k.1.trans h.1, k.2.trans h.2⟩

theorem sameLife_countVerdict (d : Dir) (n : Nat) (v : Verdict) (why : Reason) (e : ClientEntry) :
    e.SameLife (e.countVerdict d n v why) := by
  unfold ClientEntry.countVerdict
  split <;> exact ⟨rfl, rfl⟩

theorem sameLife_countVolume (i : Fin Config.clientCount) (n : Nat) (v : Verdict) (why : Reason) (s : State) :
    (s.client i).SameLife ((countVolume i n v why s).client i) := by
  have hcap (u : State) : (u.client i).SameLife ((capClient i u).client i) := by
    have hclient : (capClient i u).client i = (u.capEntry i).client i := by rw [capClient_eq]; simp
    rw [hclient, client_capEntry]
    exact ⟨rfl, rfl⟩
  have hcounted (e : ClientEntry) (h : (s.client i).SameLife e) : (s.client i).SameLife ((s.setClient i e).client i) := by
    rwa [client_setClient_self]
  unfold countVolume
  dsimp only
  split
  · split
    · refine (hcounted _ ?_).trans (hcap _)
      exact ⟨rfl, rfl⟩
    · exact hcounted _ ⟨rfl, rfl⟩
  · exact ⟨rfl, rfl⟩

theorem sameLife_finishMeter (r : Request) (d : Dir) (i : Fin Config.clientCount) (v : Verdict) (why : Reason) (grant : Nat)
    (s : State) : (s.client i).SameLife ((finishMeter r d i v why grant s).client i) := by
  have hcounted := sameLife_countVolume i r.length v why (s.setClient i ((s.client i).countVerdict d r.length v why))
  rw [client_setClient_self] at hcounted
  have hdelivered (w : Delivery) (o : RspOutcome) (u : State) :
      (respond r o why (deliverVerdict w u)).client i = u.client i := by simp
  rw [finishMeter, hdelivered]
  exact (sameLife_countVerdict d r.length v why (s.client i)).trans hcounted

theorem sameLife_meterActive (r : Request) (d : Dir) (i : Fin Config.clientCount) (s : State) :
    (s.client i).SameLife ((meterActive r d i s).client i) := by
  have hset (e : ClientEntry) (u : State) (h : (u.client i).SameLife e) :
      (u.client i).SameLife ((u.setClient i e).client i) := by rwa [client_setClient_self]
  have hrefilled : (s.client i).SameLife ((refill d i s).client i) := hset _ s ⟨rfl, rfl⟩
  unfold meterActive
  split
  · exact sameLife_finishMeter r d i _ _ _ s
  · split
    · exact hrefilled.trans (sameLife_finishMeter r d i _ _ _ _)
    · refine (hrefilled.trans (hset _ _ ?_)).trans (sameLife_finishMeter r d i _ _ _ _)
      exact ⟨rfl, rfl⟩

/-- Settles O49: the wake stands before the service, and the service is that of the woken entry. -/
theorem meterWakesAnIdleEntry : Obligations.MeterWakesAnIdleEntry := by
  refine ⟨fun s r d i hhead hkind hi hlength hidle hopen => ?_, fun s i => ?_⟩
  · have hentry := wakeClient_entry i s
    have hactive : ((wakeClient i s).client i).state = .active := client_wakeClient_state i s
    have hcount : ((wakeClient i s).client i).idleCount = 0 := by rw [hentry]
    have hopen' : ((wakeClient i s).client i).blocked = false := by rw [hentry]; exact hopen
    have hhead' : (wakeClient i s).turnHead = some r := (turnHead_congr (by simp)).trans hhead
    have hlife := sameLife_meterActive r d i (dequeue (wakeClient i s))
    refine ⟨meterActive r d i (dequeue (wakeClient i s)), answers_meter hhead hkind hi hlength ?_,
      answers_meter hhead' hkind hi hlength (meterEntry_of_active (s := dequeue (wakeClient i s)) hactive hopen'),
      hlife.1.trans hactive, hlife.2.trans hcount⟩
    rw [meterEntry_of_idle (s := dequeue s) hidle hopen, dequeue_wakeClient]
  · have hchange := wakeClient_change i s
    refine ⟨fun htier => ?_, wakeClient_entry i s, fun htier d => wakeClient_joins htier d, wakeClient_snapshot i s,
      hchange.shares, hchange.others, hchange.only.eq⟩
    rw [wakeClient_of_operations htier]
    exact ⟨client_setClient_self s i _, rfl⟩

/-! ### METER on a sharing client (R126, R130, R132, R136) -/

/-- The verdict on refilled buckets, and what it leaves: without valid shares the frame passes and draws nothing. -/
def ClientDir.meter (valid : Bool) (n : Nat) (x : ClientDir) : Verdict × ClientDir :=
  if valid = true then decideDir n x else (.pass, x)

/-- The service of an ACTIVE entry outside OPERATIONS. -/
theorem meterActive_of_tier (r : Request) (d : Dir) {i : Fin Config.clientCount} {s : State}
    (htier : (s.client i).tier ≠ .operations) :
    meterActive r d i s =
      let x := refillDir s.mp.cfg (s.client i).capped s.tb.stamp ((s.client i).dir d)
      let decision := x.meter (s.shareDir d).sharesValid r.length
      finishMeter r d i decision.1 (if (s.shareDir d).sharesValid = false then .unshared else .metered)
        (if (s.shareDir d).sharesValid = true then ((s.client i).dir d).grant else 0)
        (s.setClient i ((s.client i).setDir d decision.2)) := by
  rw [meterActive, if_neg htier]
  cases hvalid : (s.shareDir d).sharesValid
  · rfl
  · simp [meterShared, refill, ClientDir.meter, ClientEntry.setDir_setDir, decideDir_grant, refillDir]

/-- The counting of Table 7-6 on an entry that the decision has left. -/
theorem countVerdict_setDir (e : ClientEntry) (d : Dir) (x : ClientDir) (n : Nat) (v : Verdict) {why : Reason}
    (hwhy : why ≠ .blocked) :
    (e.setDir d x).countVerdict d n v why = { e with
      dirs := e.dirs.set d { x with
        window0 := if e.selector = true then x.window0 else min 4294967295 (x.window0 + n)
        window1 := if e.selector = true then min 4294967295 (x.window1 + n) else x.window1 }
      admitted := if v = .drop then e.admitted else e.admitted.set d (e.admitted.get d + BitVec.ofNat 40 n)
      dropped := if v = .drop then min 4294967295 (e.dropped + 1) else e.dropped } := by
  have hwindow : (e.setDir d x).countWindow d n = e.setDir d { x with
      window0 := if e.selector = true then x.window0 else min 4294967295 (x.window0 + n)
      window1 := if e.selector = true then min 4294967295 (x.window1 + n) else x.window1 } := by
    have hkept : (e.setDir d x).selector = e.selector := rfl
    have hdir : (e.setDir d x).dir d = x := by simp
    rw [ClientEntry.countWindow, ClientEntry.setDir_setDir, hkept, hdir]
    cases e.selector <;> rfl
  cases v with
  | drop =>
    rw [ClientEntry.countVerdict, hwindow]
    · rfl
    · exact hwhy
  | _ => rw [ClientEntry.countVerdict, hwindow]; rfl

/-- The service of a sharing client, from the decision on. -/
theorem answers_meter_of_sharing {s : State} {r : Request} {d : Dir} {i : Fin Config.clientCount} {v : Verdict}
    {left : ClientDir} (hhead : s.turnHead = some r) (hkind : requestKind r.code = .meter d) (hi : r.index = i.val)
    (hlength : r.length ≠ 0) (hsharing : (s.client i).sharing = true)
    (hdecision : (refillDir s.mp.cfg (s.client i).capped s.tb.stamp ((s.client i).dir d)).meter
      (s.shareDir d).sharesValid r.length = (v, left)) :
    let why : Reason := if (s.shareDir d).sharesValid = false then .unshared else .metered
    let grant := if (s.shareDir d).sharesValid = true then ((s.client i).dir d).grant else 0
    Answers .meter s { deliverVerdict (r.delivery d i v why grant ((s.client i).setDir d left))
        (countVolume i r.length v why (s.setClient i (((s.client i).setDir d left).countVerdict d r.length v why))) with
      me := s.answered r v.outcome why } := by
  intro why grant
  simp only [ClientEntry.sharing, Bool.and_eq_true, beq_iff_eq, bne_iff_ne, Bool.not_eq_true'] at hsharing
  obtain ⟨⟨hactive, hopen⟩, htier⟩ := hsharing
  refine answers_meter hhead hkind hi hlength ((meterEntry_of_active (s := dequeue s) hactive hopen).trans ?_)
  rw [meterActive_of_tier (s := dequeue s) r d htier, ← finishMeter_dequeue]
  have hdecision' : (refillDir (dequeue s).mp.cfg ((dequeue s).client i).capped (dequeue s).tb.stamp
    (((dequeue s).client i).dir d)).meter ((dequeue s).shareDir d).sharesValid r.length = (v, left) := hdecision
  simp only [hdecision']
  rfl

/-- R130 and R132 in the figures of the statement. -/
theorem meter_refillDir (c : ConfigWords) (capped valid : Bool) (stamp : BitVec 20) (x : ClientDir) (n : Nat) :
    let add := 2 * x.grant * (stamp - x.refillStamp).toNat
    let cbs := max 2048 (2 * x.grant * c.burstMs.toNat)
    let ebs := if capped = true then 0 else cbs
    let committed := min cbs (x.committed + add)
    let excess := min ebs (x.excess + (x.committed + add - cbs))
    let verdict : Verdict :=
      if valid = false ∨ n ≤ committed then .pass else if n ≤ excess then .mark else .drop
    (refillDir c capped stamp x).meter valid n = (verdict, { x with
      refillStamp := stamp, committedDepth := cbs, excessDepth := ebs
      committed := if valid = true ∧ verdict = .pass then committed - n else committed
      excess := if verdict = .mark then excess - n else excess }) := by
  intro add cbs ebs committed excess verdict
  have hrefilled : refillDir c capped stamp x = { x with
      refillStamp := stamp, committedDepth := cbs, excessDepth := ebs, committed := committed, excess := excess } := rfl
  rw [hrefilled]
  cases valid with
  | false =>
    have hverdict : verdict = .pass := if_pos (.inl rfl)
    rw [hverdict]
    rfl
  | true =>
    rw [ClientDir.meter, if_pos rfl]
    by_cases hcommitted : n ≤ committed
    · have hverdict : verdict = .pass := if_pos (.inr hcommitted)
      rw [decideDir_of_le_committed hcommitted, hverdict]
      rfl
    · have hverdict : verdict = if n ≤ excess then .mark else .drop := if_neg (by simp [hcommitted])
      by_cases hexcess : n ≤ excess
      · rw [decideDir_of_le_excess (Nat.lt_of_not_le hcommitted) hexcess, hverdict, if_pos hexcess]
        rfl
      · rw [decideDir_of_above_levels (Nat.lt_of_not_le hcommitted) (Nat.lt_of_not_le hexcess), hverdict, if_neg hexcess]
        rfl

/-- An answer under a name, its form kept apart. -/
theorem named_answer {c : Instr} {s u : State} (h : Answers c s u) : ∃ t, Answers c s t ∧ t = u := ⟨u, h, rfl⟩

/-- Settles O47: refill, decision, counting, volume counter, delivery and response, in this order. -/
theorem meterRefillsAndDecides : Obligations.MeterRefillsAndDecides := by
  intro s r d i hhead hkind hi hlength hsharing
  have hdecision := meter_refillDir s.mp.cfg (s.client i).capped (s.shareDir d).sharesValid s.tb.stamp ((s.client i).dir d)
    r.length
  obtain ⟨t, hanswers, ht⟩ := named_answer (answers_meter_of_sharing hhead hkind hi hlength hsharing hdecision)
  refine ⟨t, hanswers, ?_⟩
  intro e x add cbs ebs committed excess valid verdict why left counted delivery
  have hwhy : why ≠ .blocked := by simp only [why]; split <;> decide
  have hcounted : (e.setDir d left).countVerdict d r.length verdict why = counted :=
    countVerdict_setDir e d left r.length verdict hwhy
  have hdir : (e.setDir d left).dir d = left := by simp
  have hdelivery : r.delivery d i verdict why (if valid = true then x.grant else 0) (e.setDir d left) = delivery := by
    simp only [Request.delivery, hdir]
    rfl
  obtain ⟨_, htier⟩ : (e.state = .active ∧ e.blocked = false) ∧ e.tier ≠ .operations := by
    simpa [ClientEntry.sharing] using hsharing
  have hanswer : t = { deliverVerdict delivery (countVolume i r.length verdict why (s.setClient i counted)) with
      me := s.answered r verdict.outcome why } := by rw [← hcounted, ← hdelivery]; exact ht
  refine ⟨hanswer, fun hsmall => ?_⟩
  have hclient : (s.setClient i counted).client i = counted := client_setClient_self s i counted
  have hvolume := countVolume_of_small (i := i) (n := r.length) (v := verdict) (why := why) (s := s.setClient i counted)
    (by rw [hclient]; exact htier) (by simp only [why]; split <;> decide) (by rw [hclient]; exact hsmall)
  rw [hclient, setClient_setClient] at hvolume
  rw [hvolume, deliverVerdict_setClient] at hanswer
  have hse : (deliverVerdict delivery s).se = s.se := by simp
  have hentry := client_setClient_self s i { counted with
    volume := if verdict ≠ .drop ∧ e.allowance ≠ 0 then e.volume + BitVec.ofNat 40 r.length else e.volume }
  have hothers := othersKept_setClient i { counted with
    volume := if verdict ≠ .drop ∧ e.allowance ≠ 0 then e.volume + BitVec.ofNat 40 r.length else e.volume } s
  generalize deliverVerdict delivery s = u at hanswer hse ⊢
  rw [hanswer]
  exact ⟨hentry, hothers, hse, rfl, rfl⟩

/-! ### A METER that crosses the allowance (R140 to R145) -/

/-- An idle writer with room in the log has the offered record in flight, and asks for the bus. -/
theorem offerRecord_writes (r : Record) {s : State} (hidle : s.lw.writer = .idle) (hqueue : s.lw.queue = [])
    (hroom : s.lw.index ≠ s.mp.cfg.limit) :
    (offerRecord r s).lw.inFlight = some r ∧ (offerRecord r s).lw.writer = .writing ∧
      (offerRecord r s).mc.logRequest = some ⟨s.lw.index, r.words⟩ := by
  rw [offerRecord_idle r hidle hqueue, takeFrom, if_neg hroom]
  exact ⟨rfl, rfl, (MemController.arbitrate_frame _).1⟩

theorem ClientsOnly.readsAlike {s t : State} (h : ClientsOnly s t) (p : Prop) : ReadsAlike p s t := by
  obtain ⟨_, _, rfl⟩ := h
  exact ⟨rfl, rfl, rfl, rfl, rfl, fun _ => rfl⟩

/-- The CAP record of an entry (R143). -/
def State.capRecord (i : Fin Config.clientCount) (s : State) : Record :=
  .cap i s.tb.epoch (s.client i).allowance (s.client i).admitted

/-- The entry with `n` more in the volume counter, capped by it. -/
def State.crossed (i : Fin Config.clientCount) (n : Nat) (s : State) : State :=
  (s.setClient i { s.client i with volume := (s.client i).volume + BitVec.ofNat 40 n }).capEntry i

theorem crossed_change (i : Fin Config.clientCount) (n : Nat) (s : State) : EntryChange i s (s.crossed i n) :=
  (entryChange_setClient i _ s).trans (capEntry_change i _)

theorem crossed_snapshot (i : Fin Config.clientCount) (n : Nat) (s : State) :
    (s.crossed i n).se.snapshot = s.se.snapshot := rfl

theorem client_crossed (i : Fin Config.clientCount) (n : Nat) (s : State) :
    (s.crossed i n).client i = { s.client i with
      capped := true, volume := (s.client i).volume + BitVec.ofNat 40 n, dirs := ((s.crossed i n).client i).dirs } := by
  have hclient := client_capEntry i (s.setClient i { s.client i with
    volume := (s.client i).volume + BitVec.ofNat 40 n })
  rw [client_setClient_self] at hclient
  exact hclient

theorem dir_crossed (i : Fin Config.clientCount) (n : Nat) (s : State) (d : Dir) :
    ((s.crossed i n).client i).dir d = { (s.client i).dir d with
      grant := min (s.grant d i) s.mp.cfg.cappedRate.toNat, excess := 0, excessDepth := 0 } := by
  rw [State.crossed, dir_capEntry, State.grant, client_setClient_self]
  rfl

theorem grant_crossed (i : Fin Config.clientCount) (n : Nat) (s : State) (d : Dir) :
    (s.crossed i n).grant d i = min (s.grant d i) s.mp.cfg.cappedRate.toNat := by rw [State.grant, dir_crossed]

theorem remainder_crossed (i : Fin Config.clientCount) (n : Nat) (s : State) (d : Dir) :
    ((s.crossed i n).shareDir d).remainder =
      (s.shareDir d).remainder + (s.grant d i - (s.crossed i n).grant d i) := by
  have hsame : (s.setClient i { s.client i with volume := (s.client i).volume + BitVec.ofNat 40 n }).grant d i =
      s.grant d i := by rw [State.grant, client_setClient_self]; rfl
  rw [State.crossed, remainder_capEntry, hsame]
  rfl

theorem countVolume_crosses {i : Fin Config.clientCount} {n : Nat} {v : Verdict} {why : Reason} {s : State}
    (h : (s.client i).volumeCounts v why = true) (hcross : 2 ^ 40 ≤ (s.client i).volume.toNat + n)
    (hcapped : (s.client i).capped = false) :
    countVolume i n v why s = raise .clientCapped (offerRecord (s.capRecord i) (s.crossed i n)) := by
  rw [countVolume_of_crossing h hcross hcapped, capClient_eq, client_setClient_self]
  rfl

/-- The wrapped volume counter, `n` below its modulus. -/
theorem volume_toNat (v : BitVec 40) {n : Nat} (h : n < 2 ^ 40) :
    (v + BitVec.ofNat 40 n).toNat = if 2 ^ 40 ≤ v.toNat + n then v.toNat + n - 2 ^ 40 else v.toNat + n := by
  have hv := v.isLt
  rw [BitVec.toNat_add, BitVec.toNat_ofNat, Nat.mod_eq_of_lt h]
  split <;> omega

theorem client_raised_offer (f : IrqFlag) (r : Record) (i : Fin Config.clientCount) (s : State) :
    (raise f (offerRecord r s)).client i = s.client i := by simp

theorem SharesKept.untouched {s u t : State} (h : SharesKept s u) (k : Untouched u t) : SharesKept s t :=
  ⟨(congrArg ShareEngine.pass k.se).trans h.1, fun d => by rw [k.shareDir]; exact h.2 d⟩

theorem OthersKept.untouched {i : Fin Config.clientCount} {s u t : State} (h : OthersKept i s u) (k : Untouched u t) :
    OthersKept i s t := ⟨(congrArg ClientTable.walk k.ct).trans h.1, fun j hj => (k.client j).trans (h.2 j hj)⟩

/-- The first half of O50: what the counter leaves. -/
theorem countVolume_counts {i : Fin Config.clientCount} {n : Nat} {v : Verdict} {why : Reason} {s : State} (hn : n ≤ 16383)
    (hcounts : (s.client i).volumeCounts v why = true) :
    let e := s.client i
    let t := countVolume i n v why s
    let crosses := 2 ^ 40 ≤ e.volume.toNat + n
    (t.client i).volume.toNat = (if crosses then e.volume.toNat + n - 2 ^ 40 else e.volume.toNat + n) ∧
    ((¬ crosses ∨ e.capped = true) → t = s.setClient i { e with volume := (t.client i).volume }) ∧
    (crosses → e.capped = false →
      (t.client i).capped = true ∧ t.flag .clientCapped = true ∧
      (∀ d, t.grant d i = min (s.grant d i) s.mp.cfg.cappedRate.toNat ∧
        (t.shareDir d).remainder = (s.shareDir d).remainder + (s.grant d i - t.grant d i) ∧
        ((t.client i).dir d).excess = 0 ∧ ((t.client i).dir d).excessDepth = 0 ∧
        ((t.client i).dir d).committed = (e.dir d).committed ∧
        ((t.client i).dir d).committedDepth = (e.dir d).committedDepth ∧
        ((t.client i).dir d).refillStamp = (e.dir d).refillStamp) ∧
      let record : Record := .cap i s.tb.epoch e.allowance e.admitted
      t.lw = (offerRecord record s).lw ∧ t.mc = (offerRecord record s).mc ∧
      (s.lw.writer = .idle → s.lw.queue = [] → s.lw.index ≠ s.mp.cfg.limit → t.lw.inFlight = some record)) ∧
    t.se.snapshot = s.se.snapshot ∧ SharesKept s t ∧ OthersKept i s t := by
  intro e t crosses
  have hsmall : n < 2 ^ 40 := Nat.lt_of_le_of_lt hn (by decide)
  by_cases hcross : crosses ∧ e.capped = false
  · obtain ⟨hcross, hcapped⟩ := hcross
    have ht : t = raise .clientCapped (offerRecord (s.capRecord i) (s.crossed i n)) := countVolume_crosses hcounts hcross hcapped
    have halike := ((crossed_change i n s).only.readsAlike True).offerRecord (s.capRecord i)
    have hafter : Untouched (s.crossed i n) t := by
      rw [ht]
      exact (offerRecord_untouched _ _).trans ⟨rfl, rfl, rfl, rfl⟩
    have hlw : t.lw = (offerRecord (s.capRecord i) s).lw := by rw [ht]; exact halike.lw
    refine ⟨?_, fun hno => ?_, fun _ _ => ⟨?_, ?_, fun d => ⟨?_, ?_, ?_⟩, hlw, ?_, ?_⟩, ?_, ?_, ?_⟩
    · rw [hafter.client, client_crossed, volume_toNat _ hsmall]
    · exact absurd (hno.resolve_left (not_not.2 hcross)) (by simp [hcapped])
    · rw [hafter.client, client_crossed]
    · rw [ht]; exact flag_raise_self _ _
    · rw [hafter.grant, grant_crossed]
    · rw [hafter.shareDir, hafter.grant, remainder_crossed]
    · rw [hafter.client, dir_crossed]
      exact ⟨rfl, rfl, rfl, rfl, rfl⟩
    · rw [ht]; exact halike.mc
    · intro hidle hqueue hroom
      rw [hlw]
      exact (offerRecord_writes _ hidle hqueue hroom).1
    · rw [hafter.se, crossed_snapshot]
    · exact (crossed_change i n s).shares.untouched hafter
    · exact (crossed_change i n s).others.untouched hafter
  · have hno : ¬ crosses ∨ e.capped = true := by
      rcases Decidable.not_and_iff_or_not.1 hcross with h | h
      · exact .inl h
      · exact .inr (by simpa using h)
    have ht : t = s.setClient i { e with volume := e.volume + BitVec.ofNat 40 n } := countVolume_of_no_crossing hcounts hno
    have hvolume : (t.client i).volume = e.volume + BitVec.ofNat 40 n := by rw [ht, client_setClient_self]
    have hchange : EntryChange i s t := ht ▸ entryChange_setClient i _ s
    refine ⟨?_, fun _ => ?_, fun h hcapped => absurd ⟨h, hcapped⟩ hcross, ?_, hchange.shares, hchange.others⟩
    · rw [hvolume, volume_toNat _ hsmall]
    · rw [hvolume]; exact ht
    · rw [ht]; rfl

/-- R130 and R132 on a client without a cap whose frame is not dropped. -/
theorem meter_refillDir_of_admitted {c : ConfigWords} {capped valid : Bool} {stamp : BitVec 20} {x : ClientDir} {n : Nat}
    (hcapped : capped = false) :
    let add := 2 * x.grant * (stamp - x.refillStamp).toNat
    let cbs := max 2048 (2 * x.grant * c.burstMs.toNat)
    let committed := min cbs (x.committed + add)
    let excess := min cbs (x.excess + (x.committed + add - cbs))
    valid = false ∨ n ≤ committed ∨ n ≤ excess →
    (refillDir c capped stamp x).meter valid n = (if valid = false ∨ n ≤ committed then .pass else .mark, { x with
      refillStamp := stamp, committedDepth := cbs, excessDepth := cbs
      committed := if valid = true ∧ n ≤ committed then committed - n else committed
      excess := if valid = true ∧ committed < n then excess - n else excess }) := by
  intro add cbs committed excess hadmitted
  subst hcapped
  have hrefilled : refillDir c false stamp x = { x with
      refillStamp := stamp, committedDepth := cbs, excessDepth := cbs, committed := committed, excess := excess } := rfl
  rw [hrefilled]
  cases valid with
  | false => simp [ClientDir.meter]
  | true =>
    rw [ClientDir.meter, if_pos rfl]
    by_cases hcommitted : n ≤ committed
    · simp [decideDir_of_le_committed, hcommitted, Nat.not_lt.2 hcommitted]
    · have hless : committed < n := Nat.lt_of_not_le hcommitted
      have hexcess : n ≤ excess := by simpa [hcommitted] using hadmitted
      rw [decideDir_of_le_excess hless hexcess]
      simp [hcommitted, hless]

theorem raise_untouched (f : IrqFlag) (s : State) : Untouched s (raise f s) := ⟨rfl, rfl, rfl, rfl⟩

theorem setMe_untouched (m : MeterEngine) (s : State) : Untouched s (s.setMe m) := ⟨rfl, rfl, rfl, rfl⟩

/-- The CAP record, its flag and the delivery behind a change of one entry (R143, R145). -/
theorem capped_delivery {s w t : State} {m : MeterEngine}
    (h : ClientsOnly s w) (record : Record) (v : Delivery)
    (ht : t = { deliverVerdict v (raise .clientCapped (offerRecord record w)) with me := m }) :
    Untouched w t ∧ t.flag .clientCapped = true ∧
    (let u := deliverVerdict v (offerRecord record s)
     t.wu = u.wu ∧ t.lw = u.lw ∧ t.mc = u.mc) ∧
    t.mp = { s.mp with flags := t.mp.flags } ∧
    t = { s with me := t.me, se := t.se, ct := t.ct, wu := t.wu, lw := t.lw, mc := t.mc, mp := t.mp } := by
  have hoffered := (h.readsAlike False).offerRecord record
  have hraised : ReadsAlike False (offerRecord record s) (raise .clientCapped (offerRecord record w)) :=
    ⟨hoffered.tb, hoffered.wu, hoffered.lw, hoffered.mc, hoffered.cfg, nofun⟩
  have hdelivered := hraised.deliverVerdict v
  have huntouched := ((offerRecord_untouched record w).trans (raise_untouched .clientCapped _)).trans
    (deliverVerdict_untouched v _)
  have hflag : (deliverVerdict v (raise .clientCapped (offerRecord record w))).flag .clientCapped = true :=
    deliverVerdict_flags _ _ (flag_raise_self _ _)
  have hport : (deliverVerdict v (raise .clientCapped (offerRecord record w))).mp.noFlags = w.mp.noFlags := by simp
  have hframe : ∀ z, z = deliverVerdict v (raise .clientCapped (offerRecord record w)) →
      z.tb = w.tb ∧ z.pt = w.pt ∧ z.li = w.li ∧ z.mem = w.mem ∧ z.composition = w.composition ∧ z.resetLow = w.resetLow ∧
        z.freeDraws = w.freeDraws ∧ z.pending = w.pending := by
    rintro _ rfl
    simp
  have hkept := hframe _ rfl
  clear hframe
  generalize deliverVerdict v (raise .clientCapped (offerRecord record w)) = z at *
  obtain ⟨_, _, rfl⟩ := h
  subst ht
  refine ⟨huntouched.trans (setMe_untouched m z), hflag, ⟨hdelivered.wu, hdelivered.lw, hdelivered.mc⟩,
    MaintPort.eq_of_noFlags hport, ?_⟩
  obtain ⟨htb, hpt, hli, hmem, hcomposition, hlow, hdraws, hpending⟩ := hkept
  cases z
  simp_all

theorem Request.length_lt (r : Request) : r.length < 2 ^ 40 :=
  (BitVec.isLt _).trans (by decide)

/-- A METER of a sharing client that crosses the allowance, from the decision on. -/
theorem answers_meter_crossing {s : State} {r : Request} {d : Dir} {i : Fin Config.clientCount} {v : Verdict}
    {left : ClientDir} (hhead : s.turnHead = some r) (hkind : requestKind r.code = .meter d) (hi : r.index = i.val)
    (hlength : r.length ≠ 0) (hsharing : (s.client i).sharing = true)
    (hdecision : (refillDir s.mp.cfg (s.client i).capped s.tb.stamp ((s.client i).dir d)).meter
      (s.shareDir d).sharesValid r.length = (v, left))
    (hcapped : (s.client i).capped = false) (hallowance : (s.client i).allowance ≠ 0)
    (hcross : 2 ^ 40 ≤ (s.client i).volume.toNat + r.length) (hpassed : v ≠ .drop)
    (hgrant : left.grant = ((s.client i).dir d).grant) :
    ∃ t, Answers .meter s t ∧
    let e := s.client i
    let why : Reason := if (s.shareDir d).sharesValid = false then .unshared else .metered
    let grant := if (s.shareDir d).sharesValid = true then (e.dir d).grant else 0
    let admitted := e.admitted.set d (e.admitted.get d + BitVec.ofNat 40 r.length)
    let u := deliverVerdict (r.delivery d i v why grant (e.setDir d left))
      (offerRecord (.cap i s.tb.epoch e.allowance admitted) s)
    t.me = s.answered r v.outcome why ∧
    (t.client i).capped = true ∧ (t.client i).volume.toNat = e.volume.toNat + r.length - 2 ^ 40 ∧
    (t.client i).admitted = admitted ∧ (t.client i).state = .active ∧ t.flag .clientCapped = true ∧
    (∀ d', t.grant d' i = min (s.grant d' i) s.mp.cfg.cappedRate.toNat ∧
      (t.shareDir d').remainder = (s.shareDir d').remainder + (s.grant d' i - t.grant d' i) ∧
      ((t.client i).dir d').excess = 0 ∧ ((t.client i).dir d').excessDepth = 0) ∧
    (t.wu = u.wu ∧ t.lw = u.lw ∧ t.mc = u.mc) ∧
    t.se.snapshot = s.se.snapshot ∧ SharesKept s t ∧ OthersKept i s t ∧
    t.mp = { s.mp with flags := t.mp.flags } ∧
    t = { s with me := t.me, se := t.se, ct := t.ct, wu := t.wu, lw := t.lw, mc := t.mc, mp := t.mp } := by
  obtain ⟨t, hanswers, ht⟩ := named_answer (answers_meter_of_sharing hhead hkind hi hlength hsharing hdecision)
  refine ⟨t, hanswers, ?_⟩
  intro e why grant admitted u
  have hwhy : why ≠ .blocked ∧ why ≠ .exempt := by simp only [why]; split <;> decide
  have hsame : e.SameStanding ((e.setDir d left).countVerdict d r.length v why) :=
    (ClientEntry.SameStanding.setDir e d hgrant).trans (ClientEntry.sameStanding_countVerdict ..)
  have hadmitted : ((e.setDir d left).countVerdict d r.length v why).admitted = admitted := by
    rw [countVerdict_setDir e d left _ v hwhy.1, if_neg hpassed]
  have hvolume : ((e.setDir d left).countVerdict d r.length v why).volume = e.volume ∧
      ((e.setDir d left).countVerdict d r.length v why).allowance = e.allowance := by
    rw [countVerdict_setDir e d left _ v hwhy.1]
    exact ⟨rfl, rfl⟩
  change t = { deliverVerdict (r.delivery d i v why grant (e.setDir d left))
    (countVolume i r.length v why (s.setClient i ((e.setDir d left).countVerdict d r.length v why))) with
      me := s.answered r v.outcome why } at ht
  generalize (e.setDir d left).countVerdict d r.length v why = counted at *
  obtain ⟨⟨hactive, hopen⟩, htier⟩ : (e.state = .active ∧ e.blocked = false) ∧ e.tier ≠ .operations := by
    simpa [ClientEntry.sharing] using hsharing
  have hclient : (s.setClient i counted).client i = counted := client_setClient_self s i counted
  rw [countVolume_crosses (i := i) (n := r.length) (v := v) (why := why) (s := s.setClient i counted)] at ht
  · have hrecord : (s.setClient i counted).capRecord i = .cap i s.tb.epoch e.allowance admitted := by
      rw [State.capRecord, hclient, hvolume.2, hadmitted]
      rfl
    have hchange := (entryChange_setClient i counted s).trans (crossed_change i r.length _)
    have hsnapshot : ((s.setClient i counted).crossed i r.length).se.snapshot = s.se.snapshot := rfl
    have hentry := client_crossed i r.length (s.setClient i counted)
    have hdir (d' : Dir) := dir_crossed i r.length (s.setClient i counted) d'
    have hgrants (d' : Dir) := grant_crossed i r.length (s.setClient i counted) d'
    have hremainder (d' : Dir) := remainder_crossed i r.length (s.setClient i counted) d'
    have hheld (d' : Dir) : (s.setClient i counted).grant d' i = s.grant d' i := by
      rw [State.grant, hclient, hsame.grant]
      rfl
    rw [hrecord] at ht
    simp only [hclient, hheld] at hentry hgrants hremainder
    generalize (s.setClient i counted).crossed i r.length = w at *
    obtain ⟨hafter, hflag, halike, hport, hframe⟩ := capped_delivery hchange.only
      (.cap i s.tb.epoch e.allowance admitted) (r.delivery d i v why grant (e.setDir d left)) ht
    refine ⟨by rw [ht], ?_, ?_, ?_, ?_, hflag, fun d' => ⟨?_, ?_, ?_, ?_⟩, halike,
      (congrArg ShareEngine.snapshot hafter.se).trans hsnapshot, hchange.shares.untouched hafter,
      hchange.others.untouched hafter, hport, hframe⟩
    · rw [hafter.client, hentry]
    · rw [hafter.client, hentry, hvolume.1, volume_toNat _ (r.length_lt), if_pos hcross]
    · rw [hafter.client, hentry, hadmitted]
    · rw [hafter.client, hentry, hsame.state, hactive]
    · rw [hafter.grant, hgrants]; rfl
    · rw [hafter.shareDir, hafter.grant, hremainder]; rfl
    · rw [hafter.client, hdir]
    · rw [hafter.client, hdir]
  · rw [hclient, volumeCounts_iff]
    exact ⟨by rwa [hvolume.2], by rwa [hsame.tier], hpassed, hwhy.2⟩
  · rw [hclient, hvolume.1]; exact hcross
  · rw [hclient, hsame.capped]; exact hcapped

/-- A writing writer keeps its record in flight through a delivery. -/
theorem inFlight_deliverVerdict (v : Delivery) {s : State} (h : s.lw.writer = .writing) :
    (deliverVerdict v s).lw.inFlight = s.lw.inFlight := by
  have hoffered (r : Record) (u : State) (hu : u.lw = s.lw) : (offerRecord r u).lw.inFlight = s.lw.inFlight := by
    by_cases hroom : u.lw.queue.length < Config.recordDepth
    · rw [offerRecord_writing r (by rw [hu, h]) hroom, hu]
    · rw [offerRecord_lost r (Nat.le_of_not_lt hroom)]
      show u.lw.inFlight = s.lw.inFlight
      rw [hu]
  unfold deliverVerdict
  dsimp only
  split
  · simp
  · have hrestarted (ks : List (Fin Config.watchCount)) (u : State) : (restartTraced ks u).lw = u.lw := by simp
    rw [hrestarted]
    exact hoffered _ _ (by simp)

/-- The lane of a frame that is admitted. -/
theorem answered_of_admitted (valid : Bool) (committed : Nat) (r : Request) (s : State) :
    s.answered r (if valid = false ∨ r.length ≤ committed then Verdict.pass else .mark).outcome
      (if valid = false then .unshared else .metered) = { s.me with
        queue := s.me.queue.tail
        lane := some (if valid = false then ⟨r.tag, .pass, .unshared, r.code⟩
          else if r.length ≤ committed then ⟨r.tag, .pass, .metered, r.code⟩ else ⟨r.tag, .mark, .metered, r.code⟩) } := by
  cases valid with
  | false => rfl
  | true => by_cases h : r.length ≤ committed <;> simp [h, State.answered, Verdict.outcome]

/-- Settles O50: the counter's crossing, and a METER that makes it. -/
theorem crossingCapsTheClient : Obligations.CrossingCapsTheClient := by
  refine ⟨fun s i n v why hn hcounts => countVolume_counts hn hcounts, ?_⟩
  intro s r d i hhead hkind hi hlength hsharing e x add cbs committed excess valid hcapped hallowance hcross hadmitted
  have hdecision := meter_refillDir_of_admitted (c := s.mp.cfg) (stamp := s.tb.stamp) (x := x) hcapped hadmitted
  obtain ⟨t, hanswers, hme, hcap, hvolume, hcount, hstate, hflag, hgrants, ⟨hwu, hlw, hmc⟩, hrest⟩ :=
    answers_meter_crossing hhead hkind hi hlength hsharing hdecision hcapped hallowance hcross (by split <;> decide) rfl
  have hdir (left : ClientDir) : (e.setDir d left).dir d = left := by simp
  rw [Request.delivery, hdir] at hwu hlw hmc
  refine ⟨t, hanswers, hme.trans ?_, hcap, hvolume, hcount, hstate, hflag, hgrants, ⟨hwu, hlw, hmc, ?_⟩, hrest⟩
  · exact answered_of_admitted valid committed r s
  · intro hidle hqueue hroom
    obtain ⟨hflight, hwriting, _⟩ := offerRecord_writes (.cap i s.tb.epoch e.allowance _) hidle hqueue hroom
    rw [hlw]
    exact (inFlight_deliverVerdict _ hwriting).trans hflight

end Sys2Proof.Machine
end

section
/-! ## Proofs: removal (R100), the watch unit (R150 to R157), the log (R161 to R169) and the bus (R173 to R179) -/

namespace Sys2Proof.Machine

/-! ### Removal (R100) -/

/-- What a removal does: the FINAL record, then the entry leaves and is FREE. -/
theorem removeClient_effect (i : Fin Config.clientCount) (y : RemovalReason) (s : State) :
    let u := removeClient i y s
    let w := offerRecord (s.finalRecord i y) s
    u.client i = ClientEntry.free ∧ Struck i s u ∧
    (∀ d, (u.shareDir d).remainder = (s.shareDir d).remainder + s.grant d i) ∧
    (u.lw = w.lw ∧ u.mc = w.mc ∧ u.mp = w.mp) ∧ OthersKept i s u ∧ SharesKept s u ∧
    u = { s with se := u.se, ct := u.ct, lw := u.lw, mc := u.mc, mp := u.mp } := by
  intro u w
  have honly : ClientsOnly w u := (clientsOnly_leaveSharing i w).trans (clientsOnly_setClient i _ _)
  have hsnapshot : u.se.snapshot = w.se.snapshot.map fun n => { n with membership := n.membership.filter (· ≠ i) } := rfl
  have hse : w.se = s.se := (offerRecord_untouched _ s).se
  have hframe : w.tb = s.tb ∧ w.pt = s.pt ∧ w.li = s.li ∧ w.me = s.me ∧ w.wu = s.wu ∧ w.mem = s.mem ∧
      w.composition = s.composition ∧ w.resetLow = s.resetLow ∧ w.freeDraws = s.freeDraws ∧ w.pending = s.pending := by
    simp [w]
  refine ⟨by rw [client_removeClient, if_pos rfl], ?_, fun d => by rw [shareDir_removeClient], ?_,
    ⟨(removeClient_pass i y s).2, fun j hj => by rw [client_removeClient, if_neg hj]⟩,
    .of_shareDir (removeClient_pass i y s).1 _ fun d => shareDir_removeClient i y s d, ?_⟩
  · rw [hse] at hsnapshot
    exact hsnapshot
  · generalize u = u' at honly
    obtain ⟨_, _, rfl⟩ := honly
    exact ⟨rfl, rfl, rfl⟩
  · clear hsnapshot
    generalize u = u' at honly ⊢
    obtain ⟨_, _, rfl⟩ := honly
    obtain ⟨htb, hpt, hli, hme, hwu, hmem, hcomposition, hlow, hdraws, hpending⟩ := hframe
    generalize w = w' at *
    cases w'
    simp_all

/-- Settles O45: EVICT and DETACH are the removal, ended as a command and answered on the lane. -/
theorem detachAndEvictFreeTheEntry : Obligations.DetachAndEvictFreeTheEntry := by
  refine ⟨fun s i hruns hs hi hf => ⟨_, answers_clientCommand rfl hruns hs hi hf, ?_⟩, fun s r i hhead hi hkind hf =>
    ⟨_, answers_of_served (exec_detach hhead hkind) (serveDetach_eq hi (detachClient_of_attached (s := dequeue s) hf)), ?_⟩⟩
  · have hwrites := offerRecord_writes (s := s) (s.finalRecord i .evicted)
    have hport : (removeClient i .evicted s).mp.noFlags = s.mp.noFlags := by simp
    have hkept (f : IrqFlag) (h : s.flag f = true) : (removeClient i .evicted s).flag f = true := removeClient_flags _ _ _ h
    obtain ⟨hfree, hstruck, hremainder, ⟨hlw, hmc, hmp⟩, hothers, hshares, hframe⟩ := removeClient_effect i .evicted s
    generalize removeClient i .evicted s = u at *
    refine ⟨hfree, hstruck, hremainder, ⟨hlw, hmc, fun hidle hqueue hroom => ?_, fun f hflag => ?_⟩, hothers, hshares,
      ended_endCommand .done hport hkept, ?_⟩
    · exact (congrArg LogWriter.inFlight hlw).trans (hwrites hidle hqueue hroom).1
    · have hu : u.flag f = true := (congrArg (fun m : MaintPort => m.flags.getLsbD f.bit) hmp).trans hflag
      exact endCommand_flags .done hu
    · exact (congrArg (endCommand .done) hframe).trans rfl
  · have hwrites := offerRecord_writes (s := s) (s.finalRecord i .detached)
    have hport : (removeClient i .detached (dequeue s)).mp.noFlags = s.mp.noFlags := by simp [dequeue, State.setMe]
    have heffect := removeClient_effect i .detached (dequeue s)
    have hoffer : offerRecord ((dequeue s).finalRecord i .detached) (dequeue s) =
        (offerRecord (s.finalRecord i .detached) s).setMe _ := offerRecord_setMe (s.finalRecord i .detached) _ s
    rw [hoffer] at heffect
    obtain ⟨hfree, hstruck, hremainder, ⟨hlw, hmc, hmp⟩, hothers, hshares, hframe⟩ := heffect
    generalize removeClient i .detached (dequeue s) = u at *
    obtain ⟨se, ct, lw, mc, mp, rfl⟩ : ∃ se ct lw mc mp,
        u = { dequeue s with se := se, ct := ct, lw := lw, mc := mc, mp := mp } := ⟨_, _, _, _, _, hframe⟩
    exact ⟨hfree, hstruck, hremainder, rfl, ⟨hlw, hmc, hmp, fun hidle hqueue hroom =>
      (congrArg LogWriter.inFlight hlw).trans (hwrites hidle hqueue hroom).1⟩, hothers, hshares,
      MaintPort.eq_of_noFlags hport, rfl⟩

/-! ### Watch words (R156, R157) -/

theorem watch_setWatch_self (s : State) (k : Fin Config.watchCount) (w : Watch) : (s.setWatch k w).watch k = w := by
  simp [watch_setWatch]

theorem watch_setWatch_of_ne (s : State) {k j : Fin Config.watchCount} (h : j ≠ k) (w : Watch) :
    (s.setWatch k w).watch j = s.watch j := by simp [watch_setWatch, h]

/-- A word of a watch stored at once. -/
theorem answers_setWatch {c : Instr} {s : State} {k : Fin Config.watchCount} {w : Watch}
    (h : Answers c s (s.setWatch k w)) :
    ∃ t, Answers c s t ∧ t.watch k = w ∧ (∀ j, j ≠ k → t.watch j = s.watch j) ∧ t = { s with wu := t.wu } :=
  ⟨_, h, watch_setWatch_self s k w, fun _ hj => watch_setWatch_of_ne s hj w, rfl⟩

/-- The nine low bits of a word, place by place. -/
theorem modeBits_eq (v : Word) : v &&& 0x1FF =
    word (bit (v.getLsbD 0) + 2 * bit (v.getLsbD 1) + 4 * bit (v.getLsbD 2) + 8 * bit (v.getLsbD 3) +
      16 * bit (v.getLsbD 4) + 32 * bit (v.getLsbD 5) + 64 * bit (v.getLsbD 6) + 128 * bit (v.getLsbD 7) +
      256 * bit (v.getLsbD 8)) := by
  have hbit (k : Nat) : bit (v.getLsbD k) = v.toNat / 2 ^ k % 2 := by
    rw [bit, BitVec.getLsbD, Nat.testBit_eq_decide_div_mod_eq]
    split <;> simp_all
  apply BitVec.eq_of_toNat_eq
  have hmask : (v &&& 0x1FF).toNat = v.toNat % 512 := Nat.and_two_pow_sub_one_eq_mod v.toNat 9
  rw [hmask, word, BitVec.toNat_ofNat]
  simp only [hbit]
  omega

/-- The six words of each watch (Table 12-1). -/
theorem writeWord_watch (k : Fin 4) {j : Nat} (hj : j < 6) (v : Word) (s : State) :
    writeWord (BitVec.ofNat 7 (0x18 + j + 6 * k.val)) v s = writeWatchWord k j v s := by
  have hk := k.isLt
  have haddress : (BitVec.ofNat 7 (0x18 + j + 6 * k.val)).toNat = 0x18 + j + 6 * k.val := by
    rw [BitVec.toNat_ofNat, Nat.mod_eq_of_lt (by omega)]
  have hwatch : watchOfOffset (0x18 + j + 6 * k.val - 0x18) = k := by
    apply Fin.ext
    show (0x18 + j + 6 * k.val - 0x18) / 6 % 4 = k.val
    omega
  have hplace : (0x18 + j + 6 * k.val - 0x18) % 6 = j := by omega
  simp only [writeWord, haddress]
  rw [if_neg (by omega), if_neg (by omega), if_pos (by omega), hwatch, hplace]

theorem answers_watchWord {s : State} (hreset : s.resetLow = false) (k : Fin 4) {j : Nat} (hj : j < 6) (v : Word) :
    Answers (.registerWrite (BitVec.ofNat 7 (0x18 + j + 6 * k.val)) v) s (writeWatchWord k j v s) :=
  answers_released rfl hreset (writeWord_watch k hj v s)

theorem watch_mode_setMode (v : Word) (w : Watch) : (w.setMode v).mode = v &&& 0x1FF := by
  rw [modeBits_eq]
  cases h : v.getLsbD 6 <;> simp only [Watch.mode, Watch.setMode, h] <;> rfl

theorem clearOverflow_wu (v : Word) (ks : List (Fin Config.watchCount)) (s : State) :
    ∃ wu, clearOverflow v ks s = { s with wu := wu } := by
  induction ks generalizing s with
  | nil => exact ⟨s.wu, rfl⟩
  | cons k rest ih =>
    rw [clearOverflow]
    split
    · exact ih (s.setWatch k { s.watch k with overflow := false })
    · exact ih s

/-- Settles O51: each word is one store, the mode word place by place. -/
theorem watchWordsActAtOnce : Obligations.WatchWordsActAtOnce := by
  intro s hreset
  refine ⟨fun k v => ?_, fun k v hmask => ?_, fun k v hmask => ?_, fun k => ?_, fun k v => ?_, fun k => ?_, fun v => ?_⟩
  · obtain ⟨t, hanswers, hk, hothers, hframe⟩ := answers_setWatch (k := k) (w := (s.watch k).setMode v)
      (answers_released (c := .watchModeWrite k v) rfl hreset rfl)
    refine ⟨t, hanswers, ?_⟩
    rw [hk]
    exact ⟨watch_mode_setMode v _, rfl, rfl, rfl, rfl, rfl, rfl, rfl, rfl, hothers, hframe⟩
  · exact answers_setWatch (answers_released rfl hreset (by rw [writeWatchCountLow, hmask]; rfl))
  · exact ⟨_, answers_released rfl hreset (by rw [writeWatchCountLow, hmask]; rfl), rfl⟩
  · refine ⟨_, answers_released rfl hreset rfl, ?_, fun j hj => ?_, rfl⟩
    · exact watch_setWatch_self _ k _
    · exact watch_setWatch_of_ne _ hj _
  · simp only [List.forall_mem_cons]
    exact ⟨answers_setWatch (answers_watchWord hreset k (j := 1) (by decide) v),
      answers_setWatch (answers_watchWord hreset k (j := 3) (by decide) v),
      answers_setWatch (answers_watchWord hreset k (j := 4) (by decide) v),
      answers_setWatch (answers_watchWord hreset k (j := 5) (by decide) v), fun _ hno => nomatch hno⟩
  · simp [Watch.maskEmpty, and_assoc]
  · refine ⟨_, answers_released rfl hreset rfl, fun k => ?_, ?_⟩
    · rw [writeWatchStatus, watch_clearOverflow v allWatches (by decide)]
      by_cases hv : v.getLsbD (4 + k.val) = true
      · simp [hv, mem_allWatches]
      · simp [hv]
    · obtain ⟨wu, hwu⟩ := clearOverflow_wu v allWatches s
      rw [writeWatchStatus, hwu]

/-! ### Delivery (R150 to R153) -/

theorem isMatch_iff (w : Watch) (v : Delivery) : w.isMatch v = true ↔
    w.enable = true ∧ (w.scopeAll = true ∨ w.scopeIndex.toNat = v.client.val) ∧ w.hasDir v.dir = true ∧
      w.hasVerdict v.verdict = true := by
  simp [Watch.isMatch, and_assoc]

theorem nodup_tracedSet (s : State) (v : Delivery) : (s.tracedSet v).Nodup :=
  List.Nodup.filter _ (by decide)

/-- The watches as the counting of a delivery leaves them. -/
theorem watch_counted (v : Delivery) (s : State) (k : Fin Config.watchCount) :
    (countOthers v (s.tracedSet v) allWatches s).watch k =
      if (s.watch k).isMatch v = true ∧ (s.watch k).armed = false then (s.watch k).counted v else s.watch k := by
  rw [watch_countOthers v _ allWatches (by decide)]
  simp only [mem_allWatches, mem_tracedSet, true_and]
  by_cases hmatch : (s.watch k).isMatch v = true
  · cases harmed : (s.watch k).armed <;> simp [hmatch]
  · simp [hmatch]

theorem overflow_counted (v : Delivery) (s : State) (k : Fin Config.watchCount) :
    ((countOthers v (s.tracedSet v) allWatches s).watch k).overflow = true ↔ (s.watch k).overflow = true ∨
      ((s.watch k).isMatch v = true ∧ (s.watch k).armed = false ∧ (s.watch k).wraps v = true) := by
  rw [watch_counted]
  by_cases hcounts : (s.watch k).isMatch v = true ∧ (s.watch k).armed = false
  · simp [hcounts, Watch.counted]
  · rw [if_neg hcounts]
    exact ⟨.inl, fun h => h.resolve_right fun ⟨hmatch, hfree, _⟩ => hcounts ⟨hmatch, hfree⟩⟩

theorem ofFn_eq_map (f : Fin 4 → Bool) : List.ofFn f = allWatches.map f := rfl

/-- A delivery leaves an unmatched watch, restarts a traced one and counts in the others. -/
theorem watch_deliverVerdict (v : Delivery) (s : State) (k : Fin Config.watchCount) :
    (deliverVerdict v s).watch k =
      if (s.watch k).isMatch v = true then
        (if (s.watch k).armed = true then (s.watch k).restart else (s.watch k).counted v)
      else s.watch k := by
  have hcounted := watch_counted v s k
  have hrestarted (r : Record) : (restartTraced (s.tracedSet v) (offerRecord r
      (countOthers v (s.tracedSet v) allWatches s))).watch k =
      if (s.watch k).isMatch v = true ∧ (s.watch k).armed = true then
        ((countOthers v (s.tracedSet v) allWatches s).watch k).restart
      else (countOthers v (s.tracedSet v) allWatches s).watch k := by
    rw [watch_restartTraced _ (nodup_tracedSet s v)]
    simp [mem_tracedSet]
  have hnone (h : (s.tracedSet v).isEmpty = true) : ¬ ((s.watch k).isMatch v = true ∧ (s.watch k).armed = true) := by
    rw [← mem_tracedSet, List.isEmpty_iff.1 h]
    exact List.not_mem_nil
  unfold deliverVerdict
  dsimp only
  by_cases hmatch : (s.watch k).isMatch v = true
  · cases harmed : (s.watch k).armed <;> split <;> simp_all
  · split <;> simp_all

/-- A wrap with the interrupt enabled raises the flag, whatever else the counting does. -/
theorem flag_countOthers (v : Delivery) (traced ks : List (Fin Config.watchCount)) (hks : ks.Nodup) {s : State}
    {k : Fin Config.watchCount} (hk : k ∈ ks) (hmatch : (s.watch k).isMatch v = true) (hfree : k ∉ traced)
    (hwraps : (s.watch k).wraps v = true) (hirq : (s.watch k).irqEnable = true) :
    (countOthers v traced ks s).flag .watchOverflow = true := by
  induction ks generalizing s with
  | nil => exact absurd hk List.not_mem_nil
  | cons j rest ih =>
    obtain ⟨hj, hrest⟩ := List.nodup_cons.1 hks
    rw [countOthers]
    by_cases hjk : k = j
    · subst hjk
      have hraised : (countVerdict v k s).flag .watchOverflow = true := by simp [countVerdict, hwraps, hirq]
      rw [if_pos ⟨hmatch, hfree⟩]
      exact countOthers_flags _ _ _ _ hraised
    · have hsame : (if (s.watch j).isMatch v = true ∧ j ∉ traced then countVerdict v j s else s).watch k = s.watch k := by
        split
        · rw [watch_countVerdict, if_neg hjk]
        · rfl
      apply ih hrest ((List.mem_cons.1 hk).resolve_left hjk) <;> rwa [hsame]

theorem watch_total (w : Watch) (v : Delivery) :
    w.count.toNat + w.amount v = w.count.toNat + (if w.kind = .frames then 1 else v.length) := by
  rw [Watch.amount]
  cases w.kind <;> rfl

theorem counted_count (w : Watch) (v : Delivery) :
    w.count + BitVec.ofNat 32 (w.amount v) = BitVec.ofNat 32 (w.count.toNat + w.amount v) := by
  rw [BitVec.ofNat_add, BitVec.ofNat_toNat, BitVec.setWidth_eq]

/-- What the counting raises, stays raised. -/
theorem flag_deliverVerdict {v : Delivery} {s : State} {f : IrqFlag}
    (h : (countOthers v (s.tracedSet v) allWatches s).flag f = true) : (deliverVerdict v s).flag f = true := by
  have hrestarted (r : Record) : (restartTraced (s.tracedSet v) (offerRecord r
      (countOthers v (s.tracedSet v) allWatches s))).flag f = true := by
    have hoffered : (offerRecord r (countOthers v (s.tracedSet v) allWatches s)).flag f = true := offerRecord_flags _ _ h
    simpa [State.flag] using hoffered
  unfold deliverVerdict
  dsimp only
  split
  · exact h
  · exact hrestarted _

theorem deliverVerdict_of_none {v : Delivery} {s : State} (h : s.tracedSet v = []) :
    deliverVerdict v s = countOthers v [] allWatches s := by simp [deliverVerdict, h]

/-- With an armed watch that matches, the record is offered to the log as it stood. -/
theorem deliverVerdict_of_some {v : Delivery} {s : State} (h : s.tracedSet v ≠ []) :
    let record := (countOthers v (s.tracedSet v) allWatches s).traceRecord v (s.tracedSet v)
    (deliverVerdict v s).lw = (offerRecord record s).lw ∧ (deliverVerdict v s).mc = (offerRecord record s).mc := by
  intro record
  have hoffers : OffersAlike False s (countOthers v (s.tracedSet v) allWatches s) :=
    ⟨by simp, by simp, by simp, nofun⟩
  have hdelivered : deliverVerdict v s = restartTraced (s.tracedSet v) (offerRecord record
      (countOthers v (s.tracedSet v) allWatches s)) := if_neg (by simp [h])
  rw [hdelivered]
  exact ⟨by rw [← (hoffers.offerRecord record).lw]; simp, by rw [← (hoffers.offerRecord record).mc]; simp⟩

/-- Settles O52: each watch after the delivery, and the TRACE record of the armed ones. -/
theorem deliveryCountsOrTraces : Obligations.DeliveryCountsOrTraces := by
  intro v s t matched total traced
  have hmatched (k : Fin 4) : matched k ↔ (s.watch k).isMatch v = true := (isMatch_iff _ v).symm
  have hwatch (k : Fin 4) := watch_deliverVerdict v s k
  have htraced (k : Fin 4) : traced k ↔ k ∈ s.tracedSet v := by rw [mem_tracedSet, ← hmatched]
  have htotal (k : Fin 4) : (s.watch k).count.toNat + (s.watch k).amount v = total k := watch_total (s.watch k) v
  have hwraps (k : Fin 4) : (s.watch k).wraps v = decide (2 ^ 32 ≤ total k) := by rw [Watch.wraps, htotal]
  refine ⟨fun k => ⟨fun hno => ?_, fun htrace => ?_, fun hmatch harmed => ?_, fun hmatch harmed hwrap hirq => ?_⟩,
    fun hnone => ?_, fun inSet flags hin hflags hsome => ?_, MaintPort.eq_of_noFlags (by simp [t]), ?_⟩
  · rw [hwatch, if_neg (mt (hmatched k).2 hno)]
  · rw [hwatch, if_pos ((hmatched k).1 htrace.1), if_pos htrace.2]
    rfl
  · rw [hwatch, if_pos ((hmatched k).1 hmatch), if_neg (by simp [harmed]), Watch.counted, harmed, hwraps,
      counted_count (s.watch k) v, htotal]
    rfl
  · have hfree : k ∉ s.tracedSet v := fun hmem => by simp [((htraced k).2 hmem).2] at harmed
    exact flag_deliverVerdict (flag_countOthers v _ allWatches (by decide) (mem_allWatches k) ((hmatched k).1 hmatch) hfree
      (by rw [hwraps]; exact decide_eq_true hwrap) hirq)
  · have hempty : s.tracedSet v = [] := List.eq_nil_iff_forall_not_mem.2 fun k => mt (htraced k).2 (hnone k)
    rw [show t = countOthers v [] allWatches s from deliverVerdict_of_none hempty]
    simp
  · obtain ⟨k, hk⟩ := hsome
    have hrecord : (countOthers v (s.tracedSet v) allWatches s).traceRecord v (s.tracedSet v) =
        .trace (List.ofFn inSet) (List.ofFn flags) v s.tb.epoch s.tb.stamp := by
      have hset (k : Fin 4) : (s.tracedSet v).contains k = inSet k := by
        rw [Bool.eq_iff_iff, hin, htraced, List.contains_iff_mem]
      have hoverflow (k : Fin 4) : ((countOthers v (s.tracedSet v) allWatches s).watch k).overflow = flags k := by
        rw [Bool.eq_iff_iff, hflags, overflow_counted, ← hmatched, hwraps, decide_eq_true_iff]
        exact or_congr_right (and_congr_right fun hmatch => and_congr_left fun _ => by simp [traced, hmatch])
      rw [State.traceRecord, ofFn_eq_map, ofFn_eq_map]
      simp only [hset, hoverflow]
      simp
    have hnonempty : s.tracedSet v ≠ [] := List.ne_nil_of_mem ((htraced k).1 hk)
    obtain ⟨hlw, hmc⟩ := deliverVerdict_of_some hnonempty
    rw [hrecord] at hlw hmc
    refine ⟨hlw, hmc, fun hidle hqueue hroom => ?_⟩
    rw [hlw, hmc]
    exact offerRecord_writes _ hidle hqueue hroom
  · exact deliverVerdict_of_alike (.refl s) v

end Sys2Proof.Machine
end

section
/-! ## Proofs: offered records (R161, R162, R164, R169) and the end of an access (R166, R168, R175 to R179) -/

namespace Sys2Proof.Machine

/-! ### The layout (Table 10-1) -/

theorem Record.assigned_length_le (r : Record) : r.assigned.length ≤ 16 := by
  cases r <;> simp [Record.assigned, words32, words40]

/-- The words of a record are its assigned words, and 0 behind them. -/
theorem Record.words_getD (r : Record) (k : Nat) : r.words.getD k 0 = r.assigned.getD k 0 := by
  by_cases hk : k < 16
  · simp [Record.words, List.getD_eq_getElem?_getD, hk]
  · have hlength := r.assigned_length_le
    rw [List.getD_eq_default _ _ (by rw [r.words_length]; omega), List.getD_eq_default _ _ (by omega)]

/-- Behind the assigned words every word is 0. -/
theorem Record.assigned_behind {r : Record} {n : Nat} (h : r.assigned.length ≤ n) :
    ∀ k, n ≤ k → (r.assigned.getD k 0).toNat = 0 := fun k hk => by
  rw [List.getD_eq_default _ _ (h.trans hk)]
  rfl

theorem part_toNat (n k : Nat) : (part n k).toNat = n / 65536 ^ k % 65536 := by simp [part]

theorem long_parts (n : Nat) : (part n 0).toNat + 65536 * (part n 1).toNat = n % 2 ^ 32 := by
  simp only [part_toNat]
  omega

theorem long_parts_of_lt {n : Nat} (h : n < 2 ^ 32) : (part n 0).toNat + 65536 * (part n 1).toNat = n := by
  rw [long_parts, Nat.mod_eq_of_lt h]

theorem number40_parts (n : BitVec 40) :
    (part n.toNat 0).toNat + 65536 * (part n.toNat 1).toNat + 2 ^ 32 * (part n.toNat 2).toNat = n.toNat := by
  have hn := n.isLt
  simp only [part_toNat]
  omega

theorem word_toNat {n : Nat} (h : n < 65536) : (word n).toNat = n := by
  rw [word, BitVec.toNat_ofNat, Nat.mod_eq_of_lt h]

theorem client_lt (i : Fin Config.clientCount) : i.val < 65536 := i.isLt.trans (by decide)

theorem pointWord_toNat (group : BitVec 3) (port : BitVec 12) :
    (pointWord group port).toNat = port.toNat + 4096 * group.toNat := by
  have hgroup := group.isLt
  have hport := port.isLt
  exact word_toNat (by omega)

theorem bit_le (b : Bool) : bit b ≤ 1 := by cases b <;> decide

theorem watchBits_ofFn (f : Fin 4 → Bool) :
    watchBits (List.ofFn f) = bit (f 0) + 2 * bit (f 1) + 4 * bit (f 2) + 8 * bit (f 3) := by
  have hbits : watchBits (List.ofFn f) = bit (f 0) + 2 * (bit (f 1) + 2 * (bit (f 2) + 2 * (bit (f 3) + 2 * 0))) := rfl
  omega

theorem watchBits_lt (f : Fin 4 → Bool) : watchBits (List.ofFn f) < 16 := by
  have h0 := bit_le (f 0)
  have h1 := bit_le (f 1)
  have h2 := bit_le (f 2)
  have h3 := bit_le (f 3)
  rw [watchBits_ofFn]
  omega

/-- The places of four watches, with other fields above them. -/
theorem testBit_watchBits (f : Fin 4 → Bool) (rest : Nat) (k : Fin 4) :
    (watchBits (List.ofFn f) + 16 * rest).testBit k.val = f k := by
  have hplace : (watchBits (List.ofFn f) + 16 * rest) / 2 ^ k.val % 2 = bit (f k) := by
    have h0 := bit_le (f 0)
    have h1 := bit_le (f 1)
    have h2 := bit_le (f 2)
    have h3 := bit_le (f 3)
    rw [watchBits_ofFn]
    match k with
    | 0 => simp only [Fin.val_zero]; omega
    | 1 => simp only [Fin.val_one]; omega
    | 2 => simp only [Fin.val_two]; omega
    | 3 => show _ / 2 ^ 3 % 2 = _; omega
  rw [Nat.testBit_eq_decide_div_mod_eq, hplace]
  cases f k <;> rfl

/-- Word 4 of a TRACE record. -/
theorem traceWord_fields (inSet flags : Fin 4 → Bool) (d : Dir) (v : Verdict) (why : Reason) :
    let w := (word (watchBits (List.ofFn inSet) + 16 * watchBits (List.ofFn flags) + 256 * dirCode d + 512 * v.code +
      2048 * why.code)).toNat
    (∀ k : Fin 4, w.testBit k.val = inSet k ∧ w.testBit (4 + k.val) = flags k) ∧ w / 256 % 2 = dirCode d ∧
      w / 512 % 4 = v.code ∧ w / 2048 = why.code := by
  intro w
  have hset := watchBits_lt inSet
  have hflags := watchBits_lt flags
  have hdir : dirCode d ≤ 1 := by cases d <;> decide
  have hverdict : v.code ≤ 3 := by cases v <;> decide
  have hreason : why.code ≤ 11 := by cases why <;> decide
  have hw : w = watchBits (List.ofFn inSet) + 16 * (watchBits (List.ofFn flags) + 16 * (dirCode d + 2 * v.code +
      8 * why.code)) := by
    rw [show w = _ from word_toNat (by omega)]
    omega
  have hshift : w / 2 ^ 4 = watchBits (List.ofFn flags) + 16 * (dirCode d + 2 * v.code + 8 * why.code) := by omega
  refine ⟨fun k => ⟨?_, ?_⟩, by omega, by omega, by omega⟩
  · rw [hw, testBit_watchBits]
  · rw [Nat.add_comm, ← Nat.testBit_div_two_pow, hshift, testBit_watchBits]

/-! ### Offers (R162, R164, R169) -/

theorem MemController.grantLog_eq (m : MemController) : m.grantLog = { m with
    owner := .log, wordIndex := 0, granted := none
    phase := if m.marker = .write then .setup else .turnaround, timedOut := m.grantLog.timedOut } := by
  by_cases h : m.marker = .write
  · simp [MemController.grantLog, MemController.enter, MemController.beginSetup, h]
  · simp [MemController.grantLog, MemController.enter, h]

/-- A log request at a free bus is granted at once, and waits at a busy one. -/
theorem placeLogRequest_mc (r : LogRequest) (s : State) :
    (s.mc.phase = .idle → (placeLogRequest r s).mc = { s.mc with
      logRequest := some r, owner := .log, wordIndex := 0, granted := none
      phase := if s.mc.marker = .write then .setup else .turnaround
      timedOut := (placeLogRequest r s).mc.timedOut }) ∧
    (s.mc.phase ≠ .idle → (placeLogRequest r s).mc = { s.mc with logRequest := some r }) := by
  refine ⟨fun h => ?_, fun h => ?_⟩
  · have hgranted : (placeLogRequest r s).mc = { s.mc with logRequest := some r }.grantLog :=
      MemController.arbitrate_log (m := { s.mc with logRequest := some r }) h rfl
    rw [hgranted]
    exact MemController.grantLog_eq _
  · exact MemController.arbitrate_busy (m := { s.mc with logRequest := some r }) h

/-- What an offer does, writer by writer. -/
theorem offerRecord_effect (r : Record) (s : State) (hs : BusOk s) :
    let t := offerRecord r s
    let lost : State :=
      { s with
        lw := { s.lw with lost := min 65535 (s.lw.lost + 1) }
        mp := { s.mp with flags := s.mp.flags ||| BitVec.twoPow 16 12 } }
    (s.lw.writer = .idle → s.lw.index ≠ s.mp.cfg.limit →
      t.lw = { s.lw with inFlight := some r, writer := .writing } ∧
      (s.mc.phase = .idle → t.mc = { s.mc with
        logRequest := some ⟨s.lw.index, r.words⟩, owner := .log, wordIndex := 0, granted := none
        phase := if s.mc.marker = .write then .setup else .turnaround, timedOut := t.mc.timedOut }) ∧
      (s.mc.phase ≠ .idle → t.mc = { s.mc with logRequest := some ⟨s.lw.index, r.words⟩ }) ∧
      t = { s with lw := t.lw, mc := t.mc }) ∧
    (s.lw.writer = .idle → s.lw.index = s.mp.cfg.limit → t = lost) ∧
    (s.lw.writer = .writing → s.lw.queue.length < 8 → t = { s with lw := { s.lw with queue := s.lw.queue ++ [r] } }) ∧
    (s.lw.writer = .writing → 8 ≤ s.lw.queue.length → t = lost) ∧ r.words.length = 16 := by
  intro t lost
  refine ⟨fun hidle hroom => ?_, fun hidle hfull => ?_, fun hwriting hroom => offerRecord_writing r hwriting hroom,
    fun _ hfull => offerRecord_lost r hfull, r.words_length⟩
  · have hqueue := hs.queue hidle
    have ht : t = placeLogRequest ⟨s.lw.index, r.words⟩
        { s with lw := { s.lw with queue := [], inFlight := some r, writer := .writing } } :=
      (offerRecord_idle r hidle hqueue).trans
        (takeFrom_room (s := { s with lw := { s.lw with queue := [r] } }) r [] hroom)
    obtain ⟨hgranted, hwaits⟩ := placeLogRequest_mc ⟨s.lw.index, r.words⟩
      { s with lw := { s.lw with queue := [], inFlight := some r, writer := .writing } }
    rw [← ht] at hgranted hwaits
    refine ⟨?_, hgranted, hwaits, ?_⟩
    · rw [ht, hqueue.symm]
      rfl
    · rw [ht]
      rfl
  · have hqueue := hs.queue hidle
    have ht : t = takeFrom [] (loseRecord { s with lw := { s.lw with queue := [r] } }) :=
      (offerRecord_idle r hidle hqueue).trans
        (takeFrom_full (s := { s with lw := { s.lw with queue := [r] } }) r [] hfull)
    have hlost : lost = { s with
        lw := { s.lw with lost := min 65535 (s.lw.lost + 1), queue := [] }
        mp := { s.mp with flags := s.mp.flags ||| BitVec.twoPow 16 12 } } := by rw [← hqueue]
    rw [ht, hlost]
    rfl

/-- Settles O54: the offer, and the fields of each kind of record. -/
theorem offeredRecordsAreTakenOrLost : Obligations.OfferedRecordsAreTakenOrLost := by
  refine ⟨offerRecord_effect, ?_⟩
  intro word' long number40 client epoch admitted
  have hword (r : Record) (k : Nat) : word' r k = (r.assigned.getD k 0).toNat := by
    show (r.words.getD k 0).toNat = _
    rw [r.words_getD]
  have hepoch := long_parts_of_lt epoch.isLt
  have hclient := word_toNat (client_lt client)
  simp only [long, number40, hword]
  refine ⟨fun allowance => ⟨rfl, hepoch, hclient, rfl, number40_parts _, number40_parts _, Record.assigned_behind ?_⟩,
    fun reason attachEpoch dropped group port => ⟨?_, hepoch, hclient, pointWord_toNat group port,
      long_parts_of_lt attachEpoch.isLt, number40_parts _, number40_parts _, long_parts dropped, Record.assigned_behind ?_⟩,
    ⟨rfl, hepoch, hclient, rfl, number40_parts _, number40_parts _, Record.assigned_behind ?_⟩,
    fun inSet flags v stamp => ?_, fun station set change size hsize => ⟨?_, hepoch, rfl, ?_, Record.assigned_behind ?_⟩⟩
  · simp [Record.assigned, words32, words40]
  · cases reason <;> rfl
  · simp [Record.assigned, words32, words40]
  · simp [Record.assigned, words32, words40]
  · obtain ⟨hplaces, hdir, hverdict, hreason⟩ := traceWord_fields inSet flags v.dir v.verdict v.reason
    refine ⟨rfl, hepoch, word_toNat (client_lt v.client), hplaces, hdir.trans ?_, hverdict.trans ?_, hreason.trans ?_,
      BitVec.toNat_ofNat _ _, long_parts _, long_parts _, BitVec.toNat_ofNat _ _,
      long_parts_of_lt (stamp.isLt.trans (by decide)), Record.assigned_behind ?_⟩
    · cases v.dir <;> rfl
    · cases v.verdict <;> rfl
    · cases v.reason <;> rfl
    · simp [Record.assigned, words32]
  · cases change <;> rfl
  · exact word_toNat (by have hset := set.isLt; omega)
  · simp [Record.assigned, words32]

end Sys2Proof.Machine
end

section
/-! ## Proofs: the end of an access (R165 to R168, R170, R175 to R181) -/

namespace Sys2Proof.Machine

/-! ### The writer takes what is queued (R164) -/

/-- At a full log every queued record is lost. -/
theorem takeFrom_all_lost (rs : List Record) {s : State} (hfull : s.lw.index = s.mp.cfg.limit) :
    (takeFrom rs s).lw = { s.lw with
      queue := [], lost := if rs.length = 0 then s.lw.lost else min 65535 (s.lw.lost + rs.length) } ∧
    (takeFrom rs s).mc = s.mc ∧ (rs ≠ [] → (takeFrom rs s).flag .recordLost = true) := by
  induction rs generalizing s with
  | nil => exact ⟨rfl, rfl, fun h => absurd rfl h⟩
  | cons r rest ih =>
    obtain ⟨hlw, hmc, _⟩ := ih (s := loseRecord s) hfull
    rw [takeFrom_full r rest hfull]
    refine ⟨hlw.trans ?_, hmc, fun _ => takeFrom_flags _ _ (flag_raise_self _ _)⟩
    have hcount : (if rest.length = 0 then min 65535 (s.lw.lost + 1) else
        min 65535 (min 65535 (s.lw.lost + 1) + rest.length)) =
        if (r :: rest).length = 0 then s.lw.lost else min 65535 (s.lw.lost + (r :: rest).length) := by
      rw [if_neg (show ¬ (r :: rest).length = 0 from Nat.succ_ne_zero _), List.length_cons]
      split <;> omega
    exact congrArg (fun n => { s.lw with queue := [], lost := n }) hcount

/-- Taking raises no flag but RECORD_LOST. -/
theorem flag_takeFrom (rs : List Record) {f : IrqFlag} (hf : f ≠ .recordLost) (s : State) :
    (takeFrom rs s).flag f = s.flag f := by
  induction rs generalizing s with
  | nil => rfl
  | cons r rest ih =>
    by_cases hfull : s.lw.index = s.mp.cfg.limit
    · rw [takeFrom_full r rest hfull, ih, loseRecord, flag_raise, decide_eq_false hf.symm, Bool.or_false]
      rfl
    · rw [takeFrom_room r rest hfull]
      rfl

/-- Taking leaves all but the log writer, the memory controller and the flags. -/
theorem takeFrom_only (rs : List Record) (s : State) :
    (takeFrom rs s).mp = { s.mp with flags := (takeFrom rs s).mp.flags } ∧
    takeFrom rs s = { s with lw := (takeFrom rs s).lw, mc := (takeFrom rs s).mc, mp := (takeFrom rs s).mp } := by
  induction rs generalizing s with
  | nil => exact ⟨rfl, rfl⟩
  | cons r rest ih =>
    by_cases hfull : s.lw.index = s.mp.cfg.limit
    · rw [takeFrom_full r rest hfull]
      exact ih (loseRecord s)
    · rw [takeFrom_room r rest hfull]
      exact ⟨rfl, rfl⟩

/-- What the writer keeps of its registers in taking. -/
theorem takeFrom_registers (rs : List Record) (s : State) :
    (takeFrom rs s).lw = { s.lw with
      queue := (takeFrom rs s).lw.queue, writer := (takeFrom rs s).lw.writer
      inFlight := (takeFrom rs s).lw.inFlight, lost := (takeFrom rs s).lw.lost } := by
  induction rs generalizing s with
  | nil => rfl
  | cons r rest ih =>
    by_cases hfull : s.lw.index = s.mp.cfg.limit
    · rw [takeFrom_full r rest hfull]
      exact ih (loseRecord s)
    · rw [takeFrom_room r rest hfull]
      rfl

/-! ### The end of a record (R165 to R168, R170) -/

/-- A record ends: the index is settled, the bus is free, and the writer takes the next one. -/
structure RecordEnds (s v : State) : Prop where
  lw : v.lw = { s.lw with
    index := match s.lw.pendingIndex with
      | some x => x
      | none => if s.mc.timedOut = true then s.lw.index else s.lw.index + 16
    pendingIndex := none
    lost := if s.mc.timedOut = true then min 65535 (s.lw.lost + 1) else s.lw.lost }
  mc : v.mc = s.mc.endLog
  mp : v.mp = { s.mp with flags := v.mp.flags }
  only : v = { s with lw := v.lw, mc := v.mc, mp := v.mp }
  timeout : s.mc.timedOut = true → v.flag .recordLost = true ∧ v.flag .memoryTimeout = true
  marks : s.mc.timedOut = false → s.lw.pendingIndex = none →
    (v.lw.index = s.lw.threshold → v.flag .logThreshold = true) ∧ (v.lw.index = s.mp.cfg.limit → v.flag .logFull = true)
  quiet : s.mc.timedOut = true ∨ s.lw.pendingIndex.isSome = true →
    v.flag .logThreshold = s.flag .logThreshold ∧ v.flag .logFull = s.flag .logFull

theorem recordTimedOut_of_none {s : State} (h : s.lw.pendingIndex = none) :
    recordTimedOut s = releaseRecord (loseRecord s) := by
  have hlost : (loseRecord s).lw.pendingIndex = none := h
  simp only [recordTimedOut, hlost]

theorem recordTimedOut_of_some {s : State} {x : Nat} (h : s.lw.pendingIndex = some x) :
    recordTimedOut s = releaseRecord (applyPendingIndex x (loseRecord s)) := by
  have hlost : (loseRecord s).lw.pendingIndex = some x := h
  simp only [recordTimedOut, hlost]

theorem recordTimedOut_ends {s : State} (howner : s.mc.owner = .log) (h : s.mc.timedOut = true) :
    ∃ v, endAccess s = arbitrate (releaseRecord v) ∧ RecordEnds s v := by
  have hend : endAccess s = arbitrate (recordTimedOut { raise .memoryTimeout s with mc := s.mc.endLog }) := by
    simp [endAccess, howner, h]
  have hflag (u : State) (hu : u.mp = (loseRecord { raise .memoryTimeout s with mc := s.mc.endLog }).mp) (f : IrqFlag) :
      u.flag f = (s.flag f || decide (IrqFlag.memoryTimeout = f) || decide (IrqFlag.recordLost = f)) := by
    rw [State.flag, hu]
    exact (flag_raise _ _ _).trans (congrArg (· || _) (flag_raise _ _ _))
  have hraised (u : State) (hu : u.mp = (loseRecord { raise .memoryTimeout s with mc := s.mc.endLog }).mp) :
      (s.mc.timedOut = true → u.flag .recordLost = true ∧ u.flag .memoryTimeout = true) ∧
      (s.mc.timedOut = false → s.lw.pendingIndex = none →
        (u.lw.index = s.lw.threshold → u.flag .logThreshold = true) ∧
        (u.lw.index = s.mp.cfg.limit → u.flag .logFull = true)) ∧
      (s.mc.timedOut = true ∨ s.lw.pendingIndex.isSome = true →
        u.flag .logThreshold = s.flag .logThreshold ∧ u.flag .logFull = s.flag .logFull) :=
    ⟨fun _ => by simp [hflag u hu], fun hno => by simp [h] at hno, fun _ => by simp [hflag u hu]⟩
  cases hpending : s.lw.pendingIndex with
  | none =>
    obtain ⟨htimeout, hmarks, hquiet⟩ := hraised (loseRecord { raise .memoryTimeout s with mc := s.mc.endLog }) rfl
    refine ⟨_, hend.trans (congrArg arbitrate (recordTimedOut_of_none hpending)), ?_, rfl, rfl, rfl, htimeout, hmarks,
      hquiet⟩
    have hlw : (loseRecord { raise .memoryTimeout s with mc := s.mc.endLog }).lw =
        { s.lw with lost := min 65535 (s.lw.lost + 1) } := rfl
    rw [hlw]
    simp [hpending, h]
  | some x =>
    obtain ⟨htimeout, hmarks, hquiet⟩ := hraised (applyPendingIndex x (loseRecord { raise .memoryTimeout s with
      mc := s.mc.endLog })) rfl
    refine ⟨_, hend.trans (congrArg arbitrate (recordTimedOut_of_some hpending)), ?_, rfl, rfl, rfl, htimeout, hmarks,
      hquiet⟩
    simp only [hpending, if_pos h]
    rfl

theorem advanceIndex_eq (s : State) :
    advanceIndex s = { s with lw := (advanceIndex s).lw, mp := (advanceIndex s).mp } ∧
    (advanceIndex s).mp = { s.mp with flags := (advanceIndex s).mp.flags } ∧
    (s.lw.index + 16 = s.lw.threshold → (advanceIndex s).flag .logThreshold = true) ∧
    (s.lw.index + 16 = s.mp.cfg.limit → (advanceIndex s).flag .logFull = true) := by
  have hthreshold (h : s.lw.index + 16 = s.lw.threshold) : (advanceIndex s).flag .logThreshold = true := by
    unfold advanceIndex
    dsimp only
    rw [if_pos h]
    split
    · exact flag_raise_of_flag _ (flag_raise_self _ _)
    · exact flag_raise_self _ _
  have hfull (h : s.lw.index + 16 = s.mp.cfg.limit) : (advanceIndex s).flag .logFull = true := by
    unfold advanceIndex
    dsimp only
    rw [if_pos h]
    exact flag_raise_self _ _
  refine ⟨?_, ?_, hthreshold, hfull⟩
  all_goals
    unfold advanceIndex
    dsimp only
    (repeat' split) <;> rfl

theorem recordCompleted_ends {s : State} (howner : s.mc.owner = .log) (h : s.mc.timedOut = false)
    (hlast : 15 ≤ s.mc.wordIndex) : ∃ v, endAccess s = arbitrate (releaseRecord v) ∧ RecordEnds s v := by
  have hend : endAccess s = arbitrate (recordCompleted { s with mc := s.mc.endLog }) := by
    simp [endAccess, howner, h, Nat.not_lt.2 hlast]
  have hfalse : ¬ s.mc.timedOut = true := by simp [h]
  rw [hend, recordCompleted]
  refine ⟨_, rfl, ?_⟩
  cases hpending : s.lw.pendingIndex with
  | none =>
    obtain ⟨honly, hmp, hthreshold, hfull⟩ := advanceIndex_eq { s with mc := s.mc.endLog }
    have hlw := advanceIndex_lw { s with mc := s.mc.endLog }
    have hmc := advanceIndex_mc { s with mc := s.mc.endLog }
    dsimp only
    generalize advanceIndex { s with mc := s.mc.endLog } = v at *
    refine ⟨?_, hmc, hmp, ?_, fun hno => absurd hno hfalse, fun _ _ => ⟨fun hi => hthreshold ?_, fun hi => hfull ?_⟩,
      fun hno => ?_⟩
    · rw [hlw]
      simp [hpending, h]
    · exact honly.trans (by rw [← hmc])
    · rw [hlw] at hi; exact hi
    · rw [hlw] at hi; exact hi
    · simp [h, hpending] at hno
  | some x =>
    dsimp only
    refine ⟨?_, rfl, rfl, rfl, fun hno => absurd hno hfalse, fun _ hno => ?_, fun _ => ⟨rfl, rfl⟩⟩
    · simp only [hpending, if_neg hfalse]
      rfl
    · simp [hpending] at hno

/-- The word of a record that is not its last, in time. -/
theorem endAccess_next_word {s : State} (howner : s.mc.owner = .log) (h : s.mc.timedOut = false)
    (hmore : s.mc.wordIndex < 15) : endAccess s = { s with mc := { s.mc with
      wordIndex := s.mc.wordIndex + 1, phase := .setup, marker := .write, timedOut := false } } := by
  simp only [endAccess, howner, h]
  rw [if_neg (by decide), if_pos hmore]
  rfl

theorem arbitrate_endLog (m : MemController) :
    m.endLog.arbitrate.owner = (if m.slot ≠ none then .window else .none) ∧ m.endLog.arbitrate.logRequest = none := by
  cases hslot : m.slot with
  | none =>
    rw [MemController.arbitrate_nothing (m := m.endLog) rfl hslot]
    exact ⟨rfl, rfl⟩
  | some q =>
    rw [MemController.arbitrate_window (m := m.endLog) rfl rfl hslot]
    unfold MemController.grantWindow MemController.enter
    split <;> exact ⟨by simp [MemController.beginSetup], rfl⟩

/-- With nothing queued or a full log the queue is empty afterwards, and the bus as it was. -/
theorem takeFrom_none_left (rs : List Record) {s : State} (h : rs = [] ∨ s.lw.index = s.mp.cfg.limit) :
    (takeFrom rs s).lw = { s.lw with
      queue := [], lost := if rs.length = 0 then s.lw.lost else min 65535 (s.lw.lost + rs.length) } ∧
    (takeFrom rs s).mc = s.mc ∧ (rs ≠ [] → (takeFrom rs s).flag .recordLost = true) := by
  rcases h with rfl | hfull
  · exact ⟨rfl, rfl, fun h => absurd rfl h⟩
  · exact takeFrom_all_lost rs hfull

/-- The end of a log write, from the ended record on. -/
theorem accessEnd_log {s v : State} (hv : RecordEnds s v) :
    let t := arbitrate (releaseRecord v)
    let index := v.lw.index
    let losses := if s.mc.timedOut = true then 1 else 0
    (∀ f, f ≠ IrqFlag.recordLost → t.flag f = v.flag f) ∧ (v.flag .recordLost = true → t.flag .recordLost = true) ∧
    (t.lw = { s.lw with
      index := index, pendingIndex := none, queue := t.lw.queue, writer := t.lw.writer, inFlight := t.lw.inFlight
      lost := t.lw.lost }) ∧
    ((s.lw.queue = [] ∨ index = s.mp.cfg.limit) →
      t.lw.queue = [] ∧ t.lw.inFlight = none ∧ t.lw.writer = .idle ∧ t.mc.logRequest = none ∧
      t.mc.owner = (if s.mc.slot ≠ none then .window else .none) ∧
      t.lw.lost = (if losses + s.lw.queue.length = 0 then s.lw.lost
        else min 65535 (s.lw.lost + (losses + s.lw.queue.length))) ∧
      (s.lw.queue ≠ [] → t.flag .recordLost = true)) ∧
    (index ≠ s.mp.cfg.limit → ∀ r rest, s.lw.queue = r :: rest →
      t.lw.queue = rest ∧ t.lw.inFlight = some r ∧ t.lw.writer = .writing ∧
      t.mc = { s.mc with
        owner := .log, wordIndex := 0, granted := none, logRequest := some ⟨index, r.words⟩, marker := s.mc.marker
        phase := if s.mc.marker = .write then .setup else .turnaround, timedOut := t.mc.timedOut } ∧
      t.lw.lost = (if s.mc.timedOut = true then min 65535 (s.lw.lost + 1) else s.lw.lost)) ∧
    t.mp = { s.mp with flags := t.mp.flags } ∧ t = { s with lw := t.lw, mc := t.mc, mp := t.mp } := by
  intro t index losses
  have hqueue : v.lw.queue = s.lw.queue := by rw [hv.lw]
  have hlost : v.lw.lost = if s.mc.timedOut = true then min 65535 (s.lw.lost + 1) else s.lw.lost := by rw [hv.lw]
  have hmc : v.mc = s.mc.endLog := hv.mc
  have hlimit : v.mp.cfg.limit = s.mp.cfg.limit := by rw [hv.mp]
  have ht : t = arbitrate (takeFrom s.lw.queue { v with lw := { v.lw with inFlight := none, writer := .idle } }) := by
    rw [← hqueue, ← releaseRecord_eq]
  have hregisters := takeFrom_registers s.lw.queue { v with lw := { v.lw with inFlight := none, writer := .idle } }
  obtain ⟨hport, honly⟩ := takeFrom_only s.lw.queue { v with lw := { v.lw with inFlight := none, writer := .idle } }
  refine ⟨fun f hf => ?_, fun h => ?_, ?_, fun hall => ?_, fun hroom r rest hrest => ?_, ?_, ?_⟩
  · rw [ht]
    exact flag_takeFrom _ hf _
  · rw [ht]
    exact takeFrom_flags _ _ h
  · rw [ht]
    refine hregisters.trans ?_
    generalize takeFrom s.lw.queue _ = w
    show { v.lw with queue := w.lw.queue, writer := w.lw.writer, inFlight := w.lw.inFlight, lost := w.lw.lost } =
      { s.lw with index := v.lw.index, pendingIndex := none, queue := w.lw.queue, writer := w.lw.writer
                  inFlight := w.lw.inFlight, lost := w.lw.lost }
    rw [hv.lw]
  · obtain ⟨hlw, hbus, hflag⟩ : _ ∧ _ ∧ _ := takeFrom_none_left s.lw.queue
      (s := { v with lw := { v.lw with inFlight := none, writer := .idle } }) (hall.imp_right fun h => h.trans hlimit.symm)
    obtain ⟨howner, hrequest⟩ := arbitrate_endLog s.mc
    have htlw : t.lw = _ := (congrArg State.lw ht).trans hlw
    have htmc : t.mc = s.mc.endLog.arbitrate := by rw [ht, ← hmc]; exact congrArg MemController.arbitrate hbus
    refine ⟨by rw [htlw], by rw [htlw], by rw [htlw], by rw [htmc]; exact hrequest, by rw [htmc]; exact howner, ?_, ?_⟩
    · rw [htlw]
      dsimp only
      rw [hlost]
      simp only [losses]
      split <;> split <;> split <;> omega
    · intro hne
      rw [ht]
      exact hflag hne
  · rw [hrest] at ht
    rw [takeFrom_room (s := { v with lw := { v.lw with inFlight := none, writer := .idle } }) r rest
      (fun h => hroom (h.trans hlimit))] at ht
    have hgranted := (placeLogRequest_mc ⟨index, r.words⟩ { v with lw := { v.lw with
      queue := rest, inFlight := some r, writer := .writing } }).1 (by rw [hmc]; rfl)
    have htmc : t.mc = (placeLogRequest ⟨index, r.words⟩ { v with lw := { v.lw with
        queue := rest, inFlight := some r, writer := .writing } }).mc := by
      rw [ht]
      refine MemController.arbitrate_busy ?_
      have hbusy : (if v.mc.marker = .write then BusPhase.setup else .turnaround) ≠ .idle := by split <;> decide
      exact fun hidle => hbusy ((congrArg MemController.phase hgranted).symm.trans hidle)
    refine ⟨by rw [ht]; rfl, by rw [ht]; rfl, by rw [ht]; rfl, ?_, (congrArg (fun t : State => t.lw.lost) ht).trans hlost⟩
    rw [← htmc] at hgranted
    refine hgranted.trans ?_
    show { v.mc with
      logRequest := some ⟨index, r.words⟩, owner := .log, wordIndex := 0, granted := none
      phase := if v.mc.marker = AccessDir.write then .setup else .turnaround, timedOut := t.mc.timedOut } = _
    rw [hmc]
    rfl
  · rw [ht]
    refine hport.trans ?_
    generalize takeFrom s.lw.queue _ = w
    show { v.mp with flags := w.mp.flags } = { s.mp with flags := w.mp.flags }
    rw [hv.mp]
  · rw [ht]
    refine (congrArg arbitrate honly).trans ?_
    generalize takeFrom s.lw.queue _ = w
    show { v with lw := w.lw, mc := w.mc.arbitrate, mp := w.mp } = { s with lw := w.lw, mc := w.mc.arbitrate, mp := w.mp }
    rw [hv.only]

/-- The arbiter's choice behind a window access (R176, R177). -/
theorem arbitrate_endWindow (m : MemController) : m.endWindow.arbitrate.owner =
    (if m.logRequest ≠ none then .log else if m.slot ≠ none then .window else .none) := by
  have hgrant (dir : AccessDir) (n : MemController) : (n.enter dir).owner = n.owner := by
    unfold MemController.enter
    split <;> rfl
  cases hlog : m.logRequest with
  | some r =>
    rw [MemController.arbitrate_log (m := m.endWindow) rfl (by simp [MemController.endWindow, hlog])]
    exact (hgrant _ _).trans (by simp)
  | none =>
    cases hslot : m.slot with
    | some q =>
      rw [MemController.arbitrate_window (m := m.endWindow) rfl hlog hslot]
      exact (hgrant _ _).trans (by simp)
    | none =>
      rw [MemController.arbitrate_nothing (m := m.endWindow) hlog hslot]
      simp [MemController.endWindow]

/-- The end of a window access. -/
theorem accessEnd_window {s : State} {q : WindowRequest} (howner : s.mc.owner = .window) (hgranted : s.mc.granted = some q) :
    let t := endAccess s
    t.mc.data = (if q.dir = .read then s.mc.sampled else s.mc.data) ∧
    t.mc.timeout = (s.mc.timeout || s.mc.timedOut) ∧ (s.mc.timedOut = true → t.flag .memoryTimeout = true) ∧
    (t.mc.ready = true ↔ s.mc.slot = none) ∧ t.mc.address = s.mc.address ∧
    t.mc.owner = (if s.mc.logRequest ≠ none then .log else if s.mc.slot ≠ none then .window else .none) ∧
    t.mp = { s.mp with flags := t.mp.flags } ∧ t = { s with mc := t.mc, mp := t.mp } := by
  intro t
  have ht : t = arbitrate { raiseIfTimedOut s with mc := s.mc.endWindow } := by simp [t, endAccess, howner]
  obtain ⟨_, hready, haddress, hdata, htimeout, _⟩ := MemController.arbitrate_frame s.mc.endWindow
  have hmc : t.mc = s.mc.endWindow.arbitrate := by rw [ht]; rfl
  have hraised : raiseIfTimedOut s = { s with mp := (raiseIfTimedOut s).mp } ∧
      (raiseIfTimedOut s).mp = { s.mp with flags := (raiseIfTimedOut s).mp.flags } := by
    unfold raiseIfTimedOut
    split <;> exact ⟨rfl, rfl⟩
  refine ⟨?_, ?_, fun htimed => ?_, ?_, ?_, ?_, ?_, ?_⟩
  · rw [hmc, hdata, MemController.endWindow, hgranted]
    cases q <;> rfl
  · rw [hmc, htimeout]
    rfl
  · rw [ht]
    show (raiseIfTimedOut s).flag .memoryTimeout = true
    rw [raiseIfTimedOut, if_pos htimed]
    exact flag_raise_self _ _
  · rw [hmc, hready]
    simp [MemController.endWindow]
  · rw [hmc, haddress]
    rfl
  · rw [hmc, arbitrate_endWindow]
  · rw [ht]
    exact hraised.2
  · rw [ht]
    generalize raiseIfTimedOut s = u at hraised
    rw [hraised.1]
    rfl

/-- Settles O58: the next word, the end of a record, and the end of a window access. -/
theorem accessesEndAndTellTheirRequester : Obligations.AccessesEndAndTellTheirRequester := by
  refine ⟨fun s hs hphase howner => ⟨endAccess s, congrArg Host.Outcome.next (if_pos hphase), ?_⟩,
    fun s q hs hphase howner hgranted => ⟨endAccess s, congrArg Host.Outcome.next (if_pos hphase), ?_⟩⟩
  · intro ends index losses
    by_cases hends : ends
    · obtain ⟨v, ht, hv⟩ : ∃ v, endAccess s = arbitrate (releaseRecord v) ∧ RecordEnds s v := by
        by_cases htimed : s.mc.timedOut = true
        · exact recordTimedOut_ends howner htimed
        · exact recordCompleted_ends howner (by simpa using htimed) (hends.resolve_left htimed)
      have hindex : v.lw.index = index := congrArg LogWriter.index hv.lw
      have hafter := accessEnd_log hv
      rw [← ht, hindex] at hafter
      obtain ⟨hflags, hrecord, hlw, hnone, hnext, hport, honly⟩ := hafter
      refine ⟨fun htimed hmore => absurd hends (by simp [ends, htimed, hmore]), fun _ => ⟨?_, ?_, ?_, ?_, ?_, hlw⟩,
        fun _ => hnone, fun _ => hnext, hport, honly⟩
      · exact congrArg LogWriter.index hlw
      · exact congrArg LogWriter.pendingIndex hlw
      · intro htimed
        obtain ⟨hlost, htimeout⟩ := hv.timeout htimed
        exact ⟨hrecord hlost, (hflags _ (by decide)).trans htimeout⟩
      · intro htimed hpending
        obtain ⟨hthreshold, hfull⟩ := hv.marks htimed hpending
        rw [hindex] at hthreshold hfull
        exact ⟨fun h => (hflags _ (by decide)).trans (hthreshold h), fun h => (hflags _ (by decide)).trans (hfull h)⟩
      · intro hquiet
        obtain ⟨hthreshold, hfull⟩ := hv.quiet hquiet
        exact ⟨(hflags _ (by decide)).trans hthreshold, (hflags _ (by decide)).trans hfull⟩
    · obtain ⟨htimed, hmore⟩ : s.mc.timedOut = false ∧ s.mc.wordIndex < 15 := by simpa [ends] using hends
      have ht := endAccess_next_word howner htimed hmore
      rw [ht]
      exact ⟨fun _ _ => rfl, fun h => absurd h hends, fun h => absurd h hends, fun h => absurd h hends, rfl, rfl⟩
  · exact accessEnd_window howner hgranted

end Sys2Proof.Machine
end

section
/-! ## Proofs: the closure walk (R102 to R106, R15, R26) -/

namespace Sys2Proof.Machine

/-! ### One entry (R103 to R105) -/

theorem dir_closeDir (c : ConfigWords) (n : Nat) (d d' : Dir) (e : ClientEntry) :
    (e.closeDir c n d).dir d' = if d' = d then
      ({ e.dir d with estimate := demandEstimate c e n d }.clearWindow e.selector) else e.dir d' :=
  ClientEntry.dir_setDir e d d' _

theorem demandEstimate_closeDir (c : ConfigWords) (n : Nat) {d d' : Dir} (h : d' ≠ d) (e : ClientEntry) :
    demandEstimate c (e.closeDir c n d) n d' = demandEstimate c e n d' := by
  have hdir : (e.closeDir c n d).dir d' = e.dir d' := by rw [dir_closeDir, if_neg h]
  have hbytes : (e.closeDir c n d).closedBytes d' = e.closedBytes d' := by
    simp only [ClientEntry.closedBytes, hdir]
    rfl
  rw [demandEstimate, hbytes]
  rfl

/-- R103 on one direction, whichever is done first. -/
theorem dir_closed (c : ConfigWords) (n : Nat) (e : ClientEntry) (d : Dir) :
    (e.closed c n).dir d = { e.dir d with estimate := demandEstimate c e n d }.clearWindow e.selector := by
  cases d with
  | up =>
    show ((e.closeDir c n .up).closeDir c n .down).dir .up = _
    rw [dir_closeDir, if_neg (by decide), dir_closeDir, if_pos rfl]
  | down =>
    show ((e.closeDir c n .up).closeDir c n .down).dir .down = _
    rw [dir_closeDir, if_pos rfl, dir_closeDir, if_neg (by decide), demandEstimate_closeDir c n (by decide)]
    rfl

/-- The entry outside its directions. -/
theorem closed_entry (c : ConfigWords) (n : Nat) (e : ClientEntry) : e.closed c n = { e with
    idleCount := if e.quiet = true then e.idleCount + 1 else 0, dirs := (e.closed c n).dirs } := rfl

theorem closedBytes_closed (c : ConfigWords) (n : Nat) (e : ClientEntry) (d : Dir) :
    (e.closed c n).closedBytes d = 0 := by
  have hselector : (e.closed c n).selector = e.selector := rfl
  simp only [ClientEntry.closedBytes, dir_closed, hselector, ClientDir.clearWindow]
  cases e.selector <;> rfl

theorem activeBytes_closed (c : ConfigWords) (n : Nat) (e : ClientEntry) (d : Dir) :
    (e.closed c n).activeBytes d = e.activeBytes d := by
  have hselector : (e.closed c n).selector = e.selector := rfl
  simp only [ClientEntry.activeBytes, dir_closed, hselector, ClientDir.clearWindow]
  cases e.selector <;> rfl

theorem quiet_iff (e : ClientEntry) :
    e.quiet = true ↔ e.state = .active ∧ e.closedBytes .up = 0 ∧ e.closedBytes .down = 0 := by
  simp [ClientEntry.quiet, and_assoc]

theorem agesOut_iff (c : ConfigWords) (e : ClientEntry) : e.agesOut c = true ↔
    (e.state = .active ∧ e.closedBytes .up = 0 ∧ e.closedBytes .down = 0) ∧ c.idleLimit.toNat ≤ e.idleCount + 1 := by
  rw [← quiet_iff, ClientEntry.agesOut, Bool.and_eq_true, decide_eq_true_iff]

/-- The entry as a step that makes it IDLE leaves it. -/
def ClientEntry.agedOut (c : ConfigWords) (n : Nat) (e : ClientEntry) : ClientEntry :=
  { ((e.closed c n).withGrants 0 0).zeroEstimates with state := .idle }

theorem agedOut_entry (c : ConfigWords) (n : Nat) (e : ClientEntry) : e.agedOut c n = { e with
    idleCount := if e.quiet = true then e.idleCount + 1 else 0, state := .idle, dirs := (e.agedOut c n).dirs } := by
  have hclosed := closed_entry c n e
  have haged : e.agedOut c n = { e.closed c n with state := .idle, dirs := (e.agedOut c n).dirs } := by
    unfold ClientEntry.agedOut
    generalize e.closed c n = f
    rfl
  refine haged.trans ?_
  generalize (e.agedOut c n).dirs = dirs
  generalize e.closed c n = f at hclosed
  rw [hclosed]

theorem dir_agedOut (c : ConfigWords) (n : Nat) (e : ClientEntry) (d : Dir) :
    (e.agedOut c n).dir d = { (e.closed c n).dir d with grant := 0, estimate := 0 } := by
  cases d <;> rfl

/-- The state with the entry IDLE, before the record. -/
def State.madeIdle (i : Fin Config.clientCount) (s : State) : State :=
  (leaveSharing i s).setClient i { ((leaveSharing i s).client i).zeroEstimates with state := .idle }

theorem becomeIdle_eq (i : Fin Config.clientCount) (s : State) : becomeIdle i s =
    if s.mp.cfg.idleRecords = true then
      offerRecord (.idle i s.tb.epoch (s.client i).admitted) (s.madeIdle i) else s.madeIdle i := by
  have hadmitted : ((leaveSharing i s).client i).admitted = (s.client i).admitted := by
    rw [client_leaveSharing_self]
    rfl
  unfold becomeIdle
  dsimp only
  rw [hadmitted]
  rfl

theorem madeIdle_change (i : Fin Config.clientCount) (s : State) : EntryChange i s (s.madeIdle i) :=
  (entryChange_leaveSharing i s).trans (entryChange_setClient i _ _)

theorem client_madeIdle (i : Fin Config.clientCount) (s : State) : (s.madeIdle i).client i =
    { ((s.client i).withGrants 0 0).zeroEstimates with state := .idle } := by
  rw [State.madeIdle, client_setClient_self, client_leaveSharing_self]

theorem remainder_madeIdle (i : Fin Config.clientCount) (s : State) (d : Dir) :
    ((s.madeIdle i).shareDir d).remainder = (s.shareDir d).remainder + s.grant d i :=
  congrArg ShareDir.remainder (shareDir_leaveSharing i s d)

theorem grant_closed (c : ConfigWords) (n : Nat) (e : ClientEntry) (d : Dir) :
    ((e.closed c n).dir d).grant = (e.dir d).grant := (e.sameStanding_closed c n).grant d

/-- The IDLE record of R105, where the step makes one. -/
def State.idleRecorded (i : Fin Config.clientCount) (s : State) : State :=
  if (s.client i).agesOut s.mp.cfg = true ∧ s.mp.cfg.recordEnables.getLsbD 0 = true then
    offerRecord (.idle i s.tb.epoch (s.client i).admitted) s else s

/-- R103 and R105 on an entry that is not FREE. -/
structure ClosesEntry (i : Fin Config.clientCount) (n : Nat) (s u : State) : Prop where
  entry : u.client i = if (s.client i).agesOut s.mp.cfg = true then (s.client i).agedOut s.mp.cfg n
    else (s.client i).closed s.mp.cfg n
  remainder : ∀ d, (u.shareDir d).remainder = (s.shareDir d).remainder + (s.grant d i - u.grant d i)
  struck : (s.client i).agesOut s.mp.cfg = true → Struck i s u
  snapshot : (s.client i).agesOut s.mp.cfg = false → u.se.snapshot = s.se.snapshot
  others : OthersKept i s u
  shares : SharesKept s u
  only : u = { s.idleRecorded i with se := u.se, ct := u.ct }

/-- An offer behind a change of clients is that offer, with the change. -/
theorem ClientsOnly.offerRecord {s w : State} (h : ClientsOnly s w) (r : Record) :
    Machine.offerRecord r w = { Machine.offerRecord r s with se := w.se, ct := w.ct } := by
  rw [offerRecord_of_alike (h.readsAlike True), offerRecord_of_alike (.refl s)]
  obtain ⟨_, _, rfl⟩ := h
  rfl

theorem closeEntry_closes (i : Fin Config.clientCount) (n : Nat) {s : State} (hf : (s.client i).state ≠ .free) :
    ClosesEntry i n s (closeEntry i n s) := by
  have hclosed : (s.setClient i ((s.client i).closed s.mp.cfg n)).client i = (s.client i).closed s.mp.cfg n :=
    client_setClient_self s i _
  have hheld (d : Dir) : (s.setClient i ((s.client i).closed s.mp.cfg n)).grant d i = s.grant d i := by
    rw [State.grant, hclosed, grant_closed]
    rfl
  by_cases hages : (s.client i).agesOut s.mp.cfg = true
  · have hchange := (entryChange_setClient i ((s.client i).closed s.mp.cfg n) s).trans (madeIdle_change i _)
    have hentry := client_madeIdle i (s.setClient i ((s.client i).closed s.mp.cfg n))
    have hremainder (d : Dir) := remainder_madeIdle i (s.setClient i ((s.client i).closed s.mp.cfg n)) d
    have hstruck : Struck i s ((s.setClient i ((s.client i).closed s.mp.cfg n)).madeIdle i) := rfl
    have hdone : closeEntry i n s = if s.mp.cfg.idleRecords = true then
        offerRecord (.idle i s.tb.epoch (s.client i).admitted)
          ((s.setClient i ((s.client i).closed s.mp.cfg n)).madeIdle i)
        else (s.setClient i ((s.client i).closed s.mp.cfg n)).madeIdle i := by
      unfold closeEntry
      dsimp only
      rw [if_neg hf, if_pos hages, becomeIdle_eq, hclosed]
      rfl
    simp only [hclosed, hheld] at hentry hremainder
    generalize (s.setClient i ((s.client i).closed s.mp.cfg n)).madeIdle i = w at *
    have hafter : Untouched w (closeEntry i n s) := hdone ▸ .ite (offerRecord_untouched _ w) (.refl w)
    have haged : w.client i = (s.client i).agedOut s.mp.cfg n := hentry
    have hgrant (d : Dir) : w.grant d i = 0 := by rw [State.grant, haged, dir_agedOut]
    refine ⟨by rw [hafter.client, haged, if_pos hages], fun d => ?_, fun _ => ?_, fun h => by simp [h] at hages,
      hchange.others.untouched hafter, hchange.shares.untouched hafter, ?_⟩
    · rw [hafter.shareDir, hafter.grant, hremainder, hgrant, Nat.sub_zero]
      rfl
    · exact (congrArg ShareEngine.snapshot hafter.se).trans hstruck
    · rw [hafter.se, hafter.ct, hdone, State.idleRecorded]
      by_cases hrecords : s.mp.cfg.recordEnables.getLsbD 0 = true
      · rw [if_pos (show s.mp.cfg.idleRecords = true from hrecords), if_pos ⟨hages, hrecords⟩, hchange.only.offerRecord]
      · rw [if_neg (show ¬ s.mp.cfg.idleRecords = true from hrecords), if_neg fun h => hrecords h.2]
        exact hchange.only.eq
  · have hdone : closeEntry i n s = s.setClient i ((s.client i).closed s.mp.cfg n) := by
      unfold closeEntry
      dsimp only
      rw [if_neg hf, if_neg hages]
    have hchange := entryChange_setClient i ((s.client i).closed s.mp.cfg n) s
    rw [hdone]
    refine ⟨by rw [hclosed, if_neg hages], fun d => by rw [hheld, Nat.sub_self]; rfl, fun h => absurd h hages,
      fun _ => rfl, hchange.others, hchange.shares, ?_⟩
    rw [State.idleRecorded, if_neg fun h => hages h.1]
    rfl

/-! ### The walk (R103, R106, R26) -/

/-- What follows the entry: the next entry, a pass, or the end of the cycle. -/
theorem stepWalk_of_more {w : Walk} (h : w.next.val + 1 < Config.clientCount) (s : State) :
    stepWalk w s = { closeEntry w.next w.length s with
      ct := { (closeEntry w.next w.length s).ct with walk := some ⟨⟨w.next.val + 1, h⟩, w.length⟩ } } := dif_pos h

theorem stepWalk_of_last {w : Walk} (h : ¬ w.next.val + 1 < Config.clientCount) (s : State) :
    stepWalk w s = closureComplete { closeEntry w.next w.length s with
      ct := { (closeEntry w.next w.length s).ct with walk := none } } := dif_neg h

theorem closureComplete_of_pass {s : State}
    (h : s.li.station = .active ∨ s.li.station = .silent ∨ s.li.station = .lineFault) :
    closureComplete s = { s with se := { s.se with pass := .passUp, snapshot := some s.takeSnapshot } } := if_pos h

theorem closureComplete_of_end {s : State} (h : s.li.station = .listening ∨ s.li.station = .leaving) :
    closureComplete s = endCycle s := if_neg (by rcases h with h | h <;> simp [h])

theorem closureComplete_only (s : State) : (closureComplete s).ct = s.ct ∧ (closureComplete s).se.dirs = s.se.dirs ∧
    closureComplete s = { s with tb := (closureComplete s).tb, se := (closureComplete s).se } := by
  unfold closureComplete
  split <;> exact ⟨rfl, rfl, rfl⟩

/-- The step leaves the entries and the shares as the closing of the entry left them. -/
theorem stepWalk_only (w : Walk) (s : State) :
    let u := closeEntry w.next w.length s
    let t := stepWalk w s
    t.ct.entries = u.ct.entries ∧ t.se.dirs = u.se.dirs ∧ t = { u with tb := t.tb, se := t.se, ct := t.ct } := by
  intro u t
  by_cases hmore : w.next.val + 1 < Config.clientCount
  · rw [show t = _ from stepWalk_of_more hmore s]
    exact ⟨rfl, rfl, rfl⟩
  · have ht : t = _ := stepWalk_of_last hmore s
    obtain ⟨hct, hse, honly⟩ := closureComplete_only { u with ct := { u.ct with walk := none } }
    rw [← ht] at hct hse honly
    exact ⟨by rw [hct], hse, honly.trans (by rw [hct])⟩

theorem answers_closureStep {s : State} {w : Walk} (hw : s.ct.walk = some w) : Answers .closureStep s (stepWalk w s) := by
  show Host.Outcome.next (match s.ct.walk with
    | some w => stepWalk w s
    | none => s) = _
  rw [hw]

theorem ceilDiv_four (r : Nat) : ceilDiv r 4 = (r + 3) / 4 := by
  rw [ceilDiv, Nat.add_sub_assoc (by decide)]

theorem demandEstimate_eq (c : ConfigWords) (e : ClientEntry) (n : Nat) (d : Dir) :
    demandEstimate c e n d =
      let r := min 65535 ((e.closedBytes d + 2 * n - 1) / (2 * n))
      if e.blocked = true ∨ e.state ≠ .active then 0
      else if e.tier = .operations then min 16383 (r + (r + 3) / 4)
      else if e.capped = true then min c.cappedRate.toNat (r + (r + 3) / 4 + 4)
      else min 65535 (r + (r + 3) / 4 + 4) := by
  simp only [demandEstimate, ceilDiv_four, offeredRate]
  simp only [ceilDiv]
  by_cases h : e.blocked = true ∨ e.state ≠ .active
  · rw [if_pos h, if_pos (by simpa using h)]
  · rw [if_neg h, if_neg (by simpa using h)]

theorem clearWindow_eq (b : Bool) (x : ClientDir) : x.clearWindow b =
    { x with window0 := if b = true then 0 else x.window0, window1 := if b = true then x.window1 else 0 } := by
  cases b <;> rfl

/-- One direction of the stepped entry. -/
structure ClosedDir (c : ConfigWords) (n : Nat) (e e' : ClientEntry) (d : Dir) : Prop where
  closed : e'.closedBytes d = 0
  active : e'.activeBytes d = e.activeBytes d
  grant : (e'.dir d).grant = if e.agesOut c = true then 0 else (e.dir d).grant
  estimate : (e'.dir d).estimate = if e.agesOut c = true then 0 else demandEstimate c e n d
  buckets : (e'.dir d).committed = (e.dir d).committed ∧ (e'.dir d).excess = (e.dir d).excess ∧
    (e'.dir d).committedDepth = (e.dir d).committedDepth ∧ (e'.dir d).excessDepth = (e.dir d).excessDepth ∧
    (e'.dir d).refillStamp = (e.dir d).refillStamp

theorem closedDir_step (c : ConfigWords) (n : Nat) (e : ClientEntry) (d : Dir) :
    ClosedDir c n e (if e.agesOut c = true then e.agedOut c n else e.closed c n) d := by
  have hclosed := closedBytes_closed c n e d
  have hactive := activeBytes_closed c n e d
  have hdir := dir_closed c n e d
  rw [clearWindow_eq] at hdir
  by_cases hages : e.agesOut c = true
  · rw [if_pos hages]
    have haged := dir_agedOut c n e d
    have hsame (f : ClientDir → Nat) (hf : ∀ x : ClientDir, f { x with grant := 0, estimate := 0 } = f x) :
        f ((e.agedOut c n).dir d) = f ((e.closed c n).dir d) := by rw [haged, hf]
    have hselector : (e.agedOut c n).selector = (e.closed c n).selector := rfl
    refine ⟨?_, ?_, by rw [haged, if_pos hages], by rw [haged, if_pos hages], ?_⟩
    · rw [← hclosed, ClientEntry.closedBytes, ClientEntry.closedBytes, hselector,
        hsame ClientDir.window0 fun _ => rfl, hsame ClientDir.window1 fun _ => rfl]
    · rw [← hactive, ClientEntry.activeBytes, ClientEntry.activeBytes, hselector,
        hsame ClientDir.window0 fun _ => rfl, hsame ClientDir.window1 fun _ => rfl]
    · rw [haged, hdir]
      exact ⟨rfl, rfl, rfl, rfl, rfl⟩
  · rw [if_neg hages]
    refine ⟨hclosed, hactive, by rw [hdir, if_neg hages], by rw [hdir, if_neg hages], ?_⟩
    rw [hdir]
    exact ⟨rfl, rfl, rfl, rfl, rfl⟩

theorem closed_step_entry (c : ConfigWords) (n : Nat) (e : ClientEntry) :
    let e' := if e.agesOut c = true then e.agedOut c n else e.closed c n
    e'.idleCount = (if e.quiet = true then e.idleCount + 1 else 0) ∧
    e'.state = (if e.agesOut c = true then .idle else e.state) ∧
    e' = { e with idleCount := e'.idleCount, state := e'.state, dirs := e'.dirs } := by
  intro e'
  by_cases hages : e.agesOut c = true
  · rw [show e' = e.agedOut c n from if_pos hages, if_pos hages]
    exact ⟨rfl, rfl, agedOut_entry c n e⟩
  · rw [show e' = e.closed c n from if_neg hages, if_neg hages]
    exact ⟨rfl, rfl, closed_entry c n e⟩

/-- Where the walk goes on, or the cycle ends with it, no pass starts. -/
theorem stepWalk_se {w : Walk} {s : State}
    (h : w.next.val ≠ 383 ∨ s.li.station = .listening ∨ s.li.station = .leaving) :
    (stepWalk w s).se = (closeEntry w.next w.length s).se := by
  by_cases hmore : w.next.val + 1 < Config.clientCount
  · rw [stepWalk_of_more hmore]
  · have hlast : w.next.val = 383 := by
      have hnext := w.next.isLt
      have hcount : Config.clientCount = 384 := rfl
      omega
    have hli : (closeEntry w.next w.length s).li = s.li := by simp
    rw [stepWalk_of_last hmore, closureComplete_of_end]
    · rfl
    · show (closeEntry w.next w.length s).li.station = _ ∨ _
      rw [hli]
      exact h.resolve_left (not_not.2 hlast)

/-- Settles O25: the step on the entry that the walk names. -/
theorem closureStepEstimatesAndAges : Obligations.ClosureStepEstimatesAndAges := by
  intro s w hw hf
  refine ⟨stepWalk w s, answers_closureStep hw, ?_⟩
  intro e e' quiet idles
  have hidles : e.agesOut s.mp.cfg = true ↔ idles := agesOut_iff s.mp.cfg e
  obtain ⟨hentry, hremainder, hstruck, hsnapshot, hothers, hshares, hrecorded⟩ := closeEntry_closes w.next w.length hf
  obtain ⟨hentries, hdirs, honly⟩ := stepWalk_only w s
  have hse := stepWalk_se (w := w) (s := s)
  have hclient (j : Fin Config.clientCount) :
      (stepWalk w s).client j = (closeEntry w.next w.length s).client j := by rw [State.client, hentries]; rfl
  have hshare (d : Dir) : (stepWalk w s).shareDir d = (closeEntry w.next w.length s).shareDir d := by
    rw [State.shareDir, hdirs]
    rfl
  have hgrant (d : Dir) : (stepWalk w s).grant d w.next = (closeEntry w.next w.length s).grant d w.next := by
    rw [State.grant, hclient]
    rfl
  have he' : e' = if e.agesOut s.mp.cfg = true then e.agedOut s.mp.cfg w.length else e.closed s.mp.cfg w.length :=
    (hclient w.next).trans hentry
  have hdir (d : Dir) : ClosedDir s.mp.cfg w.length e e' d := he' ▸ closedDir_step s.mp.cfg w.length e d
  obtain ⟨hcount, hstate, hrest⟩ := closed_step_entry s.mp.cfg w.length e
  rw [← he'] at hcount hstate hrest
  have hcondition {α : Type} (x y : α) : (if e.agesOut s.mp.cfg = true then x else y) = if idles then x else y := by
    by_cases h : idles
    · rw [if_pos h, if_pos (hidles.2 h)]
    · rw [if_neg h, if_neg (mt hidles.1 h)]
  refine ⟨?_, hstate.trans (hcondition _ _), fun d => ?_, hrest, fun j hj => (hclient j).trans (hothers.2 j hj),
    fun d => by rw [hshare]; exact hshares.2 d, fun hno => ⟨?_, fun h => ?_, fun h => ?_⟩, ?_⟩
  · refine hcount.trans ?_
    by_cases h : quiet
    · rw [if_pos h, if_pos ((quiet_iff e).2 h)]
    · rw [if_neg h, if_neg (mt (quiet_iff e).1 h)]
  · obtain ⟨hclosed, hactive, hg, hestimate, hbuckets⟩ := hdir d
    refine ⟨hclosed, hactive, hg.trans (hcondition _ _), ?_, ?_, hbuckets⟩
    · rw [hshare, hgrant, hremainder]
    · rw [hestimate, hcondition, demandEstimate_eq]
      by_cases h : idles
      · rw [if_pos h, if_pos (.inl h)]
      · rw [if_neg h]
        simp only [h, false_or]
  · exact (congrArg ShareEngine.pass (hse hno)).trans hshares.1
  · exact (congrArg ShareEngine.snapshot (hse hno)).trans (hstruck (hidles.2 h))
  · exact (congrArg ShareEngine.snapshot (hse hno)).trans (hsnapshot (Bool.eq_false_iff.2 (mt hidles.1 h)))
  · have hidle : s.idleRecorded w.next = if idles ∧ s.mp.cfg.recordEnables.getLsbD 0 = true then
        offerRecord (.idle w.next s.tb.epoch e.admitted) s else s := if_congr (and_congr_left fun _ => hidles) rfl rfl
    rw [hidle] at hrecorded
    intro recorded
    change closeEntry w.next w.length s = { recorded with
      se := (closeEntry w.next w.length s).se, ct := (closeEntry w.next w.length s).ct } at hrecorded
    generalize recorded = u at hrecorded
    rw [hrecorded] at honly
    exact honly

/-! ### The snapshot (R15) -/

theorem filterMap_if {α β : Type} (p : α → Bool) (f : α → β) (l : List α) :
    l.filterMap (fun a => if p a = true then some (f a) else none) = (l.filter p).map f := by
  induction l with
  | nil => rfl
  | cons a rest ih =>
    cases h : p a
    · rw [List.filterMap_cons, List.filter_cons, if_neg (by simp [h]), if_neg (by simp [h]), ih]
    · rw [List.filterMap_cons, List.filter_cons, if_pos h, if_pos h, List.map_cons, ih]

theorem slots_toList (s : State) : s.pt.slots.toList = (List.finRange Config.peerSlots).map s.slot := by
  apply List.ext_getElem
  · simp
  · intro k hk hk'
    simp [State.slot]

theorem viewFigures_eq (x : Option PeerEntry) :
    PeerEntry.viewFigures x = (x.filter fun e => e.inView).map PeerEntry.figures := by
  cases x with
  | none => rfl
  | some e => cases h : e.inView <;> simp [PeerEntry.viewFigures, Option.filter, h]

theorem snapshot_view (s : State) : s.takeSnapshot.view = (List.finRange Config.peerSlots).filterMap fun k =>
    ((s.slot k).filter fun e => e.inView).map PeerEntry.figures := by
  show s.pt.slots.toList.filterMap PeerEntry.viewFigures = _
  rw [slots_toList, List.filterMap_map]
  exact List.filterMap_congr fun k _ => viewFigures_eq (s.slot k)

theorem snapshot_members (s : State) : s.takeSnapshot.members =
    ((List.finRange Config.clientCount).filter fun i => (s.client i).sharing).map fun i =>
      { index := i, group := (s.client i).group, capped := (s.client i).capped, tier := (s.client i).tier
        estimate := (s.client i).estimates } :=
  filterMap_if (fun i => (s.client i).sharing) _ _

theorem snapshot_ops (s : State) : s.takeSnapshot.ops =
    ((List.finRange Config.clientCount).filter fun i =>
      (s.client i).state == .active && !(s.client i).blocked && (s.client i).tier == .operations).map fun i =>
      { group := (s.client i).group, estimate := (s.client i).estimates } :=
  filterMap_if (fun i => (s.client i).state == .active && !(s.client i).blocked && (s.client i).tier == .operations) _ _

theorem snapshot_uplink (s : State) (d : Dir) : s.takeSnapshot.uplink.get d = if s.mp.cfg.gateway = 1 then
    (if s.pt.stale = true then s.pt.heldUplink.get d / 2 else s.pt.heldUplink.get d) else 0 := by
  have hforce : s.takeSnapshot.uplink.get d = s.uplinkInForce d := by cases d <;> rfl
  rw [hforce, State.uplinkInForce]
  by_cases h : s.mp.cfg.gateway = 1
  · rw [if_pos h, if_pos (by simpa [ConfigWords.gatewaySet] using h)]
  · rw [if_neg h, if_neg (by simpa [ConfigWords.gatewaySet] using h)]

theorem closeEntry_of_free {i : Fin Config.clientCount} {s : State} (h : (s.client i).state = .free) (n : Nat) :
    closeEntry i n s = s := if_pos h

theorem closeEntry_pass (i : Fin Config.clientCount) (n : Nat) (s : State) :
    (closeEntry i n s).se.pass = s.se.pass := by
  by_cases hfree : (s.client i).state = .free
  · rw [closeEntry_of_free hfree]
  · exact (closeEntry_closes i n hfree).shares.1

/-- The last step where a pass starts: the snapshot is taken of the state with the walk ended. -/
theorem stepWalk_starts_pass {s : State} {w : Walk} (hlast : w.next.val = 383)
    (hstation : s.li.station = .active ∨ s.li.station = .silent ∨ s.li.station = .lineFault) :
    ∃ v : State, v.pt = s.pt ∧ v.li = s.li ∧ v.tb = s.tb ∧ v.mp.cfg = s.mp.cfg ∧ v.ct.walk = none ∧
      stepWalk w s = { v with se := { v.se with pass := .passUp, snapshot := some v.takeSnapshot } } := by
  have hmore : ¬ w.next.val + 1 < Config.clientCount := by simp [hlast, Config.clientCount]
  have hli : (closeEntry w.next w.length s).li = s.li := by simp
  refine ⟨{ closeEntry w.next w.length s with ct := { (closeEntry w.next w.length s).ct with walk := none } }, by simp,
    hli, by simp, by simp, rfl, ?_⟩
  rw [stepWalk_of_last hmore, closureComplete_of_pass]
  show (closeEntry w.next w.length s).li.station = _ ∨ _
  rw [hli]
  exact hstation

theorem stepWalk_ends_cycle {s : State} {w : Walk} (hlast : w.next.val = 383)
    (hstation : s.li.station = .listening ∨ s.li.station = .leaving) :
    (stepWalk w s).se.pass = s.se.pass ∧ (stepWalk w s).tb = { s.tb with cycleBusy := false } := by
  have hmore : ¬ w.next.val + 1 < Config.clientCount := by simp [hlast, Config.clientCount]
  have hli : (closeEntry w.next w.length s).li = s.li := by simp
  have htb : (closeEntry w.next w.length s).tb = s.tb := by simp
  rw [stepWalk_of_last hmore, closureComplete_of_end]
  · exact ⟨closeEntry_pass _ _ s, by rw [← htb]; rfl⟩
  · show (closeEntry w.next w.length s).li.station = _ ∨ _
    rw [hli]
    exact hstation

theorem stepWalk_walk_none {s : State} {w : Walk} (hlast : w.next.val = 383) : (stepWalk w s).ct.walk = none := by
  have hmore : ¬ w.next.val + 1 < Config.clientCount := by simp [hlast, Config.clientCount]
  rw [stepWalk_of_last hmore]
  simp

theorem sharing_eq_decide (e : ClientEntry) :
    e.sharing = decide (e.state = .active ∧ e.blocked = false ∧ e.tier ≠ .operations) := by
  rw [Bool.eq_iff_iff, decide_eq_true_iff]
  simp [ClientEntry.sharing, and_assoc]

theorem operations_eq_decide (e : ClientEntry) : (e.state == .active && !e.blocked && e.tier == .operations) =
    decide (e.state = .active ∧ e.blocked = false ∧ e.tier = .operations) := by
  rw [Bool.eq_iff_iff, decide_eq_true_iff]
  simp [and_assoc]

/-- Settles O26: the walk goes on, ends in a pass, or ends the cycle. -/
theorem walkEndsInAPassOrEndsTheCycle : Obligations.WalkEndsInAPassOrEndsTheCycle := by
  refine ⟨fun s w hw => ⟨stepWalk w s, answers_closureStep hw, fun hfree => ?_, fun hmore => ?_⟩,
    fun s w hw hlast => ⟨stepWalk w s, answers_closureStep hw, stepWalk_walk_none hlast, fun hstation => ?_,
      stepWalk_ends_cycle hlast⟩⟩
  · rw [(stepWalk_only w s).1, closeEntry_of_free hfree]
  · rw [stepWalk_of_more hmore]
    exact ⟨rfl, closeEntry_pass _ _ s, by simp⟩
  · obtain ⟨v, hpt, hli, htb, hcfg, _, ht⟩ := stepWalk_starts_pass hlast hstation
    rw [ht]
    refine ⟨htb, rfl, v.takeSnapshot, rfl, ?_, fun d => ?_, ?_, .refl _, ?_, ?_⟩
    · show (v.li.station == .lineFault) = true ↔ _
      rw [hli, beq_iff_eq]
    · rw [snapshot_uplink, hpt, hcfg]
    · rw [snapshot_members]
      exact .of_eq (congrArg (List.map _) (List.filter_congr fun i _ => sharing_eq_decide (v.client i)))
    · rw [snapshot_ops]
      exact .of_eq (congrArg (List.map _) (List.filter_congr fun i _ => operations_eq_decide (v.client i)))
    · have hslot (k : Fin Config.peerSlots) : v.slot k = s.slot k := by rw [State.slot, hpt]; rfl
      rw [snapshot_view]
      simp only [hslot]
      exact .refl _

end Sys2Proof.Machine
end

section
/-! ## Proofs: the publish of a direction (R19 to R31) -/

namespace Sys2Proof.Machine

/-! ### Whose grant is given, redrawn or left (R29, R30) -/

theorem capLimit_congr {s t : State} (hcfg : t.mp = s.mp) {i : Fin Config.clientCount}
    (hcapped : (t.client i).capped = (s.client i).capped) (g : Nat) : t.capLimit i g = s.capLimit i g := by
  rw [State.capLimit, State.capLimit, hcfg, hcapped]

theorem GrantsOnly.capLimit {d : Dir} {s t : State} (h : GrantsOnly d s t) (i : Fin Config.clientCount) (g : Nat) :
    t.capLimit i g = s.capLimit i g := capLimit_congr h.mp (h.capped i) g

/-- A client that no entry of the list names keeps its grant. -/
theorem grant_giveGrants_of_unnamed (d : Dir) (ms : List (Fin Config.clientCount))
    {gs : List (Fin Config.clientCount × Nat)} (s : State) {i : Fin Config.clientCount} (hi : i ∉ gs.map Prod.fst) :
    (giveGrants d ms gs s).grant d i = s.grant d i := by
  induction gs generalizing s with
  | nil => rfl
  | cons p rest ih =>
    rw [List.map_cons, List.mem_cons, not_or] at hi
    rw [giveGrants, ih _ hi.2]
    split
    · rw [grant_drawGrant, if_neg fun h => hi.1 h.2]
    · rfl

/-- On the list, the computed grant is given, within the capped rate. -/
theorem grant_giveGrants_of_mem (d : Dir) {ms : List (Fin Config.clientCount)}
    {gs : List (Fin Config.clientCount × Nat)} (hnodup : (gs.map Prod.fst).Nodup) (s : State) {i : Fin Config.clientCount}
    {g : Nat} (hi : i ∈ ms) (hg : (i, g) ∈ gs) : (giveGrants d ms gs s).grant d i = s.capLimit i g := by
  induction gs generalizing s with
  | nil => exact absurd hg List.not_mem_nil
  | cons p rest ih =>
    obtain ⟨j, a⟩ := p
    rw [List.map_cons, List.nodup_cons] at hnodup
    rw [giveGrants]
    rcases List.mem_cons.1 hg with heq | hrest
    · obtain ⟨rfl, rfl⟩ := Prod.mk.inj heq
      rw [if_pos hi, grant_giveGrants_of_unnamed d ms _ hnodup.1, grant_drawGrant, if_pos ⟨rfl, rfl⟩]
    · rw [ih hnodup.2 _ hrest]
      split
      · exact (grantsOnly_drawGrant d j _ s).capLimit i g
      · rfl

/-- Who is on the membership list or not among the indices is not redrawn. -/
theorem grant_redrawJoiners_of_left (d : Dir) {ms is : List (Fin Config.clientCount)} (s : State)
    {i : Fin Config.clientCount} (hi : i ∈ ms ∨ i ∉ is) : (redrawJoiners d ms is s).grant d i = s.grant d i := by
  induction is generalizing s with
  | nil => rfl
  | cons j rest ih =>
    have hrest : i ∈ ms ∨ i ∉ rest := hi.imp_right fun h hmem => h (List.mem_cons_of_mem _ hmem)
    rw [redrawJoiners, ih _ hrest]
    split
    · next hjoin =>
      rw [takeJoinGrant, grant_drawGrant, if_neg]
      rintro ⟨-, rfl⟩
      exact hi.elim hjoin.2 fun h => h List.mem_cons_self
    · rfl

theorem redrawJoiners_append (d : Dir) (ms is js : List (Fin Config.clientCount)) (s : State) :
    redrawJoiners d ms (is ++ js) s = redrawJoiners d ms js (redrawJoiners d ms is s) := by
  induction is generalizing s with
  | nil => rfl
  | cons i rest ih =>
    rw [List.cons_append, redrawJoiners, redrawJoiners]
    exact ih _

/-- The ascending indices, around one of them. -/
theorem finRange_split (i : Fin Config.clientCount) : ∃ below above, List.finRange Config.clientCount = below ++ i :: above ∧
    (∀ j, j ∈ below ↔ j < i) ∧ ∀ j, j ∈ above ↔ i < j := by
  obtain ⟨below, above, hsplit⟩ := List.append_of_mem (List.mem_finRange i)
  have hsorted : (below ++ i :: above).Pairwise (· < ·) := hsplit ▸ (List.sortedLT_finRange _).pairwise
  obtain ⟨-, hupper, hcross⟩ := List.pairwise_append.1 hsorted
  have habove := (List.pairwise_cons.1 hupper).1
  have hall (j : Fin Config.clientCount) : j ∈ below ∨ j = i ∨ j ∈ above := by
    have hmem := List.mem_finRange j
    rwa [hsplit, List.mem_append, List.mem_cons] at hmem
  have hbelow (j : Fin Config.clientCount) (hj : j ∈ below) : j < i := hcross j hj i List.mem_cons_self
  refine ⟨below, above, hsplit, fun j => ⟨hbelow j, fun hlt => ?_⟩, fun j => ⟨habove j, fun hlt => ?_⟩⟩
  · rcases hall j with h | rfl | h
    · exact h
    · exact absurd hlt (lt_irrefl j)
    · exact absurd hlt (lt_asymm (habove j h))
  · rcases hall j with h | rfl | h
    · exact absurd hlt (lt_asymm (hbelow j h))
    · exact absurd hlt (lt_irrefl j)
    · exact h

/-- A sum over part of the indices. -/
theorem sum_filter_finRange (p : Fin Config.clientCount → Bool) (f : Fin Config.clientCount → Nat) :
    (((List.finRange Config.clientCount).filter p).map f).sum = ∑ j, if p j = true then f j else 0 := by
  rw [Fin.sum_univ_def]
  induction List.finRange Config.clientCount with
  | nil => rfl
  | cons j rest ih =>
    cases h : p j <;> simp [h, ih]

/-- The law while a publish is under way, as what is left to draw from: the share without the grants that are settled. -/
theorem LawBut.remainder {d : Dir} {todo : Finset (Fin Config.clientCount)} {s : State} (h : LawBut d todo s)
    (settled : Fin Config.clientCount → Prop) [DecidablePred settled] (htodo : ∀ j, j ∈ todo ↔ ¬ settled j) :
    (s.shareDir d).remainder = (s.shareDir d).share - ∑ j, if settled j then s.grant d j else 0 := by
  have hsplit : (∑ j ∈ todo, s.grant d j) + ∑ j, (if settled j then s.grant d j else 0) = ∑ j, s.grant d j := by
    have hpart : ∑ j ∈ todo, s.grant d j = ∑ j, if settled j then 0 else s.grant d j := by
      rw [← Finset.univ_inter todo, ← Finset.sum_ite_mem]
      refine Finset.sum_congr rfl fun j _ => ?_
      by_cases hj : settled j
      · rw [if_pos hj, if_neg fun hmem => (htodo j).1 hmem hj]
      · rw [if_neg hj, if_pos ((htodo j).2 hj)]
    rw [hpart, ← Finset.sum_add_distrib]
    refine Finset.sum_congr rfl fun j _ => ?_
    split
    · exact Nat.zero_add _
    · exact Nat.add_zero _
  rw [LawBut, grantTotal_eq_sum, ← hsplit] at h
  omega

/-- The publish up to the redraw of client `i`, and the law at that point. -/
theorem publishDir_until {s : State} {n : Snapshot} (d : Dir) (hs : SharesOk s) (hn : s.se.snapshot = some n)
    {below : List (Fin Config.clientCount)} (hnodup : below.Nodup) :
    let share := passShare s.mp.cfg n (s.shareDir d).held d
    let v := redrawJoiners d n.membership below
      (giveGrants d n.membership (computedGrants s.mp.cfg n d share) (setShare d n.held share s))
    (v.shareDir d).remainder = share - ∑ j, if j ∈ n.membership ∨ j ∈ below ∧ (s.client j).sharing = true
      then v.grant d j else 0 := by
  intro share v
  obtain ⟨hindices, -, hmembers⟩ := hs.members n hn
  have honly : GrantsOnly d (setShare d n.held share s) v :=
    (grantsOnly_giveGrants d _ _ _).trans (grantsOnly_redrawJoiners d _ _ _)
  have hgiven := lawBut_giveGrants (ms := n.membership) (lawBut_setShare d n.held share s)
    (nodup_computedGrants_indices s.mp.cfg n d share hindices) (fun _ _ => Finset.mem_univ _)
    (by rw [shareDir_setShare, if_pos rfl]; exact computedGrants_sum_le _ _ _ _)
  have hredrawn := lawBut_redrawJoiners (ms := n.membership) hgiven hnodup
    fun j _ hms => Finset.mem_filter.2 ⟨Finset.mem_univ j, fun hgiven => hms hgiven.1⟩
  have hshare : (v.shareDir d).share = share := by
    rw [honly.shares, if_pos rfl, shareDir_setShare, if_pos rfl]
  have hmember := fun j (h : j ∈ n.membership) => (hmembers j h).1
  rw [hredrawn.remainder (fun j => j ∈ n.membership ∨ j ∈ below ∧ (s.client j).sharing = true), hshare]
  intro j
  rw [Finset.mem_filter, Finset.mem_filter, (grantsOnly_giveGrants d _ _ _).sharing, setShare_client,
    mem_computedGrants_indices]
  have hj := hmember j
  have huniv := Finset.mem_univ j
  by_cases hlist : j ∈ n.membership
  · exact ⟨fun h => absurd ⟨hlist, hj hlist⟩ h.1.2, fun h => absurd (.inl hlist) h⟩
  · exact ⟨fun h hdone => hdone.elim hlist fun hbelow => h.2 ⟨hbelow.1, hbelow.2, hlist⟩,
      fun h => ⟨⟨huniv, fun hgiven => hlist hgiven.1⟩, fun hredrawn => h (.inr ⟨hredrawn.1, hredrawn.2.1⟩)⟩⟩

/-- R29 and R30 in a publish: a sharing client off the list draws a join grant from what those before it left. -/
theorem grant_publishDir_of_joiner {s : State} {n : Snapshot} (d : Dir) (hs : SharesOk s) (hn : s.se.snapshot = some n)
    {i : Fin Config.clientCount} (hsharing : (s.client i).sharing = true) (hlist : i ∉ n.membership) :
    let t := publishDir d n s
    let taken := (((List.finRange Config.clientCount).filter fun j => j ∈ n.membership ∨ j < i).map (t.grant d)).sum
    t.grant d i = s.capLimit i (min s.mp.cfg.joinRate.toNat ((t.shareDir d).share - taken)) := by
  intro t taken
  obtain ⟨below, above, hsplit, hbelow, habove⟩ := finRange_split i
  have hnodup : (below ++ i :: above).Nodup := hsplit ▸ List.nodup_finRange _
  have hleft := publishDir_until d hs hn (List.nodup_append.1 hnodup).1
  have honly := (grantsOnly_giveGrants d n.membership (computedGrants s.mp.cfg n d (passShare s.mp.cfg n (s.shareDir d).held d))
    (setShare d n.held (passShare s.mp.cfg n (s.shareDir d).held d) s)).trans (grantsOnly_redrawJoiners d n.membership below _)
  have hdone : t = redrawJoiners d n.membership (i :: above) (redrawJoiners d n.membership below
      (giveGrants d n.membership (computedGrants s.mp.cfg n d (passShare s.mp.cfg n (s.shareDir d).held d))
        (setShare d n.held (passShare s.mp.cfg n (s.shareDir d).held d) s))) := by
    rw [← redrawJoiners_append, ← hsplit]
    rfl
  have hshare : (t.shareDir d).share = passShare s.mp.cfg n (s.shareDir d).held d := by
    rw [(grantsOnly_publishDir d n s).shares, if_pos rfl, shareDir_setShare, if_pos rfl]
  dsimp only at hleft
  generalize redrawJoiners d n.membership below (giveGrants d n.membership _ _) = v at hleft honly hdone
  have habove' : i ∉ above := fun h => lt_irrefl i ((habove i).1 h)
  have hvsharing : (v.client i).sharing = true := (honly.sharing i).trans hsharing
  rw [redrawJoiners, if_pos ⟨hvsharing, hlist⟩] at hdone
  have hgrant : t.grant d i = v.joinAmount d i := by
    rw [hdone, grant_redrawJoiners_of_left d _ (.inr habove'), takeJoinGrant, grant_drawGrant, if_pos ⟨rfl, rfl⟩]
  have hkept (j : Fin Config.clientCount) (hj : j ∈ n.membership ∨ j < i) : t.grant d j = v.grant d j := by
    have hne : j ≠ i := by
      rintro rfl
      exact hj.elim hlist (lt_irrefl j)
    rw [hdone, grant_redrawJoiners_of_left d _ (hj.imp_right fun hlt h => lt_asymm hlt ((habove j).1 h)), takeJoinGrant,
      grant_drawGrant, if_neg fun h => hne h.2]
  have htaken : taken = ∑ j, if j ∈ n.membership ∨ j ∈ below ∧ (s.client j).sharing = true then v.grant d j else 0 := by
    refine (sum_filter_finRange _ _).trans (Finset.sum_congr rfl fun j _ => ?_)
    simp only [decide_eq_true_eq]
    by_cases hsettled : j ∈ n.membership ∨ j ∈ below ∧ (s.client j).sharing = true
    · have hbefore : j ∈ n.membership ∨ j < i := hsettled.imp_right fun h => (hbelow j).1 h.1
      rw [if_pos hsettled, if_pos hbefore, hkept j hbefore]
    · rw [if_neg hsettled]
      obtain ⟨hunlisted, hidle⟩ := not_or.1 hsettled
      split
      · next hbefore =>
        have hno : (s.client j).sharing = false :=
          Bool.eq_false_iff.2 fun h => hidle ⟨(hbelow j).2 (hbefore.resolve_left hunlisted), h⟩
        exact (grant_publishDir_of_not_sharing d hunlisted hno).trans (hs.holders j d hno)
      · rfl
  rw [hgrant, State.joinAmount, honly.capLimit, hleft, htaken, hshare, honly.mp]
  rfl

/-! ### The share and the grants that a publish gives (R22, R29) -/

theorem shareDir_publishDir (d : Dir) (n : Snapshot) (s : State) :
    ((publishDir d n s).shareDir d).share = passShare s.mp.cfg n (s.shareDir d).held d ∧
    ((publishDir d n s).shareDir d).held =
      if n.held = true then (s.shareDir d).held else passShare s.mp.cfg n (s.shareDir d).held d := by
  rw [(grantsOnly_publishDir d n s).shares, if_pos rfl, shareDir_setShare, if_pos rfl]
  exact ⟨rfl, rfl⟩

theorem grant_publishDir_of_mem {s : State} {n : Snapshot} (d : Dir) (hs : SharesOk s) (hn : s.se.snapshot = some n)
    {i : Fin Config.clientCount} {g : Nat} (hlist : i ∈ n.membership)
    (hg : (i, g) ∈ computedGrants s.mp.cfg n d (passShare s.mp.cfg n (s.shareDir d).held d)) :
    (publishDir d n s).grant d i = s.capLimit i g := by
  obtain ⟨hindices, -, -⟩ := hs.members n hn
  unfold publishDir
  dsimp only
  rw [grant_redrawJoiners_of_left d _ (.inl hlist),
    grant_giveGrants_of_mem d (nodup_computedGrants_indices _ n d _ hindices) _ hlist hg]
  rfl

/-- Two directions of an entry, of which one has another grant. -/
theorem setDir_grant (e : ClientEntry) (d : Dir) (g : Dir → Nat) (h : ∀ d', d' ≠ d → g d' = (e.dir d').grant) :
    e.setDir d { e.dir d with grant := g d } = { e with
      dirs := ⟨{ e.dirs.up with grant := g .up }, { e.dirs.down with grant := g .down }⟩ } := by
  cases d with
  | up => rw [h .down (by decide)]; rfl
  | down => rw [h .up (by decide)]; rfl

theorem client_publishDir (d : Dir) (n : Snapshot) (s : State) (i : Fin Config.clientCount) :
    (publishDir d n s).client i = { s.client i with
      dirs := ⟨{ (s.client i).dirs.up with grant := (publishDir d n s).grant .up i },
        { (s.client i).dirs.down with grant := (publishDir d n s).grant .down i }⟩ } :=
  ((grantsOnly_publishDir d n s).client i).trans
    (setDir_grant (s.client i) d (fun d' => (publishDir d n s).grant d' i)
      fun _ hd => (grantsOnly_publishDir d n s).grant_of_ne hd i)

/-- What follows the publish leaves shares, grants and clients. -/
structure PublishedAs (u t : State) : Prop where
  ct : t.ct = u.ct
  shares : ∀ d, (t.shareDir d).share = (u.shareDir d).share ∧ (t.shareDir d).remainder = (u.shareDir d).remainder ∧
    (t.shareDir d).held = (u.shareDir d).held ∧ (t.shareDir d).sharesValid = (u.shareDir d).sharesValid
  only : t = { u with tb := t.tb, se := t.se, li := t.li, mp := t.mp }

theorem PublishedAs.grant {u t : State} (h : PublishedAs u t) (d : Dir) (i : Fin Config.clientCount) :
    t.grant d i = u.grant d i := by rw [State.grant, State.client, h.ct]; rfl

theorem PublishedAs.client {u t : State} (h : PublishedAs u t) (i : Fin Config.clientCount) :
    t.client i = u.client i := by rw [State.client, h.ct]; rfl

theorem PublishedAs.grantTotal {u t : State} (h : PublishedAs u t) (d : Dir) : t.grantTotal d = u.grantTotal d := by
  rw [State.grantTotal, h.ct]
  rfl

theorem PublishedAs.only_of {s u t : State} (h : PublishedAs u t) (hu : u = { s with se := u.se, ct := u.ct }) :
    t = { s with tb := t.tb, se := t.se, ct := t.ct, li := t.li, mp := t.mp } := by
  have honly := h.only
  have hct := h.ct
  cases t
  cases u
  cases s
  simp_all

theorem publishedAs_completePass (n : Snapshot) (u : State) : PublishedAs u (completePass n u) := by
  have hframe := completePass_frame n u
  refine ⟨by simp, fun d => ?_, ?_⟩
  · rw [State.shareDir, completePass_se]
    cases d <;> exact ⟨rfl, rfl, rfl, rfl⟩
  · generalize completePass n u = v at *
    obtain ⟨hpt, hct, hme, hwu, hlw, hmc, hmem, hcomposition, hlow, hdraws, hpending, -⟩ := hframe
    cases v
    simp_all

theorem publishedAs_setPass (p : PassState) (u : State) : PublishedAs u { u with se := { u.se with pass := p } } :=
  ⟨rfl, fun _ => ⟨rfl, rfl, rfl, rfl⟩, rfl⟩

theorem publishDir_only (d : Dir) (n : Snapshot) (s : State) :
    publishDir d n s = { s with se := (publishDir d n s).se, ct := (publishDir d n s).ct } := by
  have hframe := publishDir_frame d n s
  generalize publishDir d n s = u at *
  cases u
  simp_all

theorem answers_publish_up {s : State} {n : Snapshot} (hn : s.se.snapshot = some n) (hpass : s.se.pass = .passUp) :
    Answers .publish s { publishDir .up n s with se := { (publishDir .up n s).se with pass := .passDown } } := by
  show Host.Outcome.next (match s.se.snapshot with
    | some n => publishPass n s
    | none => s) = _
  rw [hn]
  show Host.Outcome.next (publishPass n s) = _
  rw [publishPass, hpass]

theorem answers_publish_down {s : State} {n : Snapshot} (hn : s.se.snapshot = some n) (hpass : s.se.pass = .passDown) :
    Answers .publish s (completePass n (publishDir .down n s)) := by
  show Host.Outcome.next (match s.se.snapshot with
    | some n => publishPass n s
    | none => s) = _
  rw [hn]
  show Host.Outcome.next (publishPass n s) = _
  rw [publishPass, hpass]

/-- Each publish gives the share and the grants of its direction. -/
theorem answers_publish {s : State} {n : Snapshot} {d : Dir} (hn : s.se.snapshot = some n)
    (hpass : d = .up ∧ s.se.pass = .passUp ∨ d = .down ∧ s.se.pass = .passDown) :
    ∃ t, Answers .publish s t ∧ PublishedAs (publishDir d n s) t := by
  rcases hpass with ⟨rfl, h⟩ | ⟨rfl, h⟩
  · exact ⟨_, answers_publish_up hn h, publishedAs_setPass .passDown _⟩
  · exact ⟨_, answers_publish_down hn h, publishedAs_completePass n _⟩

/-! ### The stages of a pass (R16 to R24) -/

theorem mem_clientStage {c : ConfigWords} {n : Snapshot} {d : Dir} {g : BitVec 3} {amount : Nat}
    {i : Fin Config.clientCount} {a : Nat} : (i, a) ∈ clientStage c n d g amount ↔
      ∃ m ∈ n.members, m.group = g ∧ m.index = i ∧
        a = (clientItem c d m).allocation (levelSearch ((n.groupMembers g).map (clientItem c d)) amount) := by
  simp only [clientStage, List.mem_map, mem_groupMembers, Prod.mk.injEq]
  constructor
  · rintro ⟨m, ⟨hm, hg⟩, hi, ha⟩
    exact ⟨m, hm, hg, hi, ha.symm⟩
  · rintro ⟨m, hm, hg, hi, ha⟩
    exact ⟨m, ⟨hm, hg⟩, hi, ha.symm⟩

/-- The parts of a list by a key, one after the other. -/
theorem perm_flatMap_filter {α β : Type} [DecidableEq β] (key : α → β) (l : List α) {gs : List β} (h : gs.Nodup) :
    (gs.flatMap fun g => l.filter fun x => key x = g).Perm (l.filter fun x => key x ∈ gs) := by
  induction gs with
  | nil => simp
  | cons g rest ih =>
    obtain ⟨hg, hrest⟩ := List.nodup_cons.1 h
    have hsplit := List.filter_append_perm (fun x => decide (key x = g)) (l.filter fun x => key x ∈ g :: rest)
    have hfirst : (l.filter fun x => key x ∈ g :: rest).filter (fun x => decide (key x = g)) =
        l.filter fun x => key x = g := by
      rw [List.filter_filter]
      exact List.filter_congr fun x _ => by by_cases hx : key x = g <;> simp [hx]
    have hother : (l.filter fun x => key x ∈ g :: rest).filter (fun x => !decide (key x = g)) =
        l.filter fun x => key x ∈ rest := by
      rw [List.filter_filter]
      refine List.filter_congr fun x _ => ?_
      by_cases hx : key x = g
      · simp [hx, hg]
      · simp [hx]
    rw [hfirst, hother] at hsplit
    rw [List.flatMap_cons]
    exact ((ih hrest).append_left _).trans hsplit

theorem groupMembers_eq (n : Snapshot) (g : BitVec 3) : n.groupMembers g = n.members.filter fun x => x.group = g := rfl

/-- The amount of a group (R23). -/
def groupAmount (c : ConfigWords) (n : Snapshot) (d : Dir) (share : Nat) (g : BitVec 3) : Nat :=
  (groupItem c n d g).allocation (levelSearch (groupItems c n d) share)

/-- The computed grant of a member (R24). -/
def memberGrant (c : ConfigWords) (n : Snapshot) (d : Dir) (share : Nat) (m : Member) : Nat :=
  (clientItem c d m).allocation
    (levelSearch ((n.groupMembers m.group).map (clientItem c d)) (groupAmount c n d share m.group))

theorem mem_computedGrants {c : ConfigWords} {n : Snapshot} {d : Dir} {share : Nat} {i : Fin Config.clientCount} {a : Nat} :
    (i, a) ∈ computedGrants c n d share ↔ ∃ m ∈ n.members, m.index = i ∧ a = memberGrant c n d share m := by
  simp only [computedGrants, List.mem_flatMap, mem_clientStage]
  constructor
  · rintro ⟨_, -, m, hm, rfl, hi, ha⟩
    exact ⟨m, hm, hi, ha⟩
  · rintro ⟨m, hm, hi, ha⟩
    exact ⟨m.group, mem_heldGroups.2 ⟨m, hm, rfl⟩, m, hm, rfl, hi, ha⟩

theorem computedGrants_indices_perm (c : ConfigWords) (n : Snapshot) (d : Dir) (share : Nat) :
    ((computedGrants c n d share).map Prod.fst).Perm (n.members.map Member.index) := by
  have hparts := (perm_flatMap_filter Member.group n.members (nodup_heldGroups n)).map Member.index
  have hall : n.members.filter (fun m => m.group ∈ n.heldGroups) = n.members :=
    List.filter_eq_self.2 fun m hm => decide_eq_true (mem_heldGroups.2 ⟨m, hm, rfl⟩)
  rw [hall, List.map_flatMap] at hparts
  rw [computedGrants_indices]
  exact hparts

theorem clientItem_capped_demand {c : ConfigWords} {d : Dir} {m : Member} (h : m.capped = true) :
    (clientItem c d m).demand ≤ c.cappedRate.toNat := by
  rw [clientItem, if_pos h]
  exact Nat.min_le_left _ _

theorem memberGrant_le (c : ConfigWords) (n : Snapshot) (d : Dir) (share : Nat) (m : Member) :
    memberGrant c n d share m ≤ (clientItem c d m).demand := Nat.min_le_left _ _

theorem group_memberGrants_sum_le (c : ConfigWords) (n : Snapshot) (d : Dir) (share : Nat) (g : BitVec 3) :
    ((n.groupMembers g).map (memberGrant c n d share)).sum ≤ groupAmount c n d share g := by
  have hstage := clientStage_sum_le c n d g (groupAmount c n d share g)
  rw [clientStage, List.map_map] at hstage
  refine Nat.le_trans (Nat.le_of_eq (congrArg List.sum (List.map_congr_left fun m hm => ?_))) hstage
  rw [memberGrant, (mem_groupMembers.1 hm).2]
  rfl

theorem groupAmounts_sum_le (c : ConfigWords) (n : Snapshot) (d : Dir) (share : Nat) :
    (n.heldGroups.map (groupAmount c n d share)).sum ≤ share := by
  have hfill := fill_levelSearch_le (groupItems c n d) share
  rw [fill, groupItems, List.map_map] at hfill
  exact hfill

/-- Settles O23: the publish, client by client, and the stages' figures. -/
theorem publishGivesShareAndGrants : Obligations.PublishGivesShareAndGrants := by
  refine ⟨fun s n d hs hn hpass => ?_, ?_⟩
  · obtain ⟨t, hanswers, hafter⟩ := answers_publish hn hpass
    obtain ⟨hshare, hheld⟩ := shareDir_publishDir d n s
    obtain ⟨htshare, htremainder, htheld, htvalid⟩ := hafter.shares d
    have honly := grantsOnly_publishDir d n s
    refine ⟨t, hanswers, ?_, ?_, ?_, fun i g hi hg => ?_, fun i hi hno => ?_, ?_, fun d' hd => ?_, ?_, fun i => ?_, ?_,
      fun i hsharing hi => ?_⟩
    · rw [htshare, hshare]
      rfl
    · rw [htheld, htshare, hheld, hshare]
    · rw [htvalid, sharesValid_publishDir]
    · rw [htshare, hshare] at hg
      rw [hafter.grant, grant_publishDir_of_mem d hs hn hi hg]
      rfl
    · rw [hafter.grant, grant_publishDir_of_not_sharing d hi hno, hs.holders i d hno]
    · rw [hafter.grantTotal, htremainder, htshare, publishDir_sum d hs hn]
    · obtain ⟨hshare', hremainder', hheld', hvalid'⟩ := hafter.shares d'
      rw [hshare', hremainder', hheld', hvalid', shareDir_publishDir_of_ne hd]
      exact ⟨fun i => by rw [hafter.grant, honly.grant_of_ne hd]; rfl, rfl, rfl, rfl, rfl⟩
    · rw [hafter.ct, honly.walk]
      rfl
    · rw [hafter.client, hafter.grant, hafter.grant, client_publishDir]
    · exact hafter.only_of (publishDir_only d n s)
    · have hjoin := grant_publishDir_of_joiner d hs hn hsharing hi
      dsimp only at hjoin
      rw [← htshare, ← funext (hafter.grant d)] at hjoin
      exact hjoin
  · exact fun c n d share => ⟨rfl, fun _ _ => mem_computedGrants, computedGrants_indices_perm c n d share,
      fun m => ⟨memberGrant_le c n d share m, fun h => (memberGrant_le c n d share m).trans (clientItem_capped_demand h)⟩,
      fun g => ⟨Nat.min_le_left _ _, group_memberGrants_sum_le c n d share g⟩, groupAmounts_sum_le c n d share,
      computedGrants_sum_le c n d share⟩

end Sys2Proof.Machine
end

section
/-! ## Proofs: the completion of a pass and the figures it announces (R16 to R19, R31) -/

namespace Sys2Proof.Machine

/-! ### The notice that a completed pass hands over (R31, R66, R86) -/

theorem regularNotice_congr {s t : State} (hcfg : t.mp.cfg = s.mp.cfg) (hcycle : t.li.cycle = s.li.cycle)
    (hpt : t.pt = s.pt) (hse : t.se = s.se) : t.regularNotice = s.regularNotice := by
  have hshare (d : Dir) : t.shareDir d = s.shareDir d := by rw [State.shareDir, hse, State.shareDir]
  have huplink (d : Dir) : t.uplinkInForce d = s.uplinkInForce d := by
    rw [State.uplinkInForce, hcfg, hpt, State.uplinkInForce]
  have hitems (d : Dir) : t.noticeItems d = s.noticeItems d := by
    simp only [State.noticeItems, hshare, huplink, hcfg]
  have hheader (stale : Bool) : t.noticeHeader false stale = s.noticeHeader false stale := by
    simp only [State.noticeHeader, hcfg, hcycle]
  rw [State.regularNotice, hheader, hitems, hitems, hcfg, hpt, State.regularNotice]

theorem supersede_of_none {s : State} (h : s.li.notice = none) : supersede s = s := by simp [supersede, h]

theorem supersede_of_some {s : State} (h : s.li.notice.isSome = true) :
    supersede s = raise .noticeAbandoned { s with li := s.li.discardNotice } := by
  obtain ⟨bytes, hbytes⟩ := Option.isSome_iff_exists.1 h
  simp [supersede, hbytes]

/-- The line interface behind a regular notice that is handed over. -/
theorem sendRegular_effect (s : State) :
    let t := sendRegular s
    t.li = { s.li with
      notice := some t.regularNotice, cycle := s.li.cycle + 1, random := stepRandom s.li.random, attempts := 0
      tx := if t.li.random.toNat % 16 = 0 then .defer else .jitter
      jitterLeft := t.li.random.toNat % 16, backoffSlots := t.li.backoffSlots } ∧
    (s.li.notice.isSome = true → t.flag .noticeAbandoned = true) := by
  intro t
  have hnotice (u : State) (hu : supersede s = u) : t.regularNotice = (nextCycle u).regularNotice := by
    subst hu
    exact regularNotice_congr rfl rfl rfl rfl
  cases hn : s.li.notice with
  | none =>
    have hs := supersede_of_none hn
    rw [hnotice s hs]
    refine ⟨?_, fun h => nomatch h⟩
    simp only [t, sendRegular, hs]
    rfl
  | some bytes =>
    have hs := supersede_of_some (s := s) (by simp [hn])
    rw [hnotice _ hs]
    refine ⟨?_, fun _ => ?_⟩
    · simp only [t, sendRegular, hs]
      rfl
    · simp only [t, sendRegular, hs]
      exact flag_raise_self _ _

theorem passCompleted_of_active {s : State} (h : s.li.station = .active) : passCompleted s = sendRegular s := if_pos h

theorem passCompleted_of_other {s : State} (h : s.li.station ≠ .active) : passCompleted s = s := if_neg h

/-- The state whose line interface is told that the pass is complete (R31). -/
def State.passEnded (n : Snapshot) (s : State) : State :=
  let s1 := storeOwn .down n (storeOwn .up n s)
  raise .sharePublished (endCycle { s1 with se := { s1.se with pass := .noPass, snapshot := none } })

theorem completePass_eq (n : Snapshot) (s : State) : completePass n s = passCompleted (s.passEnded n) := rfl

theorem passEnded_own (n : Snapshot) (s : State) (d : Dir) :
    ((s.passEnded n).shareDir d).ownDemand = (ownItem s.mp.cfg n d).demand ∧
    ((s.passEnded n).shareDir d).ownWeight = (ownItem s.mp.cfg n d).weight ∧
    ((s.passEnded n).shareDir d).ownReserve = ownReserve n d := by
  cases d <;> exact ⟨rfl, rfl, rfl⟩

theorem passEnded_only (n : Snapshot) (s : State) : s.passEnded n =
    { s with tb := { s.tb with cycleBusy := false }, se := (s.passEnded n).se, mp := (s.passEnded n).mp } ∧
    (s.passEnded n).mp = { s.mp with flags := (s.passEnded n).mp.flags } ∧ (s.passEnded n).li = s.li ∧
    (s.passEnded n).se.pass = .noPass ∧ (s.passEnded n).se.snapshot = none ∧
    (s.passEnded n).flag .sharePublished = true := ⟨rfl, rfl, rfl, rfl, rfl, flag_raise_self _ _⟩

/-- Telling the line interface changes it and the flags alone. -/
theorem passCompleted_only (s : State) : passCompleted s = { s with li := (passCompleted s).li, mp := (passCompleted s).mp } ∧
    (passCompleted s).mp = { s.mp with flags := (passCompleted s).mp.flags } := by
  by_cases h : s.li.station = .active
  · rw [passCompleted_of_active h]
    cases hn : s.li.notice with
    | none => rw [sendRegular, supersede_of_none hn]; exact ⟨rfl, rfl⟩
    | some _ => rw [sendRegular, supersede_of_some (by simp [hn])]; exact ⟨rfl, rfl⟩
  · rw [passCompleted_of_other h]
    exact ⟨rfl, rfl⟩

/-- What the completed pass leaves. -/
theorem completePass_effect (n : Snapshot) (s : State) :
    let t := completePass n s
    t.se.pass = .noPass ∧ t.se.snapshot = none ∧ t.tb = { s.tb with cycleBusy := false } ∧
    t.flag .sharePublished = true ∧ t.mp = { s.mp with flags := t.mp.flags } ∧
    (∀ d, (t.shareDir d).ownDemand = (ownItem s.mp.cfg n d).demand ∧
      (t.shareDir d).ownWeight = (ownItem s.mp.cfg n d).weight ∧ (t.shareDir d).ownReserve = ownReserve n d) ∧
    (s.li.station ≠ .active → t.li = s.li) ∧
    (s.li.station = .active →
      t.li = { s.li with
        notice := some t.regularNotice, cycle := s.li.cycle + 1, random := stepRandom s.li.random, attempts := 0
        tx := if t.li.random.toNat % 16 = 0 then .defer else .jitter
        jitterLeft := t.li.random.toNat % 16, backoffSlots := t.li.backoffSlots } ∧
      (s.li.notice.isSome = true → t.flag .noticeAbandoned = true)) ∧
    t = { s with tb := t.tb, se := t.se, li := t.li, mp := t.mp } := by
  intro t
  obtain ⟨honly, hmp, hli, hpass, hsnapshot, hflag⟩ := passEnded_only n s
  obtain ⟨htonly, htmp⟩ := passCompleted_only (s.passEnded n)
  have hown := passEnded_own n s
  have ht : t = passCompleted (s.passEnded n) := completePass_eq n s
  have hflag' : t.flag .sharePublished = true := by
    rw [ht]
    exact passCompleted_flags _ hflag
  have hother : s.li.station ≠ .active → t.li = s.li := fun h => by
    rw [ht, passCompleted_of_other (by rw [hli]; exact h), hli]
  have hactive (h : s.li.station = .active) : t = sendRegular (s.passEnded n) := by
    rw [ht, passCompleted_of_active (by rw [hli]; exact h)]
  have hsent := sendRegular_effect (s.passEnded n)
  rw [← ht] at htonly htmp
  generalize s.passEnded n = v at *
  clear_value t
  have hse : t.se = v.se := by rw [htonly]
  have htb : t.tb = v.tb := by rw [htonly]
  refine ⟨hse ▸ hpass, hse ▸ hsnapshot, ?_, hflag', ?_, fun d => ?_, hother, fun h => ?_, ?_⟩
  · rw [htb, honly]
  · rw [htmp, hmp]
  · rw [State.shareDir, hse]
    exact hown d
  · rw [hli, ← hactive h] at hsent
    exact hsent
  · rw [honly] at htonly
    exact htonly.trans (by rw [htb, hse, honly])

/-! ### The figures (R16 to R18) -/

theorem clientItem_figures (c : ConfigWords) (d : Dir) (m : Member) :
    (clientItem c d m).demand = (if m.capped = true then min c.cappedRate.toNat (m.estimate.get d) else m.estimate.get d) ∧
    (m.capped = true → (clientItem c d m).weight = 1) ∧
    (m.capped = false → m.tier = .standard → (clientItem c d m).weight = c.standardWeight.toNat) ∧
    (m.capped = false → m.tier = .premium → (clientItem c d m).weight = c.premiumWeight.toNat) := by
  cases hcapped : m.capped with
  | true => simp [clientItem, hcapped]
  | false =>
    simp only [clientItem, hcapped]
    exact ⟨rfl, nofun, fun _ htier => by rw [htier]; rfl, fun _ htier => by rw [htier]; rfl⟩

theorem getD_toList {α : Type} {k i : Nat} (v : Vector α k) (h : i < k) (x : α) : v.toList.getD i x = v[i] := by
  simp [List.getD_eq_getElem?_getD, h]

theorem groupCapacity_eq (c : ConfigWords) (d : Dir) (g : BitVec 3) :
    c.groupCapacity d g = ((c.capacity.get d).toList.getD g.toNat 0).toNat := by
  have hg : g.toNat < Config.groupCount := by
    have hlt := g.isLt
    simpa using hlt
  exact congrArg BitVec.toNat (getD_toList (c.capacity.get d) hg 0).symm

theorem ownItem_eq (c : ConfigWords) (n : Snapshot) (d : Dir) :
    let demand := min 65535 (n.heldGroups.map fun g => (groupItem c n d g).demand).sum
    let weight := (n.heldGroups.map fun g => (groupItem c n d g).weight).sum
    ownItem c n d = if demand = 0 ∨ weight = 0 then ⟨0, 0⟩ else ⟨demand, weight⟩ := by
  intro demand weight
  have hown : ownItem c n d = ⟨if weight = 0 then 0 else demand, if demand = 0 then 0 else weight⟩ := by
    simp only [ownItem, groupItems, List.map_map]
    rfl
  rw [hown]
  by_cases hdemand : demand = 0
  · simp [hdemand]
  · by_cases hweight : weight = 0
    · simp [hdemand, hweight]
    · simp [hdemand, hweight]

/-- Settles O24: the first publish, the second one with the end of the pass, and the figures. -/
theorem publishOfDownCompletesThePass : Obligations.PublishOfDownCompletesThePass := by
  refine ⟨fun s n hn hpass => ?_, fun s n hn hpass => ?_, fun c n d => ⟨clientItem_figures c d, fun g => mem_heldGroups,
    nodup_heldGroups n, fun g => ?_, ownItem_eq c n d, rfl⟩⟩
  · have honly := publishDir_only .up n s
    have hsnapshot : (publishDir .up n s).se.snapshot = some n := (grantsOnly_publishDir .up n s).snapshot.trans hn
    have hanswers := answers_publish_up hn hpass
    generalize publishDir .up n s = u at *
    obtain ⟨_, _, rfl⟩ : ∃ se ct, u = { s with se := se, ct := ct } := ⟨_, _, honly⟩
    exact ⟨_, hanswers, rfl, hsnapshot, rfl⟩
  · have honly := publishDir_only .down n s
    have hwhole := (publishedAs_completePass n (publishDir .down n s)).only_of honly
    obtain ⟨hpassed, hsnapshot, htb, hflag, hmp, hown, hother, hactive, -⟩ := completePass_effect n (publishDir .down n s)
    refine ⟨_, answers_publish_down hn hpass, hpassed, hsnapshot, ?_⟩
    generalize completePass n (publishDir .down n s) = t at *
    generalize publishDir .down n s = u at *
    obtain ⟨_, _, rfl⟩ : ∃ se ct, u = { s with se := se, ct := ct } := ⟨_, _, honly⟩
    exact ⟨htb, hflag, hmp, hown, hother, hactive, hwhole⟩
  · show groupItem c n d g = _
    rw [← groupCapacity_eq]
    simp only [groupItem, groupMembers_eq, List.map_map]
    rfl

end Sys2Proof.Machine
end

section
/-! ## Proofs: the epoch expiry (R4 to R8, R48, R51, R56, R77) -/

namespace Sys2Proof.Machine

/-! ### The view as aging finds it -/

/-- Whether a slot holds an entry in view. -/
def State.seesSlot (s : State) (k : Fin Config.peerSlots) : Bool := (s.slot k).any PeerEntry.inView

/-- The entry of a slot, where it is in view. -/
def State.viewEntry (s : State) (k : Fin Config.peerSlots) : Option PeerEntry := (s.slot k).filter fun e => e.inView

theorem viewEntry_isSome (s : State) (k : Fin Config.peerSlots) : (s.viewEntry k).isSome = s.seesSlot k := by
  rw [State.viewEntry, State.seesSlot]
  cases s.slot k with
  | none => rfl
  | some e => cases h : e.inView <;> simp [Option.filter, h]

/-- R50 as a count of slots. -/
theorem viewSize_eq_sum (s : State) : s.viewSize = ∑ k, if s.seesSlot k = true then 1 else 0 := by
  rw [State.viewSize, slots_toList, List.filterMap_map, Fin.sum_univ_def]
  induction List.finRange Config.peerSlots with
  | nil => rfl
  | cons k rest ih =>
    rw [List.filterMap_cons, List.map_cons, List.sum_cons, ← ih, ← viewEntry_isSome, State.viewEntry]
    simp only [Function.comp_apply, viewFigures_eq]
    cases (s.slot k).filter fun e => e.inView with
    | none => simp
    | some e => simp [Nat.add_comm]

theorem viewSize_eq_length (s : State) :
    s.viewSize = ((List.finRange Config.peerSlots).filterMap s.viewEntry).length := by
  rw [State.viewSize, slots_toList, List.filterMap_map]
  have hmap : PeerEntry.viewFigures ∘ s.slot = fun k => (s.viewEntry k).map PeerEntry.figures :=
    funext fun k => viewFigures_eq (s.slot k)
  rw [hmap, ← List.map_filterMap, List.length_map]

/-- A change of one slot, as the view counts it. -/
theorem viewSize_of_slot {s t : State} {k : Fin Config.peerSlots} (h : ∀ j, j ≠ k → t.slot j = s.slot j) :
    t.viewSize + (if s.seesSlot k = true then 1 else 0) = s.viewSize + (if t.seesSlot k = true then 1 else 0) := by
  rw [viewSize_eq_sum, viewSize_eq_sum, ← Finset.add_sum_erase _ _ (Finset.mem_univ k),
    ← Finset.add_sum_erase _ (fun j => if s.seesSlot j = true then 1 else 0) (Finset.mem_univ k)]
  have hrest : ∑ j ∈ Finset.univ.erase k, (if t.seesSlot j = true then 1 else 0) =
      ∑ j ∈ Finset.univ.erase k, if s.seesSlot j = true then 1 else 0 :=
    Finset.sum_congr rfl fun j hj => by rw [State.seesSlot, h j (Finset.ne_of_mem_erase hj)]; rfl
  rw [hrest]
  omega

theorem viewSize_congr {s t : State} (h : t.pt.slots = s.pt.slots) : t.viewSize = s.viewSize := by
  rw [State.viewSize, State.viewSize, h]

/-! ### VIEW records -/

/-- The records of view changes are offered where they are enabled (R51). -/
def offerViews (rs : List Record) (s : State) : State :=
  if s.mp.cfg.viewRecords = true then rs.foldl (fun u r => offerRecord r u) s else s

theorem cfg_foldl_offerRecord (rs : List Record) (s : State) :
    (rs.foldl (fun u r => offerRecord r u) s).mp.cfg = s.mp.cfg := by
  induction rs generalizing s with
  | nil => rfl
  | cons r rest ih => rw [List.foldl_cons, ih, offerRecord_cfg]

@[simp] theorem offerViews_cfg (rs : List Record) (s : State) : (offerViews rs s).mp.cfg = s.mp.cfg := by
  unfold offerViews
  split
  · exact cfg_foldl_offerRecord rs s
  · rfl

@[simp] theorem offerViews_nil (s : State) : offerViews [] s = s := by simp [offerViews]

theorem offerViews_append (rs qs : List Record) (s : State) :
    offerViews (rs ++ qs) s = offerViews qs (offerViews rs s) := by
  rw [offerViews, offerViews.eq_1 qs, offerViews_cfg, offerViews]
  split
  · exact List.foldl_append ..
  · rfl

theorem OffersAlike.refl (p : Prop) (s : State) : OffersAlike p s s := ⟨rfl, rfl, rfl, fun _ => rfl⟩

theorem OffersAlike.trans {p : Prop} {s t u : State} (h : OffersAlike p s t) (k : OffersAlike p t u) :
    OffersAlike p s u :=
  ⟨k.lw.trans h.lw, k.mc.trans h.mc, k.cfg.trans h.cfg, fun hp => (k.mp hp).trans (h.mp hp)⟩

theorem OffersAlike.offerViews {p : Prop} {s t : State} (h : OffersAlike p s t) (rs : List Record) :
    OffersAlike p (offerViews rs s) (offerViews rs t) := by
  rw [Machine.offerViews, Machine.offerViews, h.cfg]
  split
  · clear * - h
    induction rs generalizing s t with
    | nil => exact h
    | cons r rest ih => exact ih (h.offerRecord r)
  · exact h

/-- R51: a view change raises its flag and offers its record. -/
theorem viewChange_alike (station : Word) (set : BitVec 4) (change : ViewChange) (s : State) :
    OffersAlike False (offerViews [.view station set change s.tb.epoch s.viewSize] s) (viewChange station set change s) := by
  have hraised : OffersAlike False s (raise .viewChanged s) := ⟨rfl, rfl, rfl, fun hp => hp.elim⟩
  have hoffered := hraised.offerViews [.view station set change s.tb.epoch s.viewSize]
  unfold offerViews at hoffered
  exact hoffered

theorem viewChanged_viewChange (station : Word) (set : BitVec 4) (change : ViewChange) (s : State) :
    (viewChange station set change s).flag .viewChanged = true := by
  have hraised := flag_raise_self s .viewChanged
  unfold viewChange
  dsimp only
  split
  · exact offerRecord_flags _ _ hraised
  · exact hraised

/-- R59: what the removal of an entry offers. -/
theorem removePeer_alike {s : State} {k : Fin Config.peerSlots} {e : PeerEntry} (hslot : s.slot k = some e) (c : ViewChange) :
    OffersAlike False
      (offerViews (if e.inView = true then [.view e.station e.set c s.tb.epoch (s.viewSize - 1)] else []) s)
      (removePeer k c s) := by
  have hset (f : Option PeerEntry) : OffersAlike False s (s.setSlot k f) := ⟨rfl, rfl, rfl, fun _ => rfl⟩
  rw [removePeer, hslot]
  by_cases hview : e.inView = true
  · have hsize : (s.setSlot k none).viewSize = s.viewSize - 1 := by
      have hcount := viewSize_of_slot (s := s) (t := s.setSlot k none) (k := k) fun j hj => by simp [slot_setSlot, hj]
      have hbefore : s.seesSlot k = true := by simp [State.seesSlot, hslot, hview]
      have hafter : (s.setSlot k none).seesSlot k = false := by simp [State.seesSlot, slot_setSlot]
      simp only [hbefore, hafter, if_true] at hcount
      simp at hcount
      omega
    rw [if_pos hview]
    simp only [hview, if_true]
    rw [← hsize]
    exact ((hset none).offerViews _).trans (viewChange_alike e.station e.set c _)
  · rw [if_neg hview]
    simp only [hview, offerViews_nil]
    exact hset none

theorem viewChanged_removePeer {s : State} {k : Fin Config.peerSlots} {e : PeerEntry} (hslot : s.slot k = some e)
    (hview : e.inView = true) (c : ViewChange) : (removePeer k c s).flag .viewChanged = true := by
  rw [removePeer, hslot]
  simp only [hview, if_true]
  exact viewChanged_viewChange _ _ _ _

/-! ### Aging slot by slot (R48, R53) -/

/-- R48, R53: whether aging removes an entry. -/
def PeerEntry.ends (e : PeerEntry) : Bool := decide (e.purge = true ∨ e.silence + 1 = e.limit)

/-- The change that aging reports for an entry it removes from the view. -/
def PeerEntry.endChange (e : PeerEntry) : ViewChange := if e.purge = true then .purged else .timedOut

/-- The records of the entries that aging removes from a view of that many entries, one entry fewer with each. -/
def endRecords (epoch : BitVec 32) : List PeerEntry → Nat → List Record
  | [], _ => []
  | e :: rest, n => .view e.station e.set e.endChange epoch (n - 1) :: endRecords epoch rest (n - 1)

theorem endRecords_eq_map (epoch : BitVec 32) (es : List PeerEntry) (n j : Nat) :
    endRecords epoch es (n - j) =
      (es.zipIdx j).map fun p => Record.view p.1.station p.1.set p.1.endChange epoch (n - (p.2 + 1)) := by
  induction es generalizing j with
  | nil => rfl
  | cons e rest ih => rw [endRecords, List.zipIdx_cons, List.map_cons, Nat.sub_sub, ih]

theorem agePeer_of_ends {s : State} {k : Fin Config.peerSlots} {e : PeerEntry} (hslot : s.slot k = some e)
    (h : e.ends = true) : agePeer k s = removePeer k e.endChange s := by
  rw [agePeer, hslot, PeerEntry.endChange]
  by_cases hp : e.purge = true
  · simp [hp]
  · have hl : e.silence + 1 = e.limit := by simpa [PeerEntry.ends, hp] using h
    simp [hp, hl]

theorem agePeer_of_stays {s : State} {k : Fin Config.peerSlots} {e : PeerEntry} (hslot : s.slot k = some e)
    (h : e.ends = false) : agePeer k s = s.setSlot k (some { e with silence := e.silence + 1 }) := by
  obtain ⟨hp, hl⟩ : e.purge = false ∧ ¬ e.silence + 1 = e.limit := by simpa [PeerEntry.ends] using h
  rw [agePeer, hslot]
  simp [hp, hl]

theorem agePeer_of_empty {s : State} {k : Fin Config.peerSlots} (h : s.slot k = none) : agePeer k s = s := by
  rw [agePeer, h]

/-- The entry of a slot that aging removes from the view. -/
def State.endingAt (s : State) (k : Fin Config.peerSlots) : Option PeerEntry := (s.viewEntry k).filter PeerEntry.ends

/-- What aging one slot offers. -/
theorem agePeer_alike (k : Fin Config.peerSlots) (s : State) :
    OffersAlike False (offerViews (endRecords s.tb.epoch (s.endingAt k).toList s.viewSize) s) (agePeer k s) := by
  cases hslot : s.slot k with
  | none =>
    rw [agePeer_of_empty hslot, State.endingAt, State.viewEntry, hslot]
    simpa [endRecords] using OffersAlike.refl False s
  | some e =>
    cases hends : e.ends with
    | true =>
      rw [agePeer_of_ends hslot hends]
      have hrecords : endRecords s.tb.epoch (s.endingAt k).toList s.viewSize =
          if e.inView = true then [.view e.station e.set e.endChange s.tb.epoch (s.viewSize - 1)] else [] := by
        cases hview : e.inView <;> simp [State.endingAt, State.viewEntry, hslot, hends, hview, Option.filter, endRecords]
      rw [hrecords]
      exact removePeer_alike hslot e.endChange
    | false =>
      rw [agePeer_of_stays hslot hends]
      have hnone : s.endingAt k = none := by
        cases hview : e.inView <;> simp [State.endingAt, State.viewEntry, hslot, hends, hview, Option.filter]
      rw [hnone]
      exact (congrFun (congrArg _ (offerViews_nil s)) _).mpr ⟨rfl, rfl, rfl, fun _ => rfl⟩

/-- Aging a slot takes the entry it removes off the view's size. -/
theorem viewSize_agePeer (k : Fin Config.peerSlots) (s : State) :
    (agePeer k s).viewSize = s.viewSize - (s.endingAt k).toList.length := by
  have hcount := viewSize_of_slot (s := s) (t := agePeer k s) (k := k) fun j hj => by simp [slot_agePeer, hj]
  have hslot := slot_agePeer s k k
  rw [if_pos rfl] at hslot
  rw [State.seesSlot, State.seesSlot, hslot] at hcount
  rw [State.endingAt, State.viewEntry]
  cases h : s.slot k with
  | none => simpa [h] using hcount
  | some e =>
    cases hends : e.ends with
    | true =>
      have hgone : e.purge = true ∨ e.silence + 1 = e.limit := by simpa [PeerEntry.ends] using hends
      cases hview : e.inView <;> simp [h, hgone, hview, Option.filter, hends] at hcount ⊢ <;> omega
    | false =>
      have hkept : ¬ (e.purge = true ∨ e.silence + 1 = e.limit) := by simpa [PeerEntry.ends] using hends
      cases hview : e.inView <;> simp [h, hkept, hview, Option.filter, hends] at hcount ⊢ <;> omega

theorem endRecords_append (epoch : BitVec 32) (es fs : List PeerEntry) (n : Nat) :
    endRecords epoch (es ++ fs) n = endRecords epoch es n ++ endRecords epoch fs (n - es.length) := by
  induction es generalizing n with
  | nil => rfl
  | cons e rest ih => rw [List.cons_append, endRecords, endRecords, ih, List.cons_append, List.length_cons, Nat.sub_sub,
      Nat.add_comm 1]

/-- What aging a list of slots without repeats offers. -/
theorem agePeers_alike (ks : List (Fin Config.peerSlots)) (hn : ks.Nodup) (s : State) :
    OffersAlike False (offerViews (endRecords s.tb.epoch (ks.filterMap s.endingAt) s.viewSize) s) (agePeers ks s) := by
  induction ks generalizing s with
  | nil => simpa [endRecords, agePeers] using OffersAlike.refl False s
  | cons k rest ih =>
    obtain ⟨hk, hr⟩ := List.nodup_cons.mp hn
    have hrest : rest.filterMap (agePeer k s).endingAt = rest.filterMap s.endingAt :=
      List.filterMap_congr fun j hj => by
        have hne : j ≠ k := fun h => hk (h ▸ hj)
        rw [State.endingAt, State.viewEntry, slot_agePeer, if_neg hne]
        rfl
    have hafter := ih hr (agePeer k s)
    rw [hrest, viewSize_agePeer, (agePeer_frame k s).1] at hafter
    have hcons : (k :: rest).filterMap s.endingAt = (s.endingAt k).toList ++ rest.filterMap s.endingAt := by
      rw [List.filterMap_cons]
      cases s.endingAt k <;> rfl
    rw [hcons, endRecords_append, offerViews_append]
    exact ((agePeer_alike k s).offerViews _).trans hafter

theorem viewChanged_agePeers {ks : List (Fin Config.peerSlots)} (hn : ks.Nodup) {s : State} {k : Fin Config.peerSlots}
    (hk : k ∈ ks) {e : PeerEntry} (hslot : s.slot k = some e) (hview : e.inView = true) (hends : e.ends = true) :
    (agePeers ks s).flag .viewChanged = true := by
  induction ks generalizing s with
  | nil => simp at hk
  | cons j rest ih =>
    obtain ⟨hj, hr⟩ := List.nodup_cons.mp hn
    by_cases hkj : k = j
    · subst hkj
      refine agePeers_flags rest _ ?_
      rw [agePeer_of_ends hslot hends]
      exact viewChanged_removePeer hslot hview _
    · refine ih hr ((List.mem_cons.mp hk).resolve_left hkj) ?_
      rw [slot_agePeer, if_neg hkj, hslot]

/-! ### The expiry as a whole -/

/-- R4 to R7: the counters, and the windows where the cycle is idle. -/
theorem flipOrAbsorb_tb (s : State) : (flipOrAbsorb (countExpiry s)).tb =
    { s.tb with
      epochTimer := s.mp.cfg.epoch, epoch := s.tb.epoch + 1, cycleBusy := true,
      windowLength := if s.tb.cycleBusy = true then s.tb.windowLength else 0 } := by
  unfold flipOrAbsorb
  split
  · next hbusy =>
    have hb : s.tb.cycleBusy = true := hbusy
    simp only [hb, if_true]
    show _ = _
    unfold countExpiry State.setTb
    simp [hb]
  · next hidle =>
    have hb : ¬ s.tb.cycleBusy = true := hidle
    simp only [if_neg hb]
    rfl

theorem flipOrAbsorb_ct_of_busy {s : State} (h : s.tb.cycleBusy = true) : (flipOrAbsorb (countExpiry s)).ct = s.ct := by
  have hb : (countExpiry s).tb.cycleBusy = true := h
  rw [flipOrAbsorb, if_pos hb]
  rfl

theorem flipOrAbsorb_walk_of_idle {s : State} (h : s.tb.cycleBusy = false) :
    (flipOrAbsorb (countExpiry s)).ct.walk = some ⟨0, s.tb.windowLength⟩ := by
  have hb : ¬ (countExpiry s).tb.cycleBusy = true := Bool.eq_false_iff.1 h
  rw [flipOrAbsorb, if_neg hb]
  rfl

theorem flip_eq (e : ClientEntry) :
    e.flip = { e with selector := if e.state = .free then e.selector else !e.selector } := by
  unfold ClientEntry.flip
  split
  · next h => cases e; subst h; rfl
  · rfl

/-- R56: the count of epochs without uplink words. -/
theorem ageUplink_count {s : State} (h : s.pt.staleCount ≤ 16) : (ageUplink s).pt.staleCount =
    if s.mp.cfg.gateway = 1 then min 16 (s.pt.staleCount + 1) else s.pt.staleCount := by
  unfold ageUplink
  simp only [ConfigWords.gatewaySet, beq_iff_eq]
  by_cases hg : s.mp.cfg.gateway = 1
  · by_cases hroom : s.pt.staleCount < 16
    · rw [if_pos ⟨hg, hroom⟩, if_pos hg]
      split
      · simp only [raise]; omega
      · simp only; omega
    · rw [if_neg fun hc => hroom hc.2, if_pos hg]
      omega
  · rw [if_neg fun hc => hg hc.1, if_neg hg]

theorem uplinkStale_ageUplink {s : State} (hg : s.mp.cfg.gateway = 1) (h : s.pt.staleCount = 15) :
    (ageUplink s).flag .uplinkStale = true := by
  unfold ageUplink
  simp only [ConfigWords.gatewaySet, beq_iff_eq]
  rw [if_pos ⟨hg, by omega⟩, if_pos (by rw [h])]
  exact flag_raise_self _ _

theorem ageUplink_pt (s : State) : (ageUplink s).pt =
    { s.pt with staleCount := (ageUplink s).pt.staleCount, stale := (ageUplink s).pt.stale } := by
  unfold ageUplink
  split
  · dsimp only
    split <;> rfl
  · rfl

/-- What the expiry makes of the state, block by block, from the table as aging finds it. -/
structure Expired (s t : State) : Prop where
  tb : t.tb = (flipOrAbsorb (countExpiry s)).tb
  ct : t.ct = (flipOrAbsorb (countExpiry s)).ct
  li : t.li = s.li.countExpiry
  pt : t.pt = (ageUplink (ageTable (flipOrAbsorb (countExpiry s)))).pt
  lw : t.lw = (ageTable (flipOrAbsorb (countExpiry s))).lw
  mc : t.mc = (ageTable (flipOrAbsorb (countExpiry s))).mc
  mp : t.mp = { s.mp with flags := t.mp.flags }
  only : t = { s with tb := t.tb, ct := t.ct, li := t.li, pt := t.pt, lw := t.lw, mc := t.mc, mp := t.mp }

theorem takeExpiry_expired (s : State) : Expired s (takeExpiry s) where
  tb := takeExpiry_tb s
  ct := by unfold takeExpiry; simp [State.setLine]
  li := by unfold takeExpiry; simp
  pt := by unfold takeExpiry; rfl
  lw := by unfold takeExpiry; simp [State.setLine]
  mc := by unfold takeExpiry; simp [State.setLine]
  mp := MaintPort.eq_of_noFlags (takeExpiry_frame s).2.2.2.2.2.2.2.2
  only := by
    obtain ⟨hse, hme, hwu, hmem, hcomp, hlow, hdraws, hpend, _⟩ := takeExpiry_frame s
    generalize takeExpiry s = u at *
    cases s
    cases u
    simp_all

/-- The flags that aging and the uplink leave raised are raised at the end. -/
theorem takeExpiry_flag (s : State) (f : IrqFlag) :
    (takeExpiry s).flag f = (ageUplink (ageTable (flipOrAbsorb (countExpiry s)))).flag f := rfl

theorem answers_epochExpiry {s : State} (hon : s.started = true) (hzero : s.tb.epochTimer = 0) :
    Answers .epochExpiry s (takeExpiry s) := answers_if rfl ⟨hon, hzero⟩ rfl

theorem ageTable_of_lineFault {s : State} (h : s.li.station = .lineFault) : ageTable s = s := if_pos h

theorem ageTable_of_running {s : State} (h : s.li.station ≠ .lineFault) : ageTable s = agePeers allSlots s := if_neg h

/-- R48, R53: what becomes of each slot. -/
theorem slot_ageTable {s : State} (h : s.li.station ≠ .lineFault) (k : Fin Config.peerSlots) :
    (ageTable s).slot k = (s.slot k).bind fun e =>
      if e.purge = true ∨ e.silence + 1 = e.limit then none else some { e with silence := e.silence + 1 } := by
  rw [ageTable_of_running h, slot_agePeers _ allSlots_nodup, if_pos (mem_allSlots k), slot_agePeer, if_pos rfl]

/-- The entries that aging removes from the view are those of the view that end. -/
theorem filterMap_endingAt (s : State) (ks : List (Fin Config.peerSlots)) :
    ks.filterMap s.endingAt = (ks.filterMap s.viewEntry).filter PeerEntry.ends := by
  rw [List.filter_filterMap]
  rfl

theorem endRecords_view (epoch : BitVec 32) (es : List PeerEntry) (n : Nat) :
    endRecords epoch es n = es.zipIdx.map fun p =>
      Record.view p.1.station p.1.set (if p.1.purge = true then .purged else .timedOut) epoch (n - (p.2 + 1)) :=
  endRecords_eq_map epoch es n 0

/-- Settles O15: the expiry taken block by block: the time base and the windows, the line's count, the table slot by slot
with its VIEW records, and the age of the uplink words. -/
theorem expiryIsTakenByEveryBlock : Obligations.ExpiryIsTakenByEveryBlock := by
  intro s hon hzero ⟨hcount, hstale, hsettle⟩
  obtain ⟨htb, hct, hli, hpt, hlw, hmc, hmp, honly⟩ := takeExpiry_expired s
  have hflip := flipOrAbsorb_frame (countExpiry s)
  have hflags := takeExpiry_flag s
  have hclients := client_takeExpiry s
  have hanswers := answers_epochExpiry hon hzero
  have hinputs := inputsOk_takeExpiry ⟨hcount, hstale, hsettle⟩
  have hepoch : (flipOrAbsorb (countExpiry s)).tb.epoch = s.tb.epoch + 1 := by rw [flipOrAbsorb_tb]
  have hwalk := @flipOrAbsorb_walk_of_idle s
  have hbusy := @flipOrAbsorb_ct_of_busy s
  rw [flipOrAbsorb_tb] at htb
  generalize takeExpiry s = t at *
  generalize flipOrAbsorb (countExpiry s) = u at *
  obtain ⟨-, hupt, huli, -, -, hulw, humc, hump, -⟩ := hflip
  replace hupt : u.pt = s.pt := hupt
  replace huli : u.li = s.li := huli
  replace hulw : u.lw = s.lw := hulw
  replace humc : u.mc = s.mc := humc
  replace hump : u.mp = s.mp := hump
  have hslots : t.pt.slots = (ageTable u).pt.slots := by rw [hpt, ageUplink_pt]
  have hslot (k : Fin Config.peerSlots) : t.slot k = (ageTable u).slot k := by rw [State.slot, hslots]; rfl
  have huslot (k : Fin Config.peerSlots) : u.slot k = s.slot k := by rw [State.slot, hupt]; rfl
  have hage := slotsOnly_ageTable u
  have hagecfg : (ageTable u).mp.cfg = s.mp.cfg := by rw [ageTable_cfg, hump]
  have hagecount : (ageTable u).pt.staleCount = s.pt.staleCount := by rw [hage, hupt]
  refine ⟨t, hanswers, htb, fun h => hct.trans (hbusy h), fun h => ⟨by rw [hct, hwalk h], fun i => ?_⟩, hli, hmp, honly,
    fun hfault => ?_, fun hrun k => ?_, fun hrun => ?_, ?_, ?_, ?_, ?_⟩
  · rw [hclients, if_neg (Bool.eq_false_iff.1 h), flip_eq]
  · have hstay := ageTable_of_lineFault (huli ▸ hfault)
    rw [hslots, hlw, hmc, hstay]
    exact ⟨by rw [hupt], hulw, humc⟩
  · have hrun' : u.li.station ≠ .lineFault := huli ▸ hrun
    rw [hslot, slot_ageTable hrun', huslot]
    refine ⟨fun h => by rw [h]; rfl, fun e he => ⟨by rw [he]; rfl, fun hnone hview => ?_⟩⟩
    have hends : e.ends = true := by
      rw [he] at hnone
      simpa [PeerEntry.ends, or_iff_not_imp_left] using hnone
    rw [hflags, ageTable_of_running hrun']
    exact ageUplink_flags _ (viewChanged_agePeers allSlots_nodup (mem_allSlots k) ((huslot k).trans he) hview hends)
  · have hrun' : u.li.station ≠ .lineFault := huli ▸ hrun
    have halike := agePeers_alike allSlots allSlots_nodup u
    rw [← ageTable_of_running hrun', filterMap_endingAt, endRecords_view, hepoch, viewSize_eq_length] at halike
    have hview : u.viewEntry = s.viewEntry := funext fun k => by rw [State.viewEntry, huslot]; rfl
    rw [hview] at halike
    have hsame : OffersAlike False s u := ⟨hulw, humc, by rw [hump], fun hp => hp.elim⟩
    have hall := (hsame.offerViews _).trans halike
    exact ⟨hlw.trans hall.lw, hmc.trans hall.mc⟩
  · rw [hpt, ageUplink_count (by omega), hagecount, hagecfg]
  · exact fun _ => hinputs.2.1
  · intro hg h15
    rw [hflags]
    exact uplinkStale_ageUplink (by rw [hagecfg, hg]) (by rw [hagecount, h15])
  · have hageslots : (ageTable u).pt = { s.pt with slots := (ageTable u).pt.slots } := by
      rw [← hupt]
      exact hage
    rw [ageUplink_pt, hageslots] at hpt
    rw [hpt]

end Sys2Proof.Machine
end

section
/-! ## Proofs: the peer table takes a notice (R43 to R46, R51) -/

namespace Sys2Proof.Machine

/-! ### The searches of the table -/

/-- A search of the slots finds the lowest that answers. -/
theorem find?_allSlots {p : Fin Config.peerSlots → Bool} {k : Fin Config.peerSlots} (hk : p k = true)
    (hlow : ∀ j, j < k → p j = false) : allSlots.find? p = some k := by
  rw [List.find?_eq_some_iff_getElem]
  refine ⟨hk, k.val, by simp [allSlots], by simp [allSlots], fun j hj => ?_⟩
  have hlt : j < Config.peerSlots := hj.trans k.isLt
  simpa [allSlots] using hlow ⟨j, hlt⟩ hj

theorem findPeer_of_slot {s : State} (hs : PeersOk s) {k : Fin Config.peerSlots} {e : PeerEntry} (hslot : s.slot k = some e) :
    s.findPeer e.station = some k := by
  cases hfind : s.findPeer e.station with
  | none => exact absurd rfl (findPeer_none.1 hfind k e hslot)
  | some j =>
    obtain ⟨f, hf, hstation⟩ := findPeer_some hfind
    rw [hs.distinct j k f e hf hslot hstation]

theorem emptySlot_of_lowest {s : State} {k : Fin Config.peerSlots} (hk : s.slot k = none)
    (hlow : ∀ j, j < k → s.slot j ≠ none) : s.emptySlot = some k :=
  find?_allSlots (by simp [hk]) fun j hj => by
    simpa using Option.ne_none_iff_isSome.1 (hlow j hj)

theorem silenceAt_of_slot {s : State} {k : Fin Config.peerSlots} {e : PeerEntry} (h : s.slot k = some e) :
    s.silenceAt k = e.silence := by rw [State.silenceAt, h]

/-- R46: of the most silent entries, the lowest. -/
theorem victim_of_lowest {s : State} {k : Fin Config.peerSlots} {e : PeerEntry} (hfull : ∀ j, s.slot j ≠ none)
    (hk : s.slot k = some e) (hsilent : 1 ≤ e.silence)
    (hmost : ∀ j f, s.slot j = some f → f.silence ≤ e.silence ∧ (j < k → f.silence < e.silence)) :
    s.victim = some k := by
  have hentry (j : Fin Config.peerSlots) : ∃ f, s.slot j = some f := Option.ne_none_iff_exists'.1 (hfull j)
  refine find?_allSlots ?_ fun j hj => ?_
  · simp only [silenceAt_of_slot hk, Bool.and_eq_true, decide_eq_true_eq, List.all_eq_true]
    refine ⟨hsilent, fun j _ => ?_⟩
    obtain ⟨f, hf⟩ := hentry j
    rw [silenceAt_of_slot hf]
    exact (hmost j f hf).1
  · obtain ⟨f, hf⟩ := hentry j
    have hless := (hmost j f hf).2 hj
    simp only [Bool.and_eq_false_iff, List.all_eq_false, decide_eq_true_eq]
    exact .inr ⟨k, mem_allSlots k, by rw [silenceAt_of_slot hk, silenceAt_of_slot hf]; omega⟩

theorem victim_of_fresh {s : State} (h : ∀ k, ∃ e, s.slot k = some e ∧ e.silence = 0) : s.victim = none := by
  refine List.find?_eq_none.2 fun k _ => ?_
  obtain ⟨e, he, hfresh⟩ := h k
  simp [silenceAt_of_slot he, hfresh]

/-! ### What a notice does, case by case -/

theorem takeNotice_of_known {n : Notice} {s : State} {k : Fin Config.peerSlots} {e : PeerEntry} (hs : PeersOk s)
    (hslot : s.slot k = some e) (hstation : e.station = n.station) :
    takeNotice n s = if n.leaving = true then removePeer k .left s
      else if e.cycle = n.cycle then refreshPeer k e s else updatePeer k e n s := by
  rw [takeNotice, ← hstation, findPeer_of_slot hs hslot]
  simp only [hslot]

theorem takeNotice_of_unknown {n : Notice} {s : State} (h : ∀ k e, s.slot k = some e → e.station ≠ n.station) :
    takeNotice n s = if n.leaving = true then s else newPeer n s := by
  rw [takeNotice, findPeer_none.2 h]

/-! ### View changes -/

/-- A view change taken while the table holds that many entries in view. -/
theorem viewChange_eq (station : Word) (set : BitVec 4) (change : ViewChange) {s u : State} {size : Nat}
    (htb : u.tb = s.tb) (hcfg : u.mp.cfg = s.mp.cfg) (hsize : u.viewSize = size) :
    viewChange station set change u =
      (if s.mp.cfg.recordEnables.getLsbD 1 = true then
        offerRecord (.view station set change s.tb.epoch size) (raise .viewChanged u)
      else raise .viewChanged u) := by
  subst hsize
  rw [← htb, ← hcfg]
  rfl

theorem viewSize_setSlot (s : State) (k : Fin Config.peerSlots) (f : Option PeerEntry) :
    (s.setSlot k f).viewSize + (if s.seesSlot k = true then 1 else 0) =
      s.viewSize + (if f.any PeerEntry.inView = true then 1 else 0) := by
  have hcount := viewSize_of_slot (s := s) (t := s.setSlot k f) (k := k) fun j hj => by simp [slot_setSlot, hj]
  have hself : (s.setSlot k f).seesSlot k = f.any PeerEntry.inView := by simp [State.seesSlot, slot_setSlot]
  rwa [hself] at hcount

theorem seesSlot_of_slot {s : State} {k : Fin Config.peerSlots} {e : PeerEntry} (h : s.slot k = some e) :
    s.seesSlot k = e.inView := by rw [State.seesSlot, h]; rfl

theorem seesSlot_of_empty {s : State} {k : Fin Config.peerSlots} (h : s.slot k = none) : s.seesSlot k = false := by
  rw [State.seesSlot, h]; rfl

/-- An entry taken out of the table. -/
theorem viewSize_setSlot_none {s : State} {k : Fin Config.peerSlots} {e : PeerEntry} (h : s.slot k = some e) :
    (s.setSlot k none).viewSize = if e.inView = true then s.viewSize - 1 else s.viewSize := by
  have hcount := viewSize_setSlot s k none
  rw [seesSlot_of_slot h] at hcount
  split at hcount <;> simp_all
  omega

/-- R59, R51: an entry is removed. -/
theorem removePeer_eq {s : State} {k : Fin Config.peerSlots} {e : PeerEntry} (hslot : s.slot k = some e) (c : ViewChange) :
    removePeer k c s = (if e.inView = true then
      (if s.mp.cfg.recordEnables.getLsbD 1 = true then
        offerRecord (.view e.station e.set c s.tb.epoch (s.viewSize - 1)) (raise .viewChanged (s.setSlot k none))
      else raise .viewChanged (s.setSlot k none))
    else s.setSlot k none) := by
  rw [removePeer, hslot]
  dsimp only
  split
  · next hview =>
    exact viewChange_eq _ _ _ rfl rfl (by rw [viewSize_setSlot_none hslot, if_pos hview])
  · rfl

theorem viewSize_removePeer {s : State} {k : Fin Config.peerSlots} {e : PeerEntry} (hslot : s.slot k = some e)
    (c : ViewChange) : (removePeer k c s).viewSize = if e.inView = true then s.viewSize - 1 else s.viewSize := by
  rw [← viewSize_setSlot_none hslot]
  refine viewSize_congr ?_
  rw [removePeer, hslot]
  dsimp only
  split
  · rw [viewChange_pt]
  · rfl

/-- R45, R51: a new entry is stored in an empty slot of the table that `s` has become. -/
theorem storePeer_eq (n : Notice) {s u : State} {k : Fin Config.peerSlots} (htb : u.tb = s.tb) (hcfg : u.mp.cfg = s.mp.cfg)
    (hslot : u.slot k = none) :
    storePeer k n u = (if (s.mp.cfg.entryOf n).inView = true then
      (if s.mp.cfg.recordEnables.getLsbD 1 = true then
        offerRecord (.view n.station n.set .joined s.tb.epoch (u.viewSize + 1))
          (raise .viewChanged (u.setSlot k (some (s.mp.cfg.entryOf n))))
      else raise .viewChanged (u.setSlot k (some (s.mp.cfg.entryOf n))))
    else u.setSlot k (some (s.mp.cfg.entryOf n))) := by
  rw [storePeer, hcfg]
  split
  · next hview =>
    refine viewChange_eq _ _ _ htb hcfg ?_
    have hcount := viewSize_setSlot u k (some (s.mp.cfg.entryOf n))
    rw [seesSlot_of_empty hslot, Option.any_some, if_pos hview] at hcount
    exact hcount
  · rfl

/-- R44, R51: a known station's entry is replaced. -/
theorem updatePeer_eq (n : Notice) {s : State} {k : Fin Config.peerSlots} {e : PeerEntry} (hslot : s.slot k = some e) :
    updatePeer k e n s =
      (if e.inView = true ∧ (s.mp.cfg.entryOf n).inView = false then
        (if s.mp.cfg.recordEnables.getLsbD 1 = true then
          offerRecord (.view e.station e.set .left s.tb.epoch (s.viewSize - 1))
            (raise .viewChanged (s.setSlot k (some (s.mp.cfg.entryOf n))))
        else raise .viewChanged (s.setSlot k (some (s.mp.cfg.entryOf n))))
      else if e.inView = false ∧ (s.mp.cfg.entryOf n).inView = true then
        (if s.mp.cfg.recordEnables.getLsbD 1 = true then
          offerRecord (.view n.station n.set .joined s.tb.epoch (s.viewSize + 1))
            (raise .viewChanged (s.setSlot k (some (s.mp.cfg.entryOf n))))
        else raise .viewChanged (s.setSlot k (some (s.mp.cfg.entryOf n))))
      else s.setSlot k (some (s.mp.cfg.entryOf n))) := by
  have hcount := viewSize_setSlot s k (some (s.mp.cfg.entryOf n))
  rw [seesSlot_of_slot hslot, Option.any_some] at hcount
  rw [updatePeer]
  simp only [Bool.and_eq_true, Bool.not_eq_true']
  split
  · next h =>
    rw [h.1, h.2] at hcount
    exact viewChange_eq _ _ _ rfl rfl (by simp at hcount; omega)
  · split
    · next h =>
      rw [h.1, h.2] at hcount
      exact viewChange_eq _ _ _ rfl rfl (by simp at hcount; omega)
    · rfl

theorem entryOf_eq (c : ConfigWords) (n : Notice) : c.entryOf n =
    { station := n.station, set := n.set, cycle := n.cycle, epochLength := n.epochLength, gateway := n.gateway
      stale := n.stale, figures := n.figures, silence := 0, purge := false
      limit := c.peerTimeout.toNat * ((n.epochLength + c.epochLength.toNat - 1) / c.epochLength.toNat)
      inView := decide (c.scope = 0 ∨ n.set.toNat = c.setId.toNat) } := by
  have hview : c.inView n.set = decide (c.scope = 0 ∨ n.set.toNat = c.setId.toNat) := by
    simp [ConfigWords.inView, ← Bool.beq_eq_decide_eq]
  rw [ConfigWords.entryOf, hview]
  rfl

/-- Settles O33: the notice of a station in the table refreshes, replaces or removes its entry; a new station takes the
lowest empty slot or that of the most silent entry. -/
theorem peerTableTakesNotices : Obligations.PeerTableTakesNotices := by
  intro n s hs entry size changed without stored t
  have hentry : s.mp.cfg.entryOf n = entry := entryOf_eq s.mp.cfg n
  have hsize : s.viewSize = size := viewSize_eq_length s
  have hwithout {k : Fin Config.peerSlots} {e : PeerEntry} (hslot : s.slot k = some e) (c : ViewChange) :
      removePeer k c s = without k e c := by rw [removePeer_eq hslot, hsize]
  have hnew : (∀ k e, s.slot k = some e → e.station ≠ n.station) → n.leaving = false → t = newPeer n s :=
    fun hunknown hstays => by
      show takeNotice n s = newPeer n s
      rw [takeNotice_of_unknown hunknown, if_neg (Bool.eq_false_iff.1 hstays)]
  refine ⟨fun k e hslot hstation hstays hcycle => ?_, fun k e hslot hstation hstays hcycle => ?_,
    fun k e hslot hstation hleaves => ?_, fun hunknown hleaves => ?_, fun hunknown hstays =>
    ⟨fun k hslot hlow => ?_, fun hfresh => ?_, fun k e hfull hslot hsilent hmost => ?_⟩⟩
  · show takeNotice n s = _
    rw [takeNotice_of_known hs hslot hstation, if_neg (Bool.eq_false_iff.1 hstays), if_pos hcycle]
    rfl
  · show takeNotice n s = _
    rw [takeNotice_of_known hs hslot hstation, if_neg (Bool.eq_false_iff.1 hstays), if_neg hcycle, updatePeer_eq n hslot,
      hentry, hsize]
  · show takeNotice n s = _
    rw [takeNotice_of_known hs hslot hstation, if_pos hleaves, hwithout hslot]
  · show takeNotice n s = _
    rw [takeNotice_of_unknown hunknown, if_pos hleaves]
  · rw [hnew hunknown hstays, newPeer, emptySlot_of_lowest hslot hlow]
    show storePeer k n s = _
    rw [storePeer_eq n rfl rfl hslot, hentry, hsize]
  · have hfull (k : Fin Config.peerSlots) : s.slot k ≠ none := by
      obtain ⟨e, he, _⟩ := hfresh k
      rw [he]
      simp
    rw [hnew hunknown hstays, newPeer, emptySlot_none.2 hfull, victim_of_fresh hfresh]
  · rw [hnew hunknown hstays, newPeer, emptySlot_none.2 hfull, victim_of_lowest hfull hslot hsilent hmost]
    show storePeer k n (removePeer k .replaced s) = _
    rw [storePeer_eq n (s := s) (by simp) (by simp) (by rw [slot_removePeer, if_pos rfl]), viewSize_removePeer hslot,
      hentry, hsize, hwithout hslot]

end Sys2Proof.Machine
end

section
/-! ## Proofs: composition edges (R52 to R54) and uplink words (R55) -/

namespace Sys2Proof.Machine

/-- The state with the composition input taken over. -/
def State.settled (s : State) : State := { s with pt := { s.pt with debounced := s.composition, settle := 0 } }

theorem answers_compositionEdge {s : State} (hon : s.started = true) (hsettled : s.pt.settle = 10) :
    Answers .compositionEdge s (takeEdge s.settled) :=
  answers_if rfl ⟨hon, hsettled⟩ rfl

/-- R53: an edge outside LINE_FAULT marks every entry. -/
theorem takeEdge_of_running {s : State} (h : s.li.station ≠ .lineFault) : takeEdge s = markAllPeers s := if_neg h

/-- R54: an edge in LINE_FAULT is kept for the restoration. -/
theorem takeEdge_of_lineFault {s : State} (h : s.li.station = .lineFault) :
    takeEdge s = { s with pt := { s.pt with pendingEdge := true } } := if_pos h

theorem gatewaySet_iff (c : ConfigWords) : c.gatewaySet = true ↔ c.gateway = 1 := beq_iff_eq

theorem writeUplink_of_gateway {s : State} (d : Dir) (v : Word) (h : s.mp.cfg.gateway = 1) :
    writeUplink d v s = { s with pt := { s.pt with
      heldUplink := s.pt.heldUplink.set d (min 16383 v.toNat), staleCount := 0, stale := false } } :=
  if_pos ((gatewaySet_iff _).2 h)

theorem writeUplink_of_other {s : State} (d : Dir) (v : Word) (h : s.mp.cfg.gateway ≠ 1) :
    writeUplink d v s = refuseWrite .notGateway (uplinkAddress d) s :=
  if_neg fun hg => h ((gatewaySet_iff _).1 hg)

/-- Settles O32: an edge marks the table, or waits for the restoration of the line; a gateway holds the uplink words
written to it, another station refuses them. -/
theorem compositionEdgesAndUplinkWrites : Obligations.CompositionEdgesAndUplinkWrites := by
  refine ⟨fun s hon hsettled => ?_, fun d v s hreset hgateway => ?_, fun d v s hreset hother => ?_⟩
  · refine ⟨_, answers_compositionEdge hon hsettled, ?_⟩
    by_cases hfault : s.li.station = .lineFault
    · rw [takeEdge_of_lineFault (s := s.settled) hfault]
      exact ⟨fun hrun => absurd hfault hrun, fun _ => ⟨rfl, rfl⟩, rfl, rfl⟩
    · rw [takeEdge_of_running (s := s.settled) hfault]
      exact ⟨fun _ => ⟨rfl, fun k => slot_markAllPeers _ k⟩, fun h => absurd h hfault, rfl, rfl⟩
  · refine ⟨_, answers_released rfl hreset (writeUplink_of_gateway d v hgateway), ?_, fun d' hd => ?_, rfl⟩
    · simp
    · simp [hd]
  · refine ⟨_, answers_released rfl hreset (writeUplink_of_other d v hother), ?_⟩
    cases d <;> rfl

end Sys2Proof.Machine
end

section
/-! ## Proofs: READ_CLIENT (R112) and READ_PEER (R57) -/

namespace Sys2Proof.Machine

/-! ### Fields of a word -/

theorem testBit_of_place {n k : Nat} {b : Bool} (h : n / 2 ^ k % 2 = bit b) : n.testBit k = b := by
  rw [Nat.testBit_eq_decide_div_mod_eq, h]
  cases b <;> rfl

theorem word_toNat_mod (n : Nat) : (word n).toNat = n % 65536 := BitVec.toNat_ofNat n 16

theorem clientState_code_le (x : ClientState) : x.code ≤ 2 := by cases x <;> decide

theorem tier_code_le (x : Tier) : x.code ≤ 2 := by cases x <;> decide

/-! ### The window -/

/-- The window reads as the words copied into it, and 0 behind them. -/
theorem window_setWindow (o : CommandOutcome) {ws : List Word} (h : ws.length ≤ 16) (s : State) (k : Nat) :
    (endCommand o (setWindow ws s)).mp.window.toList.getD k 0 = ws.getD k 0 := by
  have hlist : (endCommand o (setWindow ws s)).mp.window.toList = (List.range 16).map fun i => ws.getD i 0 := rfl
  rw [hlist]
  by_cases hk : k < 16
  · simp [List.getD_eq_getElem?_getD, hk]
  · rw [List.getD_eq_default _ _ (by simp; omega), List.getD_eq_default _ _ (by omega)]

/-! ### The pages of a client entry (Table 12-3) -/

theorem page0_words (i : Fin Config.clientCount) (e : ClientEntry) :
    let word (k : Nat) : Nat := ((e.page0 i).getD k 0).toNat
    let long (k : Nat) : Nat := word k + 65536 * word (k + 1)
    word 0 % 4 = (match e.state with
      | .free => 0
      | .active => 1
      | .idle => 2) ∧
    word 0 / 4 % 4 = (match e.tier with
      | .standard => 0
      | .premium => 1
      | .operations => 2) ∧
    (word 0).testBit 4 = e.blocked ∧ (word 0).testBit 5 = e.capped ∧
    (word 0).testBit 6 = decide (e.state ≠ .free) ∧ (word 0).testBit 7 = e.selector ∧
    (word 0).testBit 8 = decide (e.allowance = 0) ∧ word 0 < 512 ∧ word 1 = i.val ∧
    word 2 = e.port.toNat + 4096 * e.group.toNat ∧ long 3 = e.attachEpoch.toNat ∧
    word 5 = e.idleCount % 65536 ∧ long 6 + 2 ^ 32 * word 8 = e.volume.toNat ∧
    word 9 = e.allowance.toNat ∧ long 10 = e.dropped % 2 ^ 32 ∧ ∀ k, 12 ≤ k → word k = 0 := by
  intro w long
  have hstate := clientState_code_le e.state
  have htier := tier_code_le e.tier
  have hblocked := bit_le e.blocked
  have hcapped := bit_le e.capped
  have hattached := bit_le (e.state != .free)
  have hselector := bit_le e.selector
  have hoff := bit_le (e.allowance == 0)
  have hw : w 0 = e.state.code + 4 * e.tier.code + 16 * bit e.blocked + 32 * bit e.capped + 64 * bit (e.state != .free) +
      128 * bit e.selector + 256 * bit (e.allowance == 0) := word_toNat (by omega)
  have hne : decide (e.state ≠ .free) = (e.state != .free) := by cases e.state <;> rfl
  have hzero : decide (e.allowance = 0) = (e.allowance == 0) := rfl
  refine ⟨?_, ?_, testBit_of_place (by omega), testBit_of_place (by omega), ?_, testBit_of_place (by omega), ?_, by omega,
    word_toNat (client_lt i), pointWord_toNat _ _, long_parts_of_lt e.attachEpoch.isLt, word_toNat_mod _,
    number40_parts e.volume, rfl, long_parts _, fun k hk => ?_⟩
  · have hcode : w 0 % 4 = e.state.code := by omega
    rw [hcode]
    cases e.state <;> rfl
  · have hcode : w 0 / 4 % 4 = e.tier.code := by omega
    rw [hcode]
    cases e.tier <;> rfl
  · rw [hne]
    exact testBit_of_place (by omega)
  · rw [hzero]
    exact testBit_of_place (by omega)
  · show ((e.page0 i).getD k 0).toNat = 0
    rw [List.getD_eq_default _ _ (by simpa [ClientEntry.page0, words32, words40] using hk)]
    rfl

theorem pageDir_words (d : Dir) (e : ClientEntry) :
    let word (k : Nat) : Nat := ((e.pageDir d).getD k 0).toNat
    let long (k : Nat) : Nat := word k + 65536 * word (k + 1)
    let x := e.dir d
    word 0 = x.grant % 65536 ∧ long 1 = x.committed % 2 ^ 32 ∧ long 3 = x.excess % 2 ^ 32 ∧
    long 5 = x.committedDepth % 2 ^ 32 ∧ long 7 = x.excessDepth % 2 ^ 32 ∧ word 9 = x.estimate % 65536 ∧
    long 10 = e.activeBytes d % 2 ^ 32 ∧ long 12 + 2 ^ 32 * (word 14 % 256) = (e.admitted.get d).toNat ∧
    word 15 + 65536 * (word 14 / 256) = x.refillStamp.toNat := by
  intro w long x
  have hadmitted := (e.admitted.get d).isLt
  have hstamp := x.refillStamp.isLt
  have h14 : w 14 = (e.admitted.get d).toNat / 2 ^ 32 + 256 * (x.refillStamp.toNat / 65536) := word_toNat (by omega)
  have h15 : w 15 = x.refillStamp.toNat % 65536 := by
    show (part x.refillStamp.toNat 0).toNat = _
    rw [part_toNat]
    omega
  have h12 : long 12 = (e.admitted.get d).toNat % 2 ^ 32 := long_parts _
  exact ⟨word_toNat_mod _, long_parts _, long_parts _, long_parts _, long_parts _, word_toNat_mod _, long_parts _, by omega,
    by omega⟩

theorem page0_length_le (i : Fin Config.clientCount) (e : ClientEntry) : (e.page0 i).length ≤ 16 :=
  (by decide : 12 ≤ 16)

theorem pageDir_length (d : Dir) (e : ClientEntry) : (e.pageDir d).length = 16 := rfl

theorem page_dir (i : Fin Config.clientCount) (e : ClientEntry) (d : Dir) {code : Word}
    (h : code = (match d with
      | .up => 1
      | .down => 2)) : e.page i code = some (e.pageDir d) := by
  subst h
  cases d <;> rfl

theorem page_none (i : Fin Config.clientCount) (e : ClientEntry) {code : Word} (h : 2 < code.toNat) :
    e.page i code = none := by
  have hne (k : Word) (hk : k.toNat ≤ 2) : code ≠ k := fun he => by rw [he] at h; omega
  rw [ClientEntry.page, if_neg (hne 0 (by decide)), if_neg (hne 1 (by decide)), if_neg (hne 2 (by decide))]

theorem readClientPage_of_page {s : State} {i : Fin Config.clientCount} {ws : List Word} (hi : s.mp.taken0.toNat = i.val)
    (hpage : (s.client i).page i s.mp.taken1 = some ws) : readClientPage s = endCommand .done (setWindow ws s) := by
  simp only [readClientPage, clientOfArgument_eq hi, hpage]

/-- R108: an index or a page that is none. -/
theorem readClientPage_refuses {s : State} (h : 383 < s.mp.taken0.toNat ∨ 2 < s.mp.taken1.toNat) :
    readClientPage s = endCommand .badArgument s := by
  rw [readClientPage]
  split
  · rfl
  · next i hi =>
    have hpage : (s.client i).page i s.mp.taken1 = none := by
      rcases h with h | h
      · rw [clientOfArgument_none h] at hi
        exact nomatch hi
      · exact page_none i _ h
    simp only [hpage]

/-! ### The words of a peer entry (Table 12-3) -/

theorem figures_words (e : PeerEntry) : ∀ p ∈ ([(4, e.figures.up), (8, e.figures.down)] : List (Nat × Figures)),
    (e.words.getD p.1 0).toNat = p.2.demand % 65536 ∧ (e.words.getD (p.1 + 1) 0).toNat = p.2.weight % 65536 ∧
    (e.words.getD (p.1 + 2) 0).toNat = p.2.reserve % 65536 ∧ (e.words.getD (p.1 + 3) 0).toNat = p.2.uplink % 65536 := by
  intro p hp
  simp only [List.mem_cons, List.not_mem_nil, or_false] at hp
  rcases hp with rfl | rfl
  · exact ⟨word_toNat_mod _, word_toNat_mod _, word_toNat_mod _, word_toNat_mod _⟩
  · exact ⟨word_toNat_mod _, word_toNat_mod _, word_toNat_mod _, word_toNat_mod _⟩

theorem peer_words (e : PeerEntry) :
    let word (k : Nat) : Nat := (e.words.getD k 0).toNat
    (word 0).testBit 0 = true ∧ (word 0).testBit 1 = e.gateway ∧ (word 0).testBit 2 = e.stale ∧
    (word 0).testBit 3 = e.purge ∧ (word 0).testBit 4 = e.inView ∧ word 0 / 32 % 8 = 0 ∧
    word 0 / 256 % 16 = e.set.toNat ∧ word 0 / 4096 = e.cycle.toNat ∧ word 1 = e.station.toNat ∧
    word 2 = e.epochLength % 65536 ∧
    (e.silence < 256 → e.limit < 256 → word 3 % 256 = e.silence ∧ word 3 / 256 = e.limit) ∧
    (∀ p ∈ ([(4, e.figures.up), (8, e.figures.down)] : List (Nat × Figures)),
      word p.1 = p.2.demand % 65536 ∧ word (p.1 + 1) = p.2.weight % 65536 ∧
      word (p.1 + 2) = p.2.reserve % 65536 ∧ word (p.1 + 3) = p.2.uplink % 65536) ∧
    ∀ j, 12 ≤ j → word j = 0 := by
  intro w
  have hgateway := bit_le e.gateway
  have hstale := bit_le e.stale
  have hpurge := bit_le e.purge
  have hview := bit_le e.inView
  have hset := e.set.isLt
  have hcycle := e.cycle.isLt
  have hw : w 0 = 1 + 2 * bit e.gateway + 4 * bit e.stale + 8 * bit e.purge + 16 * bit e.inView + 256 * e.set.toNat +
      4096 * e.cycle.toNat := word_toNat (by omega)
  have hone : bit true = 1 := rfl
  refine ⟨testBit_of_place (by omega), testBit_of_place (by omega), testBit_of_place (by omega), testBit_of_place (by omega),
    testBit_of_place (by omega), by omega, by omega, by omega, rfl, word_toNat_mod _, fun hsilence hlimit => ?_,
    figures_words e, fun j hj => ?_⟩
  · have h3 : w 3 = e.silence + 256 * e.limit := word_toNat (by omega)
    omega
  · show (e.words.getD j 0).toNat = 0
    rw [List.getD_eq_default _ _ (by simpa [PeerEntry.words, Figures.words] using hj)]
    rfl

/-- The words READ_PEER copies for a slot. -/
def State.slotWords (s : State) (k : Fin Config.peerSlots) : List Word :=
  match s.slot k with
  | some e => e.words
  | none => []

theorem slotWords_length (s : State) (k : Fin Config.peerSlots) : (s.slotWords k).length ≤ 16 := by
  rw [State.slotWords]
  split
  · exact Nat.le_of_lt (by simp [PeerEntry.words, Figures.words])
  · exact Nat.zero_le _

theorem slotWords_of_slot {s : State} {k : Fin Config.peerSlots} {e : PeerEntry} (h : s.slot k = some e) :
    s.slotWords k = e.words := by rw [State.slotWords, h]

theorem slotWords_of_empty {s : State} {k : Fin Config.peerSlots} (h : s.slot k = none) : s.slotWords k = [] := by
  rw [State.slotWords, h]

theorem readPeerSlot_of_slot {s : State} {k : Fin Config.peerSlots} (hk : s.mp.taken0.toNat = k.val) :
    readPeerSlot s = endCommand .done (setWindow (s.slotWords k) s) := by
  simp only [readPeerSlot, slotOfArgument_eq hk]
  rfl

theorem readPeerSlot_refuses {s : State} (h : 29 < s.mp.taken0.toNat) : readPeerSlot s = endCommand .badArgument s := by
  simp only [readPeerSlot, slotOfArgument_none h]

/-- Settles O31: the pages of an entry and the words of a slot, read back from the window. -/
theorem readCommandsCopyIntoTheWindow : Obligations.ReadCommandsCopyIntoTheWindow := by
  refine ⟨fun s i hruns hi hpage => ?_, fun s i d hruns hi hpage => ?_, fun s hruns hbad => ?_, fun s k hruns hk => ?_,
    fun s hruns hbad => ?_⟩
  · have hread : (s.client i).page i s.mp.taken1 = some ((s.client i).page0 i) := by rw [hpage]; rfl
    refine ⟨_, answers_if rfl hruns (readClientPage_of_page hi hread), rfl, ?_⟩
    simp only [window_setWindow .done (page0_length_le i _) s]
    exact page0_words i (s.client i)
  · have hread := page_dir i (s.client i) d hpage
    refine ⟨_, answers_if rfl hruns (readClientPage_of_page hi hread), rfl, ?_⟩
    simp only [window_setWindow .done (pageDir_length d _).le s]
    exact pageDir_words d (s.client i)
  · exact ⟨_, answers_if rfl hruns (readClientPage_refuses hbad), endedOnly_endCommand _ s⟩
  · refine ⟨_, answers_if rfl hruns (readPeerSlot_of_slot hk), rfl, ?_⟩
    simp only [window_setWindow .done (slotWords_length s k) s]
    refine ⟨fun hempty j => ?_, fun e he => ?_⟩
    · rw [slotWords_of_empty hempty]
      rfl
    · rw [slotWords_of_slot he]
      exact peer_words e
  · exact ⟨_, answers_if rfl hruns (readPeerSlot_refuses hbad), endedOnly_endCommand _ s⟩

end Sys2Proof.Machine
end

section
/-! ## Proofs: carrier sense and the line monitor (R69, R71, R82, R83, R91, R93) -/

namespace Sys2Proof.Machine

/-! ### Levels one after the other -/

/-- Bit times do not look at the restoration count. -/
theorem LineInterface.bitTimes_setRestoration (line : List LineLevel) (l : LineInterface) (r q : Nat) :
    { line.foldl LineInterface.bitTime { l with restoration := r } with restoration := q } =
      { line.foldl LineInterface.bitTime l with restoration := q } := by
  induction line generalizing l r with
  | nil => rfl
  | cons b rest ih =>
    have hstep : LineInterface.bitTime { l with restoration := r } b =
        { l.bitTime b with restoration := (LineInterface.bitTime { l with restoration := r } b).restoration } := by
      cases b <;> rfl
    rw [List.foldl_cons, List.foldl_cons, hstep, ih]

theorem passLevels_of_due {s : State} (h : s.restorationDue = true) (line : List LineLevel) : s.passLevels line =
    s.setLine { line.foldl LineInterface.bitTime s.li with restoration := s.li.restoration } := by
  simp [State.passLevels, h]

theorem restorationDue_iff (s : State) :
    s.restorationDue = true ↔ s.li.station = .lineFault ∧ s.mp.cfg.epochLength.toNat ≤ s.li.restoration := by
  rw [State.restorationDue, Bool.and_eq_true, beq_iff_eq, decide_eq_true_iff]
  rfl

/-- Levels neither make a restoration due nor take a due one back (log 3). -/
theorem restorationDue_passLevels (line : List LineLevel) (s : State) :
    (s.passLevels line).restorationDue = s.restorationDue := by
  rw [Bool.eq_iff_iff, restorationDue_iff, restorationDue_iff, passLevels_station, passLevels_cfg]
  refine and_congr_right fun hfault => ?_
  cases hdue : s.restorationDue with
  | true => rw [passLevels_of_due hdue]; rfl
  | false =>
    have hnot : ¬ s.mp.cfg.epochLength.toNat ≤ s.li.restoration := fun hr => by
      rw [(restorationDue_iff s).2 ⟨hfault, hr⟩] at hdue
      exact nomatch hdue
    rw [passLevels_of_not_due hdue]
    show s.mp.cfg.epochLength.toNat ≤ (line.foldl LineInterface.bitTime s.li).restoration ↔ _
    rw [LineInterface.bitTimes_restoration]
    split <;> omega

theorem passLevels_append (line more : List LineLevel) (s : State) :
    s.passLevels (line ++ more) = (s.passLevels line).passLevels more := by
  have hdue := restorationDue_passLevels line s
  cases h : s.restorationDue with
  | true =>
    rw [h] at hdue
    rw [passLevels_of_due hdue, passLevels_of_due h, passLevels_of_due h, List.foldl_append]
    simp only [State.setLine, LineInterface.bitTimes_setRestoration]
  | false =>
    rw [h] at hdue
    rw [passLevels_of_not_due hdue, passLevels_of_not_due h, passLevels_of_not_due h, List.foldl_append]
    rfl

theorem passLevels_nil (s : State) : s.passLevels [] = s := by
  cases h : s.restorationDue with
  | true => rw [passLevels_of_due h]; rfl
  | false => rw [passLevels_of_not_due h]; rfl

theorem passLevels_dominant (s : State) : s.passLevels [.dominant] = { s with li := { s.li with
    carrierIdle := false, recessive := 0, busyLength := min 761 (s.li.busyLength + 1)
    runLength := min 4095 (s.li.runLength + 1)
    byteLeft := if s.li.byteLeft ≠ 0 then s.li.byteLeft - 1 else if s.li.afterRecessive = true then 9 else 0
    afterRecessive := false
    restoration := if s.li.station = .lineFault ∧ s.li.restoration < s.mp.cfg.epochLength.toNat then 0
      else s.li.restoration } } := by
  have hbyte : (if s.li.byteLeft ≠ 0 then s.li.byteLeft - 1 else if s.li.afterRecessive = true then 9 else 0) =
      if s.li.byteLeft = 0 then (if s.li.afterRecessive = true then 9 else 0) else s.li.byteLeft - 1 := by
    split <;> simp_all
  rw [hbyte]
  cases hdue : s.restorationDue with
  | true =>
    obtain ⟨-, hreached⟩ := (restorationDue_iff s).1 hdue
    rw [passLevels_of_due hdue, if_neg (by omega : ¬ (s.li.station = .lineFault ∧ _))]
    rfl
  | false =>
    have hrestoration : (if s.li.station = .lineFault ∧ s.li.restoration < s.mp.cfg.epochLength.toNat then 0
        else s.li.restoration) = if s.li.station = .lineFault then 0 else s.li.restoration := by
      have hnot : ¬ (s.li.station = .lineFault ∧ s.mp.cfg.epochLength.toNat ≤ s.li.restoration) := fun h => by
        rw [(restorationDue_iff s).2 h] at hdue
        exact nomatch hdue
      by_cases hfault : s.li.station = .lineFault
      · rw [if_pos hfault, if_pos ⟨hfault, Nat.lt_of_not_le fun h => hnot ⟨hfault, h⟩⟩]
      · rw [if_neg hfault, if_neg fun h => hfault h.1]
    rw [passLevels_of_not_due hdue, hrestoration]
    rfl

theorem passLevels_recessive (s : State) : s.passLevels [.recessive] = { s with li := { s.li with
    recessive := if s.li.byteLeft = 0 then min 16 (s.li.recessive + 1) else s.li.recessive
    busyLength := if s.li.busyLength = 0 then 0 else min 761 (s.li.busyLength + 1)
    runLength := 0, byteLeft := s.li.byteLeft - 1, afterRecessive := true
    readback := s.li.readback && !s.li.carrierIdle } } := by
  cases hdue : s.restorationDue with
  | true => rw [passLevels_of_due hdue]; rfl
  | false => rw [passLevels_of_not_due hdue]; rfl

/-! ### Reports of the carrier sense and breaks (R69, R71, R83) -/

/-- R83: an idle report. -/
theorem LineInterface.reportIdle_spec (l : LineInterface) :
    l.reportIdle.rx = (if l.rx = .off then .off else .ready) ∧ (l.rx ≠ .off → l.reportIdle.rxBytes = []) ∧
    l.reportIdle = { l with
      carrierIdle := true, busyLength := 0, rx := l.reportIdle.rx, rxBytes := l.reportIdle.rxBytes
      rxExpected := l.reportIdle.rxExpected, readback := if l.rx = .off then l.readback else false } := by
  by_cases hoff : l.rx = .off
  · have heq : l.reportIdle = { l with carrierIdle := true, busyLength := 0 } := if_pos hoff
    simp [heq, hoff]
  · have heq : l.reportIdle = LineInterface.waitIdle { l with carrierIdle := true, busyLength := 0 } := if_neg hoff
    simp [heq, hoff, LineInterface.waitIdle]

theorem LineInterface.breakFrame_of_open {l : LineInterface} (h : l.rx = .ready ∨ l.rx = .receiving) :
    l.breakFrame = l.waitIdle := by
  rcases h with h | h <;> simp only [LineInterface.breakFrame, h]

theorem LineInterface.breakFrame_of_shut {l : LineInterface} (h : ¬ (l.rx = .ready ∨ l.rx = .receiving)) :
    l.breakFrame = l := by
  rw [LineInterface.breakFrame]
  split <;> simp_all

/-- R71: a break of the byte level. -/
theorem LineInterface.breakFrame_spec (l : LineInterface) :
    l.breakFrame.rx =
      (if l.rx = .ready ∨ l.rx = .receiving then (if l.carrierIdle = true then .ready else .waitIdle) else l.rx) ∧
    (l.rx = .receiving → l.breakFrame.rxBytes = []) ∧
    l.breakFrame = { l with
      rx := l.breakFrame.rx, rxBytes := l.breakFrame.rxBytes, rxExpected := l.breakFrame.rxExpected
      readback := if l.rx = .ready ∨ l.rx = .receiving then false else l.readback } := by
  by_cases h : l.rx = .ready ∨ l.rx = .receiving
  · rw [LineInterface.breakFrame_of_open h, if_pos h, if_pos h]
    exact ⟨rfl, fun _ => rfl, rfl⟩
  · rw [LineInterface.breakFrame_of_shut h, if_neg h, if_neg h]
    exact ⟨rfl, fun hr => absurd (.inr hr) h, rfl⟩

theorem LineInterface.idleDue_iff (l : LineInterface) : l.idleDue = true ↔ l.recessive = 16 ∧ l.carrierIdle = false := by
  simp [LineInterface.idleDue]

theorem answers_carrierIdle {s : State} (line : List LineLevel) (hon : s.started = true) : Answers (.carrierIdle line) s
    (if (s.passLevels line).li.idleDue = true then (s.passLevels line).setLine (s.passLevels line).li.reportIdle
      else s.passLevels line) := answers_if rfl hon rfl

theorem answers_busyPeriodStart {s : State} (line : List LineLevel) (hon : s.started = true) :
    Answers (.busyPeriodStart line) s
      (if (s.passLevels line).li.busyLength = 0 then (s.passLevels line).passLevels [.dominant] else s.passLevels line) :=
  answers_if rfl hon rfl

/-- The two rows of a break. -/
theorem answers_break {s : State} (line : List LineLevel) (hon : s.started = true) :
    Answers (.framingError line) s (s.setLine (s.passLevels line).li.breakFrame) ∧
    Answers (.busyPeriodLimit line) s (if (s.passLevels line).li.busyLength = 761 then
      s.setLine (s.passLevels line).li.breakFrame else s.passLevels line) :=
  ⟨answers_if rfl hon rfl, answers_if rfl hon rfl⟩

/-- Settles O38: the levels one by one, and what the three reports of the carrier sense make of the receiver. -/
theorem carrierSenseDrivesTheReceiver : Obligations.CarrierSenseDrivesTheReceiver := by
  refine ⟨⟨passLevels_nil, fun line b s => passLevels_append line [b] s, passLevels_dominant, passLevels_recessive⟩,
    fun line s hon => ⟨_, answers_carrierIdle line hon, ?_⟩, fun line s hon => ⟨_, answers_busyPeriodStart line hon, ?_⟩,
    fun line s hon c hc => ?_⟩
  · intro l
    refine ⟨fun hfull hbusy => ?_, fun hno => ?_⟩
    · obtain ⟨hrx, hbytes, heq⟩ := l.reportIdle_spec
      rw [if_pos (l.idleDue_iff.2 ⟨hfull, hbusy⟩)]
      exact ⟨hrx, hbytes, congrArg s.setLine heq⟩
    · refine if_neg fun hdue => ?_
      obtain ⟨hfull, hbusy⟩ := l.idleDue_iff.1 hdue
      rcases hno with hno | hno
      · exact hno hfull
      · rw [hbusy] at hno
        exact nomatch hno
  · refine ⟨fun hzero => ?_, fun hruns => if_neg hruns⟩
    rw [if_pos hzero]
    refine ⟨(passLevels_append line [.dominant] s).symm, ?_, ?_⟩
    · rw [passLevels_dominant]
    · rw [passLevels_dominant, hzero]
      rfl
  · obtain ⟨hframing, hlimit⟩ := answers_break line hon
    obtain ⟨hrx, hbytes, heq⟩ := (s.passLevels line).li.breakFrame_spec
    simp only [List.mem_cons, List.not_mem_nil, or_false] at hc
    rcases hc with rfl | rfl
    · refine ⟨_, hlimit, fun h => ?_, fun _ hno => if_neg hno⟩
      have hreached : (s.passLevels line).li.busyLength = 761 := h.resolve_left (fun he => nomatch he)
      rw [if_pos hreached]
      exact ⟨hrx, hbytes, congrArg s.setLine heq⟩
    · exact ⟨_, hframing, fun _ => ⟨hrx, hbytes, congrArg s.setLine heq⟩, fun h => nomatch h⟩

end Sys2Proof.Machine
end

section
/-! ## Proofs: the transmitter (R85 to R90) and the supervision of the line (R91 to R93) -/

namespace Sys2Proof.Machine

/-! ### Driven levels (R82, R87) -/

theorem drivenFrame_of_sending {s : State} (h : s.li.tx = .sending) :
    s.drivenFrame = s.li.notice.map fun bytes => 0xD5 :: bytes := if_pos h

theorem drivenLevels_of_sending {s : State} (h : s.li.tx = .sending) :
    s.drivenLevels = s.li.notice.map fun bytes => (0xD5 :: bytes).flatMap byteLevels := by
  rw [State.drivenLevels, drivenFrame_of_sending h, Option.map_map]
  rfl

theorem drivenLevels_of_silent {s : State} (h : s.li.tx ≠ .sending) : s.drivenLevels = none := by
  rw [State.drivenLevels, State.drivenFrame, if_neg h, Option.map_none]

/-! ### Attempts (R86 to R90) -/

/-- The line interface as an attempt starts. -/
def LineInterface.startAttempt (l : LineInterface) : LineInterface :=
  { l with tx := .sending, attempts := l.attempts + 1, readback := true }

theorem answers_attemptStart {s : State} (line : List LineLevel) (hon : s.started = true) : Answers (.attemptStart line) s
    (if (s.passLevels line).li.tx = .defer ∧ (s.passLevels line).li.carrierIdle = true then
      s.setLine (s.passLevels line).li.startAttempt else s.passLevels line) := answers_if rfl hon rfl

/-- R78, R90: the notice has ended. -/
theorem LineInterface.endNotice_eq (l : LineInterface) : l.discardNotice.endLeaving = { l with
    tx := .idle, notice := none, attempts := 0
    jitterLeft := l.discardNotice.endLeaving.jitterLeft, backoffSlots := l.discardNotice.endLeaving.backoffSlots
    station := if l.station = .leaving then .silent else l.station } := by
  unfold LineInterface.endLeaving
  by_cases h : l.station = .leaving
  · rw [if_pos (show l.discardNotice.station = .leaving from h), if_pos h]
    rfl
  · rw [if_neg (show ¬ l.discardNotice.station = .leaving from h), if_neg h]
    rfl

theorem failAttempt_of_more {s : State} (h : s.li.attempts ≤ 7) : failAttempt s =
    let r := stepRandom s.li.random
    let slots := r.toNat % 2 ^ min s.li.attempts 5
    s.setLine { s.li with random := r, backoffSlots := slots, tx := if slots = 0 then .defer else .backoff } :=
  if_pos (Nat.lt_succ_of_le h)

theorem failAttempt_of_last {s : State} (h : s.li.attempts = 8) :
    failAttempt s = raise .noticeAbandoned (s.setLine s.li.discardNotice.endLeaving) :=
  if_neg (by omega)

/-- Settles O39: the waits end in DEFER, an attempt drives the frame, and a mismatch draws a backoff or abandons. -/
theorem transmitterSendsOrBacksOff : Obligations.TransmitterSendsOrBacksOff := by
  refine ⟨⟨fun s htx hleft => ⟨_, answers_if rfl ⟨htx, hleft⟩ rfl, rfl⟩, fun line s hon htx hidle => ?_,
    fun line s hon hno => ?_, fun s => drivenLevels_of_silent, fun s htx => ⟨_, answers_if rfl htx rfl, rfl⟩,
    fun s htx => ⟨_, answers_if rfl htx rfl, congrArg s.setLine s.li.endNotice_eq⟩⟩,
    fun s htx hmore => ⟨_, answers_if rfl htx (failAttempt_of_more hmore), rfl, rfl, rfl, rfl⟩,
    fun s htx hlast => ⟨_, answers_if rfl htx (failAttempt_of_last hlast), s.li.endNotice_eq, rfl⟩,
    fun r hr => ⟨rfl, stepRandom_ne_zero hr⟩⟩
  · have hstart := answers_attemptStart line hon
    rw [if_pos ⟨(passLevels_tx line s).trans htx, hidle⟩] at hstart
    refine ⟨_, hstart, ?_, ?_, ?_⟩
    · rw [drivenFrame_of_sending rfl]
      exact congrArg _ (passLevels_notice line s)
    · rw [drivenLevels_of_sending rfl]
      exact congrArg _ (passLevels_notice line s)
    · rw [LineInterface.startAttempt, passLevels_attempts]
      rfl
  · have hstart := answers_attemptStart line hon
    rwa [if_neg fun h => ?_] at hstart
    rw [passLevels_tx] at h
    rcases hno with hno | hno
    · exact hno h.1
    · rw [hno] at h
      exact nomatch h.2

/-! ### Entry to LINE_FAULT and restoration (R91 to R93) -/

theorem rememberedOf_eq (st : Station) : rememberedOf st = if st = .leaving then .silent else st := by
  cases st <;> rfl

theorem answers_stuckLine {s : State} (line : List LineLevel) (hon : s.started = true) : Answers (.stuckLine line) s
    (if 2000 ≤ (s.passLevels line).li.runLength ∧ (s.passLevels line).li.station ≠ .lineFault then
      enterLineFault (s.passLevels line) else s.passLevels line) := answers_if rfl hon rfl

theorem answers_runLengthOverflow {s : State} (line : List LineLevel) (hon : s.started = true) :
    Answers (.runLengthOverflow line) s (if (s.passLevels line).li.runLength = 4095 then
      (s.passLevels line).setLine { (s.passLevels line).li with overflow := true } else s.passLevels line) :=
  answers_if rfl hon rfl

theorem enterLineFault_li (s : State) : (enterLineFault s).li = { s.li with
    station := .lineFault, remembered := if s.li.station = .leaving then .silent else s.li.station
    rx := .off, rxBytes := [], rxExpected := 0, readback := false, tx := .idle, notice := none, attempts := 0
    jitterLeft := 0, backoffSlots := 0, restoration := 0 } := by
  rw [← rememberedOf_eq]
  rfl

theorem enterLineFault_only (s : State) : enterLineFault s = { s with
    li := (enterLineFault s).li, mp := { s.mp with flags := s.mp.flags ||| BitVec.twoPow 16 3 } } := rfl

/-- R54: what the restoration makes of the table. -/
theorem applyPendingEdge_spec (s : State) :
    (applyPendingEdge s).pt.pendingEdge = false ∧
    (∀ k, (applyPendingEdge s).slot k = if s.pt.pendingEdge = true then
        (s.slot k).map fun e => { e with silence := e.limit - 1, purge := true }
      else s.slot k) ∧
    (applyPendingEdge s).pt = { s.pt with slots := (applyPendingEdge s).pt.slots, pendingEdge := false } ∧
    applyPendingEdge s = { s with pt := (applyPendingEdge s).pt } := by
  cases hedge : s.pt.pendingEdge with
  | true =>
    have heq : applyPendingEdge s = markAllPeers { s with pt := { s.pt with pendingEdge := false } } := if_pos hedge
    rw [heq]
    exact ⟨rfl, fun k => slot_markAllPeers _ k, rfl, rfl⟩
  | false =>
    have heq : applyPendingEdge s = s := if_neg (Bool.eq_false_iff.1 hedge)
    rw [heq]
    refine ⟨hedge, fun k => rfl, ?_, rfl⟩
    rw [← hedge]

/-- The line interface restored. -/
def LineInterface.restored (l : LineInterface) : LineInterface :=
  { l.discardNotice.waitIdle with
    station := l.remembered, remembered := .unconfigured, overflow := false, runLength := 0 }

theorem restoreStation_eq (s : State) :
    restoreStation s = raise .lineRestored (applyPendingEdge (s.setLine s.li.restored)) := rfl

/-- Settles O40: a run of 2,000 enters LINE_FAULT, one of 4,095 is marked, and a due restoration gives the remembered
state back with the pending edge applied. -/
theorem lineFaultIsEnteredAndRestored : Obligations.LineFaultIsEnteredAndRestored := by
  refine ⟨⟨fun line s hon => ⟨_, answers_stuckLine line hon, ?_⟩, fun line s hon =>
    ⟨_, answers_runLengthOverflow line hon, fun hfull => ?_, fun hno => if_neg hno⟩⟩, fun s hfault hreached => ?_⟩
  · refine ⟨fun hstuck hrun => ?_, fun hno => if_neg ?_⟩
    · rw [if_pos ⟨hstuck, by rwa [passLevels_station]⟩]
      refine ⟨?_, enterLineFault_only _⟩
      rw [enterLineFault_li, passLevels_station]
    · rw [passLevels_station]
      rcases hno with hno | hno
      · exact fun h => absurd h.1 (by omega)
      · exact fun h => h.2 hno
  · exact if_pos hfull
  · refine ⟨_, answers_if rfl ((restorationDue_iff s).2 ⟨hfault, hreached⟩) (restoreStation_eq s), ?_⟩
    obtain ⟨hedge, hslot, hpt, honly⟩ := applyPendingEdge_spec (s.setLine s.li.restored)
    generalize applyPendingEdge (s.setLine s.li.restored) = u at *
    obtain ⟨pt, rfl⟩ : ∃ pt, u = { s.setLine s.li.restored with pt := pt } := ⟨_, honly⟩
    exact ⟨rfl, hedge, hslot, hpt, rfl⟩

end Sys2Proof.Machine
end

section
/-! ## Proofs: the bytes of a frame (R70, R71) -/

namespace Sys2Proof.Machine

/-! ### A byte at the receiver, state by state -/

namespace LineInterface

variable {l : LineInterface} {b : Byte}

theorem takeByte_of_shut (h : l.rx = .off ∨ l.rx = .waitIdle) : l.takeByte b = l := by
  rcases h with h | h <;> simp only [LineInterface.takeByte, h]

theorem takeByte_of_sync (h : l.rx = .ready) (hown : l.ownFrame = false) (hb : b = 0xD5) :
    l.takeByte b = { l with rx := .receiving, rxBytes := [], rxExpected := 1 } := by
  simp only [LineInterface.takeByte, h]
  exact if_neg (by simp [hown, hb])

theorem takeByte_of_stray (h : l.rx = .ready) (hstray : l.ownFrame = true ∨ b ≠ 0xD5) : l.takeByte b = l.waitIdle := by
  simp only [LineInterface.takeByte, h]
  exact if_pos hstray

theorem takeByte_of_length (h : l.rx = .receiving) (hfirst : l.rxBytes = []) (hlow : 6 ≤ b.toNat) (hhigh : b.toNat ≤ 60) :
    l.takeByte b = { l with rxBytes := [b], rxExpected := b.toNat + 2 } := by
  simp only [LineInterface.takeByte, h, hfirst, List.isEmpty_nil, if_true]
  rw [if_pos ⟨hlow, hhigh⟩]

theorem takeByte_of_badLength (h : l.rx = .receiving) (hfirst : l.rxBytes = []) (hbad : b.toNat < 6 ∨ 60 < b.toNat) :
    l.takeByte b = l.waitIdle := by
  have hnot : ¬ (6 ≤ b.toNat ∧ b.toNat ≤ 60) := by omega
  simp only [LineInterface.takeByte, h, hfirst, List.isEmpty_nil, if_true, if_neg hnot]

theorem takeByte_of_more (h : l.rx = .receiving) (hmore : l.rxBytes ≠ []) :
    l.takeByte b = { l with rxBytes := l.rxBytes ++ [b], rxExpected := l.rxExpected - 1 } := by
  simp only [LineInterface.takeByte, h]
  exact if_neg (by simpa using hmore)

/-- A byte moves the receiver alone. -/
theorem takeByte_eq (b : Byte) (l : LineInterface) : l.takeByte b = { l with
    rx := (l.takeByte b).rx, rxBytes := (l.takeByte b).rxBytes, rxExpected := (l.takeByte b).rxExpected
    readback := (l.takeByte b).readback } := by
  have hwait : l.waitIdle = { l with
      rx := l.waitIdle.rx, rxBytes := l.waitIdle.rxBytes, rxExpected := l.waitIdle.rxExpected
      readback := l.waitIdle.readback } := rfl
  unfold LineInterface.takeByte
  split
  · rfl
  · rfl
  · split
    · exact hwait
    · rfl
  · split
    · split
      · rfl
      · exact hwait
    · rfl

end LineInterface

/-- R70: the first byte belongs to the own frame. -/
theorem ownFrame_iff (l : LineInterface) : l.ownFrame = true ↔ l.readback = true ∨ l.tx = .sending := by
  simp [LineInterface.ownFrame]

/-- R70, log 20: the readback marker behind the levels. -/
theorem passLevels_readback_iff (line : List LineLevel) (s : State) : (s.passLevels line).li.readback = true ↔
    s.li.readback = true ∧ ¬ (s.li.carrierIdle = true ∧ line.head? = some .recessive) := by
  rw [passLevels_readback, Bool.and_eq_true, Bool.not_eq_true', Bool.and_eq_false_iff]
  refine and_congr_right fun _ => ?_
  rw [not_and_or, Bool.not_eq_true]
  simp

theorem answers_lineByteReceived {b : Byte} {s : State} (line : List LineLevel) (hon : s.started = true)
    (hmore : s.li.expectsCheck = false) :
    Answers (.lineByteReceived b line) s (s.setLine ((s.passLevels line).li.takeByte b)) :=
  answers_if rfl hon (if_neg (by rw [passLevels_expectsCheck, hmore]; exact Bool.false_ne_true))

/-- Settles O37: sync byte, length byte and the bytes behind it; every other first byte makes the receiver wait. -/
theorem bytesBuildTheFrame : Obligations.BytesBuildTheFrame := by
  intro b line s hon hmore
  refine ⟨_, answers_lineByteReceived line hon hmore, ?_⟩
  have hreadback := passLevels_readback_iff line s
  have hrx := passLevels_rx line s
  have hbytes := passLevels_rxBytes line s
  have hexpected := passLevels_rxExpected line s
  have htx := passLevels_tx line s
  generalize (s.passLevels line).li = l at *
  intro l' waiting readback
  refine ⟨hreadback, fun h => ?_, fun h hnone hidle hb => ?_, fun h hstray => ?_, fun h hfirst hlow hhigh => ?_,
    fun h hfirst hbad => ?_, fun h hrest => ?_, congrArg s.setLine (l.takeByte_eq b)⟩
  · exact LineInterface.takeByte_of_shut (hrx ▸ h)
  · have hnotback : l.readback = false := Bool.eq_false_iff.2 fun hl => hnone (hreadback.1 hl)
    have hown : l.ownFrame = false := Bool.eq_false_iff.2 fun hl => by
      rw [ownFrame_iff, hnotback, htx] at hl
      exact hl.elim (fun hf => nomatch hf) hidle
    have hli := LineInterface.takeByte_of_sync (hrx.trans h) hown hb
    exact ⟨by rw [State.setLine, hli], by rw [State.setLine, hli], by rw [State.setLine, hli]; exact hnotback⟩
  · have hstray' : l.ownFrame = true ∨ b ≠ 0xD5 := by
      rw [ownFrame_iff, htx, hreadback, or_assoc]
      exact hstray
    have hli := LineInterface.takeByte_of_stray (hrx.trans h) hstray'
    exact ⟨by rw [State.setLine, hli]; rfl, by rw [State.setLine, hli]; rfl, by rw [State.setLine, hli]; rfl⟩
  · have hli := LineInterface.takeByte_of_length (hrx.trans h) (hbytes.trans hfirst) hlow hhigh
    exact ⟨by rw [State.setLine, hli]; exact hrx.trans h, by rw [State.setLine, hli], by rw [State.setLine, hli],
      by rw [State.setLine, hli]⟩
  · have hli := LineInterface.takeByte_of_badLength (hrx.trans h) (hbytes.trans hfirst) hbad
    exact ⟨by rw [State.setLine, hli]; rfl, by rw [State.setLine, hli]; rfl, by rw [State.setLine, hli]; rfl⟩
  · have hli := LineInterface.takeByte_of_more (b := b) (hrx.trans h) (hbytes ▸ hrest)
    exact ⟨by rw [State.setLine, hli]; exact hrx.trans h, by rw [State.setLine, hli, hbytes],
      by rw [State.setLine, hli, hexpected], by rw [State.setLine, hli]⟩

end Sys2Proof.Machine
end

section
/-! ## Proofs: the judgement of a received frame (R60 to R63, R71, R72, R74, R81) -/

namespace Sys2Proof.Machine

/-! ### The check (R63) -/

/-- A byte enters at the upper eight bits. -/
theorem append_zero_eq_shiftLeft (b : Byte) : b ++ (0 : Byte) = b.setWidth 16 <<< 8 := by
  refine BitVec.eq_of_getLsbD_eq fun i hi => ?_
  rw [BitVec.getLsbD_append, BitVec.getLsbD_shiftLeft, BitVec.getLsbD_setWidth]
  by_cases hlow : i < 8
  · simp [hlow]
  · have htop : i - 8 < 16 := by omega
    simp [hlow, hi, htop]

theorem crc_append (body : List Byte) (b : Byte) : crc (body ++ [b]) =
    (List.range 8).foldl (fun r _ => crcShift r) (crc body ^^^ (b.setWidth 16 <<< 8)) := by
  rw [crc, List.foldl_append, ← append_zero_eq_shiftLeft]
  rfl

/-! ### Words of two bytes -/

theorem ofBytes_toNat (low high : Byte) : (ofBytes low high).toNat = low.toNat + 256 * high.toNat := by
  have hlow := low.isLt
  rw [ofBytes, BitVec.toNat_append, Nat.shiftLeft_eq_mul_pow, Nat.mul_comm, ← Nat.two_pow_add_eq_or_of_lt hlow]
  omega

theorem ofBytes_eq_ofNat (low high : Byte) : ofBytes low high = BitVec.ofNat 16 (low.toNat + 256 * high.toNat) := by
  rw [← ofBytes_toNat, BitVec.ofNat_toNat, BitVec.setWidth_eq]

theorem highNibble_eq (b : Byte) : b.extractLsb' 4 4 = BitVec.ofNat 4 (b.toNat / 16) := by
  refine BitVec.eq_of_toNat_eq ?_
  rw [BitVec.extractLsb'_toNat, BitVec.toNat_ofNat, Nat.shiftRight_eq_div_pow]

theorem lowNibble_eq (b : Byte) : b.extractLsb' 0 4 = BitVec.ofNat 4 b.toNat := by
  refine BitVec.eq_of_toNat_eq ?_
  rw [BitVec.extractLsb'_toNat, BitVec.toNat_ofNat, Nat.shiftRight_zero]

/-! ### A valid body (R60 to R62) -/

/-- R61: the reserved station ids. -/
theorem station_valid_iff (low high : Byte) : ¬ (ofBytes low high = 0 ∨ ofBytes low high = 0xFFFF) ↔
    1 ≤ low.toNat + 256 * high.toNat ∧ low.toNat + 256 * high.toNat ≤ 65534 := by
  have hzero : (0 : Word).toNat = 0 := rfl
  have htop : (0xFFFF : Word).toNat = 65535 := rfl
  have hlow := low.isLt
  have hhigh := high.isLt
  rw [← BitVec.toNat_inj, ← BitVec.toNat_inj, ofBytes_toNat, hzero, htop]
  omega

theorem judgeFrame_eq (length idLow idHigh setCycle flags epoch : Byte) (list : List Byte) (check : Word) :
    judgeFrame (length :: idLow :: idHigh :: setCycle :: flags :: epoch :: list) check =
      if crc (length :: idLow :: idHigh :: setCycle :: flags :: epoch :: list) ≠ check then none
      else if ofBytes idLow idHigh = 0 ∨ ofBytes idLow idHigh = 0xFFFF then none
      else if epoch.toNat < 5 ∨ 100 < epoch.toNat then none
      else (walkItems .up ⟨Figures.zero, Figures.zero⟩ list).map fun f =>
        { station := ofBytes idLow idHigh, set := setCycle.extractLsb' 4 4, cycle := setCycle.extractLsb' 0 4
          epochLength := 10 * epoch.toNat, gateway := flags.getLsbD 0, leaving := flags.getLsbD 1
          stale := flags.getLsbD 2, figures := f } := by
  rw [judgeFrame]
  simp only [bne_iff_ne]
  congr
  cases walkItems .up ⟨Figures.zero, Figures.zero⟩ list <;> rfl

theorem judgeFrame_iff (length idLow idHigh setCycle flags epoch : Byte) (list : List Byte) (check : Word) (n : Notice) :
    judgeFrame ([length, idLow, idHigh, setCycle, flags, epoch] ++ list) check = some n ↔
      check = crc ([length, idLow, idHigh, setCycle, flags, epoch] ++ list) ∧
      1 ≤ idLow.toNat + 256 * idHigh.toNat ∧ idLow.toNat + 256 * idHigh.toNat ≤ 65534 ∧
      5 ≤ epoch.toNat ∧ epoch.toNat ≤ 100 ∧
      ∃ items, list = items.flatMap ListItem.bytes ++ [0x00] ∧
        n = { station := BitVec.ofNat 16 (idLow.toNat + 256 * idHigh.toNat), set := BitVec.ofNat 4 (setCycle.toNat / 16)
              cycle := BitVec.ofNat 4 setCycle.toNat, epochLength := 10 * epoch.toNat, gateway := flags.getLsbD 0
              leaving := flags.getLsbD 1, stale := flags.getLsbD 2
              figures := ⟨listedFigures items .up, listedFigures items .down⟩ } := by
  have hstation := station_valid_iff idLow idHigh
  simp only [List.cons_append, List.nil_append]
  rw [judgeFrame_eq]
  constructor
  · intro h
    split at h
    · exact nomatch h
    · next hcrc =>
      split at h
      · exact nomatch h
      · next hid =>
        split at h
        · exact nomatch h
        · next hepoch =>
          obtain ⟨g, hwalk, rfl⟩ := Option.map_eq_some_iff.1 h
          obtain ⟨items, hlist, rfl⟩ := (walkItems_iff list g).1 hwalk
          obtain ⟨hlow, hhigh⟩ := hstation.1 hid
          refine ⟨(not_not.1 hcrc).symm, hlow, hhigh, by omega, by omega, items, hlist, ?_⟩
          rw [ofBytes_eq_ofNat, highNibble_eq, lowNibble_eq]
  · rintro ⟨hcrc, hlow, hhigh, hshort, hlong, items, hlist, rfl⟩
    rw [if_neg (not_not.2 hcrc.symm), if_neg (hstation.2 ⟨hlow, hhigh⟩), if_neg (by omega),
      (walkItems_iff list _).2 ⟨items, hlist, rfl⟩, Option.map_some, ofBytes_eq_ofNat, highNibble_eq, lowNibble_eq]

/-! ### Discarded lists (R72) -/

theorem judgeFrame_of_invalidTail {header : List Byte} (hlength : header.length = 6) (items : List ListItem) {tail : List Byte}
    (check : Word) (h : ∀ ctx f, walkItems ctx f tail = none) :
    judgeFrame (header ++ items.flatMap ListItem.bytes ++ tail) check = none := by
  match header, hlength with
  | [length, idLow, idHigh, setCycle, flags, epoch], _ =>
    simp only [List.cons_append, List.nil_append]
    rw [judgeFrame_eq, walkItems_items, h, Option.map_none, ite_self, ite_self, ite_self]

theorem walkItems_unknown {code : Byte} (h : 4 < code.toNat) (rest : List Byte) (ctx : Dir) (f : PerDir Figures) :
    walkItems ctx f (code :: rest) = none := by
  have hne (k : Byte) (hk : k.toNat ≤ 4) : code ≠ k := fun he => by rw [he] at h; omega
  rw [walkItems.eq_def]
  simp only
  rw [if_neg (hne 0 (by decide)), if_neg (hne 1 (by decide)), if_neg (hne 2 (by decide)),
    if_neg (hne 3 (by decide)), if_neg (hne 4 (by decide))]

theorem walkItems_cutDir (ctx : Dir) (f : PerDir Figures) : walkItems ctx f [0x01] = none := by simp [walkItems]

theorem walkItems_cutLoad {rest : List Byte} (h : rest.length < 4) (ctx : Dir) (f : PerDir Figures) :
    walkItems ctx f (0x02 :: rest) = none := by
  match rest, h with
  | [], _ => simp [walkItems]
  | [a], _ => simp [walkItems]
  | [a, b], _ => simp [walkItems]
  | [a, b, c], _ => simp [walkItems]

theorem walkItems_cutReserve {rest : List Byte} (h : rest.length < 2) (ctx : Dir) (f : PerDir Figures) :
    walkItems ctx f (0x03 :: rest) = none := by
  match rest, h with
  | [], _ => simp [walkItems]
  | [a], _ => simp [walkItems]

theorem walkItems_cutUplink {rest : List Byte} (h : rest.length < 2) (ctx : Dir) (f : PerDir Figures) :
    walkItems ctx f (0x04 :: rest) = none := by
  match rest, h with
  | [], _ => simp [walkItems]
  | [a], _ => simp [walkItems]

theorem walkItems_badDir {dir : Byte} (h : 1 < dir.toNat) (rest : List Byte) (ctx : Dir) (f : PerDir Figures) :
    walkItems ctx f (0x01 :: dir :: rest) = none := by
  have hne (k : Byte) (hk : k.toNat ≤ 1) : dir ≠ k := fun he => by rw [he] at h; omega
  have hup : dir ≠ 0#8 := hne 0 (by decide)
  have hdown : dir ≠ 1#8 := hne 1 (by decide)
  simp [walkItems, hup, hdown]

theorem walkItems_early {rest : List Byte} (h : rest ≠ []) (ctx : Dir) (f : PerDir Figures) :
    walkItems ctx f (0x00 :: rest) = none := by
  rw [walkItems.eq_def]
  simp [h]

/-! ### The delivery of a valid frame (R74, R81) -/

theorem viewChange_setLine (station : Word) (set : BitVec 4) (change : ViewChange) (l : LineInterface) (s : State) :
    viewChange station set change (s.setLine l) = (viewChange station set change s).setLine l := by
  have halike : ReadsAlike True (raise .viewChanged s) ((raise .viewChanged s).setLine l) :=
    ⟨rfl, rfl, rfl, rfl, rfl, fun _ => rfl⟩
  have hoffer (r : Record) : offerRecord r ((raise .viewChanged s).setLine l) =
      (offerRecord r (raise .viewChanged s)).setLine l := by
    rw [offerRecord_of_alike halike, offerRecord_of_alike (.refl (raise .viewChanged s))]
    rfl
  unfold viewChange
  by_cases hrecords : (raise .viewChanged s).mp.cfg.viewRecords = true
  · rw [if_pos hrecords, ← hoffer]
    exact if_pos hrecords
  · rw [if_neg hrecords]
    exact if_neg hrecords

theorem setLine_ite {p : Prop} [Decidable p] (l : LineInterface) {a b c d : State} (h : a = c.setLine l) (k : b = d.setLine l) :
    (if p then a else b) = (if p then c else d).setLine l := by
  split
  · exact h
  · exact k

theorem removePeer_setLine (k : Fin Config.peerSlots) (change : ViewChange) (l : LineInterface) (s : State) :
    removePeer k change (s.setLine l) = (removePeer k change s).setLine l := by
  have hslot : (s.setLine l).slot k = s.slot k := rfl
  rw [removePeer, removePeer, hslot]
  split
  · rfl
  · exact setLine_ite l (viewChange_setLine _ _ _ l (s.setSlot k none)) rfl

theorem storePeer_setLine (k : Fin Config.peerSlots) (n : Notice) (l : LineInterface) (s : State) :
    storePeer k n (s.setLine l) = (storePeer k n s).setLine l :=
  setLine_ite l (viewChange_setLine _ _ _ l (s.setSlot k (some (s.mp.cfg.entryOf n)))) rfl

theorem updatePeer_setLine (k : Fin Config.peerSlots) (e : PeerEntry) (n : Notice) (l : LineInterface) (s : State) :
    updatePeer k e n (s.setLine l) = (updatePeer k e n s).setLine l :=
  setLine_ite l (viewChange_setLine _ _ _ l (s.setSlot k (some (s.mp.cfg.entryOf n))))
    (setLine_ite l (viewChange_setLine _ _ _ l (s.setSlot k (some (s.mp.cfg.entryOf n)))) rfl)

theorem newPeer_setLine (n : Notice) (l : LineInterface) (s : State) :
    newPeer n (s.setLine l) = (newPeer n s).setLine l := by
  have hempty : (s.setLine l).emptySlot = s.emptySlot := rfl
  have hvictim : (s.setLine l).victim = s.victim := rfl
  rw [newPeer, newPeer, hempty, hvictim]
  split
  · exact storePeer_setLine _ n l s
  · split
    · rw [removePeer_setLine, storePeer_setLine]
    · rfl

/-- The peer table does not look at the line interface. -/
theorem takeNotice_setLine (n : Notice) (l : LineInterface) (s : State) :
    takeNotice n (s.setLine l) = (takeNotice n s).setLine l := by
  have hfind : (s.setLine l).findPeer n.station = s.findPeer n.station := rfl
  have hslot (k : Fin Config.peerSlots) : (s.setLine l).slot k = s.slot k := rfl
  rw [takeNotice, takeNotice, hfind]
  split
  · next k _ =>
    refine setLine_ite l (removePeer_setLine k .left l s) ?_
    rw [hslot]
    split
    · exact setLine_ite l rfl (updatePeer_setLine k _ n l s)
    · rfl
  · exact setLine_ite l rfl (newPeer_setLine n l s)

/-- R81: what an ID conflict makes of the line interface in a station state. -/
def LineInterface.conflicted (l : LineInterface) : Station → LineInterface
  | .listening | .active | .leaving => { l.discardNotice with station := .silent, conflict := true }
  | .silent | .unconfigured | .lineFault => { l with conflict := true }

theorem idConflict_eq (s : State) : idConflict s = { s with
    li := s.li.conflicted s.li.station, mp := { s.mp with flags := s.mp.flags ||| BitVec.twoPow 16 2 } } := by
  have hli : (idConflict s).li = s.li.conflicted s.li.station := by
    unfold idConflict
    generalize s.li.station = st
    cases st <;> rfl
  have honly : idConflict s =
      { s with li := (idConflict s).li, mp := { s.mp with flags := s.mp.flags ||| BitVec.twoPow 16 2 } } := rfl
  rw [honly, hli]

theorem conflicted_of_sending {st : Station} (h : st = .listening ∨ st = .active ∨ st = .leaving) (l : LineInterface) :
    l.conflicted st = { l.discardNotice with station := .silent, conflict := true } := by
  rcases h with rfl | rfl | rfl <;> rfl

theorem deliverNotice_of_own {n : Notice} {s : State} (h : n.station = s.mp.cfg.stationId) :
    deliverNotice n s = idConflict s := if_pos h

/-- R71: a frame that is not valid is discarded. -/
theorem judgeReceived_discards {check : Byte} {s : State}
    (h : judgeFrame s.li.rxBytes.dropLast (ofBytes (s.li.rxBytes.getLastD 0) check) = none) :
    judgeReceived check s = s.setLine s.li.waitIdle := by
  simp only [judgeReceived, h]

theorem judgeReceived_delivers {check : Byte} {s : State} {n : Notice}
    (h : judgeFrame s.li.rxBytes.dropLast (ofBytes (s.li.rxBytes.getLastD 0) check) = some n) :
    judgeReceived check s = deliverNotice n (s.setLine s.li.waitIdle) := by
  simp only [judgeReceived, h]

theorem answers_frameReceived {check : Byte} {s : State} (line : List LineLevel) (hon : s.started = true)
    (hcheck : s.li.expectsCheck = true) :
    Answers (.frameReceived check line) s (judgeReceived check (s.passLevels line)) ∧
    Answers (.lineByteReceived check line) s (judgeReceived check (s.passLevels line)) := by
  have hexpects : (s.passLevels line).li.expectsCheck = true := by rw [passLevels_expectsCheck, hcheck]
  exact ⟨answers_if rfl hon (if_pos hexpects), answers_if rfl hon (if_pos hexpects)⟩

/-- R63: the check of the example body. -/
theorem crc_example : crc [0x31, 0x32, 0x33, 0x34, 0x35, 0x36, 0x37, 0x38, 0x39] = 0x29B1 := by decide +kernel

/-- What becomes of the part with the check byte, frame by frame. -/
theorem judgeReceived_spec (check : Byte) (line : List LineLevel) (s : State) :
    let t := judgeReceived check (s.passLevels line)
    let frame := judgeFrame s.li.rxBytes.dropLast (ofBytes (s.li.rxBytes.getLastD 0) check)
    let waiting := (s.passLevels line).li.waitIdle
    (frame = none → t = s.setLine waiting) ∧
    (∀ n, frame = some n → n.station ≠ s.mp.cfg.stationId → t = (takeNotice n.clamp s).setLine waiting) ∧
    (∀ n, frame = some n → n.station = s.mp.cfg.stationId → t = { s with
      li := waiting.conflicted s.li.station, mp := { s.mp with flags := s.mp.flags ||| BitVec.twoPow 16 2 } }) := by
  have hbytes := passLevels_rxBytes line s
  refine ⟨fun hnone => ?_, fun n hn hother => ?_, fun n hn hown => ?_⟩
  · exact judgeReceived_discards (by rw [hbytes]; exact hnone)
  · have hdelivered := deliverNotice_of_other (s := s.setLine (s.passLevels line).li.waitIdle) hother
    rw [takeNotice_setLine] at hdelivered
    exact (judgeReceived_delivers (by rw [hbytes]; exact hn)).trans hdelivered
  · have hstation : (s.passLevels line).li.waitIdle.station = s.li.station := passLevels_station line s
    have hdelivered := deliverNotice_of_own (s := s.setLine (s.passLevels line).li.waitIdle) hown
    rw [idConflict_eq] at hdelivered
    rw [← hstation]
    exact (judgeReceived_delivers (by rw [hbytes]; exact hn)).trans hdelivered

/-- Settles O36: the check byte's effect, the check, the frames that are valid and the lists that are discarded. -/
theorem frameIsJudgedAtItsLastByte : Obligations.FrameIsJudgedAtItsLastByte := by
  refine ⟨fun check line s hon hcheck => ?_, ⟨rfl, crc_append, crc_example⟩, judgeFrame_iff,
    fun header rest check items hlength => ?_⟩
  · obtain ⟨hframe, hbyte⟩ := answers_frameReceived (check := check) line hon hcheck
    refine ⟨_, hframe, hbyte, ?_⟩
    obtain ⟨hdiscard, hother, hown⟩ := judgeReceived_spec check line s
    have hstation := passLevels_station line s
    generalize judgeReceived check (s.passLevels line) = t at *
    generalize (s.passLevels line).li = l at *
    refine ⟨fun hnone => ?_, fun n hn hne => ?_, fun n hn heq => ?_⟩
    · rw [hdiscard hnone]
      rfl
    · rw [hother n hn hne]
      rfl
    · obtain rfl := hown n hn heq
      refine ⟨rfl, fun hsends => ?_, fun hsilent => ?_⟩
      · simp only [conflicted_of_sending hsends]
        rfl
      · simp only [hsilent]
        rfl
  · have hdiscards {tail : List Byte} (h : ∀ ctx f, walkItems ctx f tail = none) :
        judgeFrame (header ++ items.flatMap ListItem.bytes ++ tail) check = none :=
      judgeFrame_of_invalidTail hlength items check h
    exact ⟨fun code hcode => hdiscards (walkItems_unknown hcode rest),
      ⟨hdiscards walkItems_cutDir, fun h => hdiscards (walkItems_cutLoad h),
        fun h => ⟨hdiscards (walkItems_cutReserve h), hdiscards (walkItems_cutUplink h)⟩⟩,
      fun dir hdir => hdiscards (walkItems_badDir hdir rest), hdiscards fun _ _ => rfl,
      fun h => hdiscards (walkItems_early h)⟩

end Sys2Proof.Machine
end

section
/-! ## Proofs: own notices read back (R60 to R63, R66, R68) -/

namespace Sys2Proof.Machine

/-! ### Body and check -/

theorem finishNotice_eq (counted : List Byte) : finishNotice counted =
    (BitVec.ofNat 8 counted.length :: counted) ++ wordBytes (crc (BitVec.ofNat 8 counted.length :: counted)) := rfl

/-- The bytes of a frame, taken apart into body and check. -/
theorem judge_body_and_check (body : List Byte) (check : Word) :
    let bytes := body ++ wordBytes check
    judgeFrame (bytes.take (bytes.length - 2))
        (ofBytes (bytes.getD (bytes.length - 2) 0) (bytes.getD (bytes.length - 1) 0)) = judgeFrame body check := by
  intro bytes
  have hlength : bytes.length = body.length + 2 := by simp [bytes, wordBytes]
  have hbody : bytes.take (bytes.length - 2) = body := by
    rw [hlength, Nat.add_sub_cancel]
    exact List.take_left' rfl
  have hlow : bytes.getD (bytes.length - 2) 0 = lowByte check := by
    rw [hlength, Nat.add_sub_cancel]
    simp [bytes, wordBytes, List.getD_eq_getElem?_getD]
  have hhigh : bytes.getD (bytes.length - 1) 0 = highByte check := by
    rw [hlength]
    simp [bytes, wordBytes, List.getD_eq_getElem?_getD]
  rw [hbody, hlow, hhigh, ofBytes_wordBytes]

/-! ### The header -/

/-- What START's checks say of the words a header holds. -/
theorem header_words_valid {c : ConfigWords} (h : c.firstInvalid = none) :
    1 ≤ c.stationId.toNat ∧ c.stationId.toNat ≤ 65534 ∧ c.setId.toNat ≤ 15 ∧
    50 ≤ c.epochLength.toNat ∧ c.epochLength.toNat ≤ 1000 ∧ c.epochLength.toNat % 10 = 0 := by
  have hall : ∀ p ∈ c.checks, p.2 = true := by simpa [ConfigWords.firstInvalid] using h
  have hstation := hall (1, inRange 1 65534 c.stationId) (by simp [ConfigWords.checks])
  have hset := hall (2, inRange 0 15 c.setId) (by simp [ConfigWords.checks])
  have hepoch := hall (5, inRange 50 1000 c.epochLength && c.epochLength.toNat % 10 == 0) (by simp [ConfigWords.checks])
  simp only [inRange_iff, Bool.and_eq_true, beq_iff_eq] at hstation hset hepoch
  omega

theorem byte_toNat {n : Nat} (h : n < 256) : (BitVec.ofNat 8 n).toNat = n := by
  rw [BitVec.toNat_ofNat, Nat.mod_eq_of_lt h]

theorem wordBytes_toNat (w : Word) : (lowByte w).toNat + 256 * (highByte w).toNat = w.toNat := by
  rw [← ofBytes_toNat, ofBytes_wordBytes]

/-- The flags byte of a header. -/
theorem flagsByte_bits (gateway leaving stale : Bool) :
    let b : Byte := BitVec.ofNat 8 (bit gateway + 2 * bit leaving + 4 * bit stale)
    b.getLsbD 0 = gateway ∧ b.getLsbD 1 = leaving ∧ b.getLsbD 2 = stale := by
  cases gateway <;> cases leaving <;> cases stale <;> decide

/-- A header with an item list behind it, judged with its own check. -/
theorem judge_ownHeader {s : State} (h : s.mp.cfg.firstInvalid = none) (leaving stale : Bool) (items : List ListItem)
    (length : Byte) :
    let body := length :: (s.noticeHeader leaving stale ++ items.flatMap ListItem.bytes ++ [0x00])
    judgeFrame body (crc body) = some
      { station := s.mp.cfg.stationId, set := BitVec.ofNat 4 s.mp.cfg.setId.toNat, cycle := s.li.cycle
        epochLength := s.mp.cfg.epochLength.toNat, gateway := s.mp.cfg.gateway == 1, leaving := leaving, stale := stale
        figures := ⟨listedFigures items .up, listedFigures items .down⟩ } := by
  intro body
  obtain ⟨hlow, hhigh, hset, hshort, hlong, htens⟩ := header_words_valid h
  obtain ⟨hgateway, hleaving, hstale⟩ := flagsByte_bits s.mp.cfg.gatewaySet leaving stale
  have hcycle := s.li.cycle.isLt
  have hepoch : s.mp.cfg.epoch = s.mp.cfg.epochLength.toNat := rfl
  have hid : BitVec.ofNat 16 s.mp.cfg.stationId.toNat = s.mp.cfg.stationId := by
    rw [BitVec.ofNat_toNat, BitVec.setWidth_eq]
  have hsetByte : (BitVec.ofNat 8 (16 * s.mp.cfg.setId.toNat + s.li.cycle.toNat)).toNat =
      16 * s.mp.cfg.setId.toNat + s.li.cycle.toNat := byte_toNat (by omega)
  have hepochByte : (BitVec.ofNat 8 (s.mp.cfg.epoch / 10)).toNat = s.mp.cfg.epoch / 10 := byte_toNat (by omega)
  have hhigh4 : (16 * s.mp.cfg.setId.toNat + s.li.cycle.toNat) / 16 = s.mp.cfg.setId.toNat := by omega
  have hlow4 : BitVec.ofNat 4 (16 * s.mp.cfg.setId.toNat + s.li.cycle.toNat) = s.li.cycle := by
    refine BitVec.eq_of_toNat_eq ?_
    rw [BitVec.toNat_ofNat]
    omega
  refine (judgeFrame_iff _ _ _ _ _ _ _ _ _).2 ⟨rfl, ?_, ?_, ?_, ?_, items, rfl, ?_⟩
  · rw [wordBytes_toNat]; exact hlow
  · rw [wordBytes_toNat]; exact hhigh
  · rw [hepochByte]; omega
  · rw [hepochByte]; omega
  · rw [wordBytes_toNat, hid, hsetByte, hepochByte, hhigh4, hlow4, hgateway, hleaving, hstale, hepoch,
      Nat.mul_div_cancel' (Nat.dvd_of_mod_eq_zero htens)]
    rfl

/-! ### The items (R66) -/

/-- The items of a direction behind its DIR item. -/
def State.figureItems (s : State) (d : Dir) : List ListItem :=
  .load (word (s.shareDir d).ownDemand) (word (s.shareDir d).ownWeight) ::
    ((if (s.shareDir d).ownReserve = 0 then [] else [.reserve (word (s.shareDir d).ownReserve)]) ++
      (if s.mp.cfg.gatewaySet = true then [.uplink (word (s.uplinkInForce d))] else []))

/-- The items of a regular notice. -/
def State.ownItems (s : State) : List ListItem :=
  (.dir .up :: s.figureItems .up) ++ (.dir .down :: s.figureItems .down)

theorem noticeItems_eq (s : State) (d : Dir) :
    s.noticeItems d = ((.dir d : ListItem) :: s.figureItems d).flatMap ListItem.bytes := by
  unfold State.noticeItems State.figureItems
  by_cases hreserve : (s.shareDir d).ownReserve = 0 <;> by_cases hgateway : s.mp.cfg.gatewaySet = true <;>
    cases d <;> simp [hreserve, hgateway, ListItem.bytes]

theorem noticeItems_both (s : State) : s.noticeItems .up ++ s.noticeItems .down = s.ownItems.flatMap ListItem.bytes := by
  rw [noticeItems_eq, noticeItems_eq, State.ownItems, List.flatMap_append]

/-- An item that is no DIR item. -/
def ListItem.isFigure : ListItem → Bool
  | .dir _ => false
  | _ => true

theorem itemsOf_figures (d ctx : Dir) {its : List ListItem} (h : ∀ x ∈ its, x.isFigure = true) (rest : List ListItem) :
    itemsOf d ctx (its ++ rest) = (if ctx = d then its else []) ++ itemsOf d ctx rest := by
  induction its with
  | nil => simp
  | cons item more ih =>
    obtain ⟨hitem, hmore⟩ := List.forall_mem_cons.1 h
    have hcons : itemsOf d ctx (item :: (more ++ rest)) =
        if ctx = d then item :: itemsOf d ctx (more ++ rest) else itemsOf d ctx (more ++ rest) := by
      cases item with
      | dir _ => exact nomatch hitem
      | load _ _ | reserve _ | uplink _ => rfl
    rw [List.cons_append, hcons, ih hmore]
    split <;> rfl

theorem figureItems_isFigure (s : State) (d : Dir) : ∀ x ∈ s.figureItems d, x.isFigure = true := by
  unfold State.figureItems
  split <;> split <;> simp [ListItem.isFigure]

theorem itemsOf_ownItems (s : State) (d : Dir) : itemsOf d .up s.ownItems = s.figureItems d := by
  have hdown : itemsOf d .down (s.figureItems .down) = if Dir.down = d then s.figureItems .down else [] := by
    have hall := itemsOf_figures d .down (figureItems_isFigure s .down) []
    rw [List.append_nil] at hall
    rw [hall]
    exact List.append_nil _
  rw [State.ownItems, List.cons_append, itemsOf, itemsOf_figures d .up (figureItems_isFigure s .up), itemsOf, hdown]
  cases d <;> simp

/-- R66: the listed figures are the own figures. -/
theorem listedFigures_ownItems {s : State} {d : Dir} (hdemand : (s.shareDir d).ownDemand ≤ 65535)
    (hweight : (s.shareDir d).ownWeight ≤ 65535) (hreserve : (s.shareDir d).ownReserve ≤ 65535)
    (huplink : s.uplinkInForce d ≤ 65535) : listedFigures s.ownItems d =
      { demand := (s.shareDir d).ownDemand, weight := (s.shareDir d).ownWeight, reserve := (s.shareDir d).ownReserve
        uplink := s.uplinkInForce d } := by
  have hnone (h : ¬ s.mp.cfg.gatewaySet = true) : s.uplinkInForce d = 0 := if_neg h
  have htoNat {n : Nat} (h : n ≤ 65535) : (word n).toNat = n := word_toNat (by omega)
  rw [listedFigures, itemsOf_ownItems, State.figureItems]
  by_cases hzero : (s.shareDir d).ownReserve = 0 <;> by_cases hgateway : s.mp.cfg.gatewaySet = true <;>
    simp [hzero, hgateway, hnone, lastGiven, List.filterMap_cons, ListItem.demand, ListItem.weight, ListItem.reserved, ListItem.uplinked,
      htoNat hdemand, htoNat hweight, htoNat hreserve, htoNat huplink]

/-! ### Lengths -/

theorem finishNotice_length (counted : List Byte) : (finishNotice counted).length = counted.length + 3 := by
  simp [finishNotice, wordBytes]

theorem noticeHeader_length (leaving stale : Bool) (s : State) : (s.noticeHeader leaving stale).length = 5 := rfl

theorem noticeItems_length_le (s : State) (d : Dir) : (s.noticeItems d).length ≤ 13 := by
  unfold State.noticeItems
  by_cases hreserve : (s.shareDir d).ownReserve = 0 <;> by_cases hgateway : s.mp.cfg.gatewaySet = true <;>
    simp [hreserve, hgateway, wordBytes]

/-- Settles O34: a regular notice gives the own header and figures back, a LEAVING notice the header alone. -/
theorem ownNoticesReadBack : Obligations.OwnNoticesReadBack := by
  intro s hvalid hfigures read figures header
  have hregular : s.regularNotice = finishNotice
      (s.noticeHeader false (s.mp.cfg.gatewaySet && s.pt.stale) ++ s.ownItems.flatMap ListItem.bytes ++ [0x00]) := by
    rw [← noticeItems_both, ← List.append_assoc]
    rfl
  have hleaving : s.leavingNotice =
      finishNotice (s.noticeHeader true false ++ ([] : List ListItem).flatMap ListItem.bytes ++ [0x00]) := rfl
  have hlisted (d : Dir) : listedFigures s.ownItems d = figures d := by
    obtain ⟨hdemand, hweight, hreserve, huplink⟩ := hfigures d
    exact listedFigures_ownItems hdemand hweight hreserve huplink
  refine ⟨?_, ?_, ?_, ?_⟩
  · rw [hregular, finishNotice_eq]
    refine (judge_body_and_check _ _).trans ((judge_ownHeader hvalid false _ s.ownItems _).trans ?_)
    rw [hlisted, hlisted]
    rfl
  · rw [hleaving, finishNotice_eq]
    exact (judge_body_and_check _ _).trans (judge_ownHeader hvalid true false [] _)
  · have hup := noticeItems_length_le s .up
    have hdown := noticeItems_length_le s .down
    rw [State.regularNotice, finishNotice_length]
    simp only [List.length_append, List.length_cons, List.length_nil, noticeHeader_length]
    omega
  · rfl

end Sys2Proof.Machine
end

section
/-! ## Proofs: configuration words at the port (R185, Tables 12-1 and 12-2) -/

namespace Sys2Proof.Machine

/-! ### The words of the configuration by their offset -/

theorem capacity_setWord {c : ConfigWords} {o : Nat} (h : ¬ (0x0E ≤ o ∧ o < 0x1E)) (v : Word) :
    (c.setWord o v).capacity = c.capacity := by
  rw [ConfigWords.setWord.eq_def, if_neg h]
  split <;> rfl

theorem word_of_capacity {o : Nat} (h : 0x0E ≤ o ∧ o < 0x1E) (c : ConfigWords) : c.word o =
    if (o - 0x0E) % 2 = 0 then c.capacity.up.toList.getD ((o - 0x0E) / 2) 0
    else c.capacity.down.toList.getD ((o - 0x0E) / 2) 0 := by
  rw [ConfigWords.word.eq_def, if_pos h]
  split <;> rfl

theorem setWord_of_capacity {o : Nat} (h : 0x0E ≤ o ∧ o < 0x1E) (c : ConfigWords) (v : Word) : c.setWord o v =
    if (o - 0x0E) % 2 = 0 then
      { c with capacity := { c.capacity with up := c.capacity.up.setIfInBounds ((o - 0x0E) / 2) v } }
    else { c with capacity := { c.capacity with down := c.capacity.down.setIfInBounds ((o - 0x0E) / 2) v } } := by
  rw [ConfigWords.setWord.eq_def, if_pos h]

theorem getD_setIfInBounds_self {n i : Nat} (xs : Vector Word n) (h : i < n) (v : Word) :
    (xs.setIfInBounds i v).toList.getD i 0 = v := by
  rw [getD_toList _ h]
  simp

theorem getD_setIfInBounds_of_ne {n i j : Nat} (xs : Vector Word n) (h : i ≠ j) (v : Word) :
    (xs.setIfInBounds i v).toList.getD j 0 = xs.toList.getD j 0 := by
  by_cases hj : j < n
  · rw [getD_toList _ hj, getD_toList _ hj, Vector.getElem_setIfInBounds_ne hj h]
  · rw [List.getD_eq_default _ _ (by simpa using hj), List.getD_eq_default _ _ (by simpa using hj)]

/-- A stored word reads as it was written. -/
theorem word_setWord_self (c : ConfigWords) {o : Nat} (h : o < 0x27) (v : Word) : (c.setWord o v).word o = v := by
  by_cases hcap : 0x0E ≤ o ∧ o < 0x1E
  · have hindex : (o - 0x0E) / 2 < Config.groupCount := by show _ < 8; omega
    rw [setWord_of_capacity hcap, word_of_capacity hcap]
    by_cases hup : (o - 0x0E) % 2 = 0
    · rw [if_pos hup, if_pos hup, getD_setIfInBounds_self _ hindex]
    · rw [if_neg hup, if_neg hup, getD_setIfInBounds_self _ hindex]
  · rcases Nat.lt_or_ge o 0x0E with hlow | hhigh
    · interval_cases o <;> rfl
    · have hbehind : 0x1E ≤ o := by omega
      interval_cases o <;> rfl

theorem word_setCapacity (c : ConfigWords) {p : Nat} (h : ¬ (0x0E ≤ p ∧ p < 0x1E))
    (x : PerDir (Vector Word Config.groupCount)) : { c with capacity := x }.word p = c.word p := by
  rw [ConfigWords.word.eq_def, if_neg h, ConfigWords.word.eq_def, if_neg h]

/-- No other word changes with it. -/
theorem word_setWord_of_ne (c : ConfigWords) {o p : Nat} (hne : o ≠ p) (v : Word) : (c.setWord o v).word p = c.word p := by
  by_cases hcap : 0x0E ≤ o ∧ o < 0x1E
  · rw [setWord_of_capacity hcap]
    by_cases hp : 0x0E ≤ p ∧ p < 0x1E
    · have hindex : (o - 0x0E) % 2 = (p - 0x0E) % 2 → (o - 0x0E) / 2 ≠ (p - 0x0E) / 2 := by omega
      rw [word_of_capacity hp, word_of_capacity hp]
      by_cases hup : (o - 0x0E) % 2 = 0 <;> by_cases hpup : (p - 0x0E) % 2 = 0
      · rw [if_pos hup, if_pos hpup, if_pos hpup, getD_setIfInBounds_of_ne _ (hindex (by omega))]
      · rw [if_pos hup, if_neg hpup, if_neg hpup]
      · rw [if_neg hup, if_pos hpup, if_pos hpup]
      · rw [if_neg hup, if_neg hpup, if_neg hpup, getD_setIfInBounds_of_ne _ (hindex (by omega))]
    · split
      · exact word_setCapacity c hp _
      · exact word_setCapacity c hp _
  · by_cases hp : 0x0E ≤ p ∧ p < 0x1E
    · rw [word_of_capacity hp, word_of_capacity hp, capacity_setWord hcap]
    · rw [ConfigWords.setWord.eq_def, if_neg hcap]
      split
      case h_24 => rfl
      all_goals
        rw [ConfigWords.word.eq_def, if_neg hp, ConfigWords.word.eq_def, if_neg hp]
        split <;> first | rfl | exact absurd rfl hne

/-! ### The words at their addresses -/

theorem isConfigAddress_iff (a : BitVec 7) : isConfigAddress a = true ↔ 0x40 ≤ a.toNat ∧ a.toNat ≤ 0x66 := by
  simp [isConfigAddress]

theorem readWord_of_high {a : BitVec 7} (h : 0x40 ≤ a.toNat) (s : State) :
    s.readWord a = if isConfigAddress a = true then s.mp.cfg.word (a.toNat - 0x40) else 0 := if_pos h

theorem readWord_of_config {a : BitVec 7} (hlow : 0x40 ≤ a.toNat) (hhigh : a.toNat ≤ 0x66) (s : State) :
    s.readWord a = s.mp.cfg.word (a.toNat - 0x40) := by
  rw [readWord_of_high hlow, if_pos ((isConfigAddress_iff a).2 ⟨hlow, hhigh⟩)]

/-- The configuration with a word stored. -/
def State.storing (s : State) (a : BitVec 7) (v : Word) : State :=
  { s with mp := { s.mp with cfg := s.mp.cfg.setWord (a.toNat - 0x40) v } }

theorem writeConfig_before {s : State} (h : s.started = false) (a : BitVec 7) (v : Word) :
    writeConfig a v s = s.storing a v := if_neg (Bool.eq_false_iff.1 h)

theorem writeConfig_after {s : State} (h : s.started = true) (a : BitVec 7) (v : Word) :
    writeConfig a v s = refuseWrite .locked a s := if_pos h

theorem readWord_storing_self (s : State) {a : BitVec 7} (hlow : 0x40 ≤ a.toNat) (hhigh : a.toNat ≤ 0x66) (v : Word) :
    (s.storing a v).readWord a = v := by
  rw [readWord_of_config hlow hhigh]
  exact word_setWord_self _ (by omega) v

theorem readWord_storing_of_ne (s : State) {a b : BitVec 7} (hlow : 0x40 ≤ a.toNat) (hb : 0x40 ≤ b.toNat) (hne : b ≠ a)
    (v : Word) : (s.storing a v).readWord b = s.readWord b := by
  have hval : a.toNat ≠ b.toNat := fun h => hne (BitVec.eq_of_toNat_eq h.symm)
  rw [readWord_of_high hb, readWord_of_high hb]
  refine if_congr Iff.rfl ?_ rfl
  exact word_setWord_of_ne _ (by omega) v

theorem exec_configWrite {a : BitVec 7} (hlow : 0x40 ≤ a.toNat) (hhigh : a.toNat ≤ 0x66) (v : Word) (s : State) :
    exec (.configWrite a v) s = .next (outOfReset s (writeConfig a v s)) := by
  show execConfigWrite a v s = _
  rw [execConfigWrite, if_pos ((isConfigAddress_iff a).2 ⟨hlow, hhigh⟩)]

theorem writeWord_of_high {a : BitVec 7} (h : 0x40 ≤ a.toNat) (v : Word) (s : State) : writeWord a v s =
    if isConfigAddress a = true then writeConfig a v s else refuseWrite .readOnly a s := if_pos h

theorem exec_registerWrite (a : BitVec 7) (v : Word) (s : State) :
    exec (.registerWrite a v) s = .next (outOfReset s (writeWord a v s)) := rfl

/-- A configuration address written as a register is written as configuration. -/
theorem registerWrite_config {a : BitVec 7} (hlow : 0x40 ≤ a.toNat) (hhigh : a.toNat ≤ 0x66) (v : Word) (s : State) :
    exec (.registerWrite a v) s = exec (.configWrite a v) s := by
  rw [exec_configWrite hlow hhigh, exec_registerWrite, writeWord_of_high hlow,
    if_pos ((isConfigAddress_iff a).2 ⟨hlow, hhigh⟩)]

/-- Table 12-2: the words other than the capacities, with their values after reset. -/
theorem readWord_config_table (s : State) :
    let c := s.mp.cfg
    ∀ p ∈ ([
      (0x40, c.stationId, 0), (0x41, c.setId, 0), (0x42, c.scope, 0), (0x43, c.gateway, 0), (0x44, c.epochLength, 100),
      (0x45, c.peerTimeout, 3), (0x46, c.idleLimit, 50), (0x47, c.burstMs, 100), (0x48, c.joinRate, 64),
      (0x49, c.cappedRate, 32), (0x4A, c.standardWeight, 2), (0x4B, c.premiumWeight, 4), (0x4C, c.defaultAllowance, 0),
      (0x4D, c.groupCount, 1), (0x5E, c.logBase, 0), (0x5F, c.logLimit, 65535), (0x60, c.setup, 2), (0x61, c.strobe, 4),
      (0x62, c.hold, 1), (0x63, c.turnaround, 1), (0x64, c.waitEnable, 0), (0x65, c.waitLimit, 63),
      (0x66, c.recordEnables, 0)] : List (BitVec 7 × Word × Word)),
    s.readWord p.1 = p.2.1 ∧ State.reset.readWord p.1 = p.2.2 := by
  simp only [List.forall_mem_cons]
  exact ⟨⟨rfl, rfl⟩, ⟨rfl, rfl⟩, ⟨rfl, rfl⟩, ⟨rfl, rfl⟩, ⟨rfl, rfl⟩, ⟨rfl, rfl⟩, ⟨rfl, rfl⟩, ⟨rfl, rfl⟩, ⟨rfl, rfl⟩,
    ⟨rfl, rfl⟩, ⟨rfl, rfl⟩, ⟨rfl, rfl⟩, ⟨rfl, rfl⟩, ⟨rfl, rfl⟩, ⟨rfl, rfl⟩, ⟨rfl, rfl⟩, ⟨rfl, rfl⟩, ⟨rfl, rfl⟩,
    ⟨rfl, rfl⟩, ⟨rfl, rfl⟩, ⟨rfl, rfl⟩, ⟨rfl, rfl⟩, ⟨rfl, rfl⟩, fun _ h => nomatch h⟩

/-- Table 12-2: the capacity words of a group. -/
theorem readWord_capacity (s : State) (g : Fin Config.groupCount) :
    s.readWord (BitVec.ofNat 7 (0x4E + 2 * g.val)) = s.mp.cfg.capacity.up[g.val] ∧
    s.readWord (BitVec.ofNat 7 (0x4F + 2 * g.val)) = s.mp.cfg.capacity.down[g.val] := by
  have hg : g.val < 8 := g.isLt
  have hup : (BitVec.ofNat 7 (0x4E + 2 * g.val)).toNat = 0x4E + 2 * g.val := by
    rw [BitVec.toNat_ofNat]
    omega
  have hdown : (BitVec.ofNat 7 (0x4F + 2 * g.val)).toNat = 0x4F + 2 * g.val := by
    rw [BitVec.toNat_ofNat]
    omega
  have hupIndex : (0x4E + 2 * g.val - 0x40 - 0x0E) / 2 = g.val := by omega
  have hdownIndex : (0x4F + 2 * g.val - 0x40 - 0x0E) / 2 = g.val := by omega
  constructor
  · rw [readWord_of_config (by omega) (by omega), hup, word_of_capacity (by omega), if_pos (by omega), hupIndex,
      getD_toList _ g.isLt]
  · rw [readWord_of_config (by omega) (by omega), hdown, word_of_capacity (by omega), if_neg (by omega), hdownIndex,
      getD_toList _ g.isLt]

theorem readWord_capacity_reset (g : Fin Config.groupCount) :
    State.reset.readWord (BitVec.ofNat 7 (0x4E + 2 * g.val)) = 0 ∧
    State.reset.readWord (BitVec.ofNat 7 (0x4F + 2 * g.val)) = 0 := by
  obtain ⟨hup, hdown⟩ := readWord_capacity State.reset g
  rw [hup, hdown]
  exact ⟨Vector.getElem_replicate .., Vector.getElem_replicate ..⟩

end Sys2Proof.Machine
end

section
/-! ## Proofs: the other words as they are written (R184, R191, R192, Table 12-1) -/

namespace Sys2Proof.Machine

/-! ### Interrupt words (R191, R192) -/

/-- Every position of the flag word is a flag's. -/
theorem IrqFlag.exists_bit {k : Nat} (h : k < 16) : ∃ f : IrqFlag, f.bit = k := by
  interval_cases k
  exacts [⟨.sharePublished, rfl⟩, ⟨.viewChanged, rfl⟩, ⟨.idConflict, rfl⟩, ⟨.lineFault, rfl⟩, ⟨.lineRestored, rfl⟩,
    ⟨.noticeAbandoned, rfl⟩, ⟨.peerTableFull, rfl⟩, ⟨.uplinkStale, rfl⟩, ⟨.clientCapped, rfl⟩, ⟨.watchOverflow, rfl⟩,
    ⟨.logThreshold, rfl⟩, ⟨.logFull, rfl⟩, ⟨.recordLost, rfl⟩, ⟨.memoryTimeout, rfl⟩, ⟨.commandDone, rfl⟩,
    ⟨.writeRefused, rfl⟩]

/-- R192: which flags drive IRQ_N. -/
theorem irqLow_iff (s : State) :
    s.irqLow = true ↔ ∃ f : IrqFlag, s.flag f = true ∧ s.mp.enables.getLsbD f.bit = true := by
  rw [State.irqLow, bne_iff_ne, ne_eq]
  constructor
  · intro h
    by_contra hnone
    refine h (BitVec.eq_of_getLsbD_eq fun k hk => ?_)
    obtain ⟨f, rfl⟩ := IrqFlag.exists_bit hk
    have hzero : (0 : Word).getLsbD f.bit = false := BitVec.getLsbD_zero
    rw [BitVec.getLsbD_and, hzero, Bool.and_eq_false_iff]
    by_contra hboth
    rw [not_or, Bool.not_eq_false, Bool.not_eq_false] at hboth
    exact hnone ⟨f, hboth⟩
  · rintro ⟨f, hflag, henabled⟩ hzero
    have hbit : (s.mp.flags &&& s.mp.enables).getLsbD f.bit = true := by
      rw [BitVec.getLsbD_and, henabled, Bool.and_true]
      exact hflag
    rw [hzero] at hbit
    simp at hbit

/-! ### Refused words (R184) -/

theorem address_eq {a : BitVec 7} {n : Nat} (h : a.toNat = n) : a = BitVec.ofNat 7 n := by
  rw [← h, BitVec.ofNat_toNat, BitVec.setWidth_eq]

/-- R184: the read-only words. -/
theorem writeWord_readOnly {a : BitVec 7} (h : a.toNat ∈ [0x00, 0x01, 0x02, 0x08, 0x14, 0x15, 0x16] ∨
    (0x30 ≤ a.toNat ∧ a.toNat < 0x40) ∨ 0x67 ≤ a.toNat) (v : Word) (s : State) :
    writeWord a v s = refuseWrite .readOnly a s := by
  rcases h with h | ⟨hlow, hhigh⟩ | h
  · simp only [List.mem_cons, List.not_mem_nil, or_false] at h
    rcases h with h | h | h | h | h | h | h <;> (obtain rfl := address_eq h; rfl)
  · rw [writeWord, if_neg (by omega), if_pos hlow]
  · have hno : ¬ isConfigAddress a = true := by
      rw [isConfigAddress_iff]
      omega
    rw [writeWord_of_high (by omega), if_neg hno]

/-! ### Words with a row of their own -/

/-- Table 12-1: a word that has a row is written as its row writes it. -/
theorem registerWrite_rows (s : State) (v : Word) : ∀ p ∈ ([
      (0x03, .uplinkWrite .up v), (0x04, .uplinkWrite .down v), (0x05, .commandCodeWrite v),
      (0x09, .interruptFlagsWrite v), (0x0A, .interruptEnablesWrite v), (0x0B, .refusedStatusWrite v),
      (0x0C, .logIndexLowWrite v), (0x0E, .thresholdLowWrite v), (0x10, .lostCountWrite v),
      (0x11, .memAddrLowWrite v), (0x13, .memDataWrite v), (0x17, .watchStatusWrite v),
      (0x18, .watchModeWrite 0 v), (0x1A, .watchCountLowWrite 0 v), (0x1E, .watchModeWrite 1 v),
      (0x20, .watchCountLowWrite 1 v), (0x24, .watchModeWrite 2 v), (0x26, .watchCountLowWrite 2 v),
      (0x2A, .watchModeWrite 3 v), (0x2C, .watchCountLowWrite 3 v)] : List (BitVec 7 × Instr)),
    exec (.registerWrite p.1 v) s = exec p.2 s := by
  simp only [List.forall_mem_cons]
  exact ⟨rfl, rfl, rfl, rfl, rfl, rfl, rfl, rfl, rfl, rfl, rfl, rfl, rfl, rfl, rfl, rfl, rfl, rfl, rfl, rfl,
    fun _ h => nomatch h⟩

theorem writeMemAddrHigh_started {s : State} (h : s.started = true) (v : Word) :
    writeMemAddrHigh v s = { s with mc := { s.mc with addressHolding := v.extractLsb' 0 4 } } := if_neg (by simp [h])

theorem writeMemAddrHigh_before {s : State} (h : s.started = false) (v : Word) :
    writeMemAddrHigh v s = refuseWrite .notStarted 0x12 s := if_pos (by simp [h])

/-- The words that are stored and have no row of their own. -/
theorem registerWrite_stores {s : State} (hreset : s.resetLow = false) (v : Word) :
    Answers (.registerWrite 0x06 v) s { s with mp := { s.mp with arg0 := v } } ∧
    Answers (.registerWrite 0x07 v) s { s with mp := { s.mp with arg1 := v } } ∧
    Answers (.registerWrite 0x0D v) s { s with lw := { s.lw with indexHolding := v.extractLsb' 0 5 } } ∧
    Answers (.registerWrite 0x0F v) s { s with lw := { s.lw with thresholdHolding := v.extractLsb' 0 5 } } ∧
    (s.started = true →
      Answers (.registerWrite 0x12 v) s { s with mc := { s.mc with addressHolding := v.extractLsb' 0 4 } }) ∧
    (s.started = false →
      Answers (.registerWrite 0x12 v) s { s with mp := { s.mp with
        refused := some (.notStarted, 0x12), flags := s.mp.flags ||| BitVec.twoPow 16 15 } }) :=
  ⟨answers_released rfl hreset rfl, answers_released rfl hreset rfl, answers_released rfl hreset rfl,
    answers_released rfl hreset rfl, fun h => answers_released rfl hreset (writeMemAddrHigh_started h v),
    fun h => answers_released rfl hreset (writeMemAddrHigh_before h v)⟩

/-! ### Reads with an effect (R168, R179, R151) -/

/-- A read of a word without an effect gives the word. -/
theorem takeRead_plain {a : BitVec 7} (h : a.toNat ∉ [0x0C, 0x0E, 0x13, 0x1A, 0x20, 0x26, 0x2C]) (s : State) :
    takeRead a s = { s with mp := { s.mp with dataOut := s.readWord a } } := by
  have hne {b : BitVec 7} (hb : b.toNat ∈ [0x0C, 0x0E, 0x13, 0x1A, 0x20, 0x26, 0x2C]) : a ≠ b := fun he => h (he ▸ hb)
  rw [takeRead, if_neg (hne (by decide)), if_neg (hne (by decide)), if_neg (hne (by decide)), if_neg (hne (by decide)),
    if_neg (hne (by decide)), if_neg (hne (by decide)), if_neg (hne (by decide))]
  rfl

theorem answers_effectiveReads {s : State} (hreset : s.resetLow = false) :
    Answers .logIndexLowRead s (takeRead 0x0C s) ∧ Answers .thresholdLowRead s (takeRead 0x0E s) ∧
    Answers .memDataRead s (takeRead 0x13 s) ∧
    ∀ k : Fin 4, Answers (.watchCountLowRead k) s (takeRead (BitVec.ofNat 7 (0x1A + 6 * k.val)) s) := by
  refine ⟨answers_released rfl hreset rfl, answers_released rfl hreset rfl, answers_released rfl hreset rfl, fun k => ?_⟩
  refine answers_released rfl hreset ?_
  match k with
  | 0 => rfl
  | 1 => rfl
  | 2 => rfl
  | 3 => rfl

end Sys2Proof.Machine
end

section
/-! ## Proofs: transactions at the port (R183, R184) -/

namespace Sys2Proof.Machine

/-! ### The serial port beside the part -/

/-- The part with another serial port, word to shift out, and place in the free values. -/
def State.shifting (p : SerialPort) (d : Word) (n : Nat) (s : State) : State :=
  { s with mp := { s.mp with serial := p, dataOut := d }, freeDraws := n }

section
variable (p : SerialPort) (d : Word) (n : Nat)

theorem shifting_ite {c : Prop} [Decidable c] {s t u v : State} (h : s = u.shifting p d n) (k : t = v.shifting p d n) :
    (if c then s else t) = (if c then u else v).shifting p d n := by
  split
  · exact h
  · exact k

/-- A read does not look at the transaction that brings it. -/
theorem takeRead_shifting (a : BitVec 7) (s : State) :
    takeRead a (s.shifting p d n) = (takeRead a s).shifting p (s.readWord a) n :=
  shifting_ite _ _ _ rfl (shifting_ite _ _ _ rfl (shifting_ite _ _ _ (shifting_ite _ _ _ rfl rfl)
    (shifting_ite _ _ _ rfl (shifting_ite _ _ _ rfl (shifting_ite _ _ _ rfl (shifting_ite _ _ _ rfl rfl))))))

theorem writeUplink_shifting (dir : Dir) (v : Word) (s : State) :
    writeUplink dir v (s.shifting p d n) = (writeUplink dir v s).shifting p d n := shifting_ite _ _ _ rfl rfl

theorem writeConfig_shifting (a : BitVec 7) (v : Word) (s : State) :
    writeConfig a v (s.shifting p d n) = (writeConfig a v s).shifting p d n := shifting_ite _ _ _ rfl rfl

theorem writeCommandCode_shifting (v : Word) (s : State) :
    writeCommandCode v (s.shifting p d n) = (writeCommandCode v s).shifting p d n :=
  shifting_ite _ _ _ rfl (shifting_ite _ _ _ rfl rfl)

theorem writeLogIndexLow_shifting (v : Word) (s : State) :
    writeLogIndexLow v (s.shifting p d n) = (writeLogIndexLow v s).shifting p d n := by
  refine shifting_ite _ _ _ rfl (shifting_ite _ _ _ rfl ?_)
  have hwriter : (s.shifting p d n).lw.writer = s.lw.writer := rfl
  rw [hwriter]
  cases s.lw.writer <;> rfl

theorem writeThresholdLow_shifting (v : Word) (s : State) :
    writeThresholdLow v (s.shifting p d n) = (writeThresholdLow v s).shifting p d n :=
  shifting_ite _ _ _ rfl (shifting_ite _ _ _ rfl rfl)

theorem writeMemAddrLow_shifting (v : Word) (s : State) :
    writeMemAddrLow v (s.shifting p d n) = (writeMemAddrLow v s).shifting p d n := shifting_ite _ _ _ rfl rfl

theorem writeMemAddrHigh_shifting (v : Word) (s : State) :
    writeMemAddrHigh v (s.shifting p d n) = (writeMemAddrHigh v s).shifting p d n := shifting_ite _ _ _ rfl rfl

theorem writeMemData_shifting (v : Word) (s : State) :
    writeMemData v (s.shifting p d n) = (writeMemData v s).shifting p d n := shifting_ite _ _ _ rfl rfl

theorem clearOverflow_shifting (v : Word) (ks : List (Fin Config.watchCount)) (s : State) :
    clearOverflow v ks (s.shifting p d n) = (clearOverflow v ks s).shifting p d n := by
  induction ks generalizing s with
  | nil => rfl
  | cons k rest ih =>
    have hstep : (if v.getLsbD (4 + k.val) = true then
          (s.shifting p d n).setWatch k { (s.shifting p d n).watch k with overflow := false } else s.shifting p d n) =
        (if v.getLsbD (4 + k.val) = true then s.setWatch k { s.watch k with overflow := false } else s).shifting p d n :=
      shifting_ite _ _ _ rfl rfl
    rw [clearOverflow, hstep, ih, clearOverflow]

theorem writeWatchWord_shifting (k : Fin Config.watchCount) (place : Nat) (v : Word) (s : State) :
    writeWatchWord k place v (s.shifting p d n) = (writeWatchWord k place v s).shifting p d n := by
  unfold writeWatchWord
  split
  case h_3 => exact shifting_ite _ _ _ rfl rfl
  all_goals rfl

/-- A write does not look at the transaction that brings it. -/
theorem writeWord_shifting (a : BitVec 7) (v : Word) (s : State) :
    writeWord a v (s.shifting p d n) = (writeWord a v s).shifting p d n := by
  refine shifting_ite _ _ _ (shifting_ite _ _ _ (writeConfig_shifting p d n a v s) rfl)
    (shifting_ite _ _ _ rfl (shifting_ite _ _ _ (writeWatchWord_shifting p d n _ _ v s) ?_))
  split
  case h_1 => exact writeUplink_shifting p d n .up v s
  case h_2 => exact writeUplink_shifting p d n .down v s
  case h_3 => exact writeCommandCode_shifting p d n v s
  case h_9 => exact writeLogIndexLow_shifting p d n v s
  case h_11 => exact writeThresholdLow_shifting p d n v s
  case h_14 => exact writeMemAddrLow_shifting p d n v s
  case h_15 => exact writeMemAddrHigh_shifting p d n v s
  case h_16 => exact writeMemData_shifting p d n v s
  case h_17 => exact clearOverflow_shifting p d n v allWatches s
  all_goals rfl

end

end Sys2Proof.Machine
end

section
/-! ## Proofs: the bits of a transaction (R183) -/

namespace Sys2Proof.Machine

/-! ### The bits taken -/

/-- The shift register behind these bits, the last one lowest. -/
def taken (bits : List Bool) : BitVec 32 := bits.foldl (fun r b => (r <<< 1) ||| BitVec.ofNat 32 (bit b)) 0

theorem taken_concat (bits : List Bool) (b : Bool) :
    taken (bits ++ [b]) = (taken bits <<< 1) ||| BitVec.ofNat 32 (bit b) := by
  rw [taken, List.foldl_append]
  rfl

/-- The register holds the last 32 bits. -/
theorem taken_getLsbD (bits : List Bool) {k : Nat} (h : k < 32) : (taken bits).getLsbD k = bits.reverse.getD k false := by
  induction bits using List.reverseRecOn generalizing k with
  | nil => simp [taken]
  | append_singleton rest b ih =>
    have hbit : (BitVec.ofNat 32 (bit b)).getLsbD k = (decide (k = 0) && b) := by
      cases b with
      | false => simp [bit]
      | true =>
        have hone : BitVec.ofNat 32 (bit true) = 1#32 := rfl
        rw [hone, BitVec.getLsbD_one]
        simp
    rw [taken_concat, List.reverse_append, List.reverse_singleton, List.singleton_append, BitVec.getLsbD_or, hbit,
      BitVec.getLsbD_shiftLeft]
    cases k with
    | zero => simp
    | succ j =>
      rw [List.getD_cons_succ, ← ih (by omega)]
      simp [h]

theorem getD_reverse {l : List Bool} {k : Nat} (h : k < l.length) : l.reverse.getD k false = l.getD (l.length - 1 - k) false := by
  simp [List.getD_eq_getElem?_getD, List.getElem?_reverse h]

/-! ### Read, address, data -/

/-- The bits of a transaction: direction, address, and what follows. -/
def frameBits (read : Bool) (a : BitVec 7) (rest : List Bool) : List Bool :=
  read :: (List.range 7).map (fun k => a.getMsbD k) ++ rest

theorem frameBits_length (read : Bool) (a : BitVec 7) (rest : List Bool) :
    (frameBits read a rest).length = 8 + rest.length := by
  simp [frameBits]
  omega

theorem frameBits_take (read : Bool) (a : BitVec 7) (rest : List Bool) (k : Nat) :
    (frameBits read a rest).take (8 + k) = frameBits read a (rest.take k) := by
  have hhead : (read :: (List.range 7).map fun k => a.getMsbD k).length = 8 := by simp
  rw [frameBits, List.take_append, hhead, Nat.add_sub_cancel_left, List.take_of_length_le (by omega)]
  rfl

/-- The address stands behind the direction, most significant bit first. -/
theorem frameBits_getD (read : Bool) (a : BitVec 7) (rest : List Bool) {k : Nat} (h : k < 8) :
    (frameBits read a rest).getD k false = if k = 0 then read else a.getLsbD (7 - k) := by
  cases k with
  | zero => rfl
  | succ j =>
    have hj : j < 7 := by omega
    have hindex : 7 - 1 - j = 7 - (j + 1) := by omega
    have hmap : (frameBits read a rest).getD (j + 1) false = a.getMsbD j := by
      rw [frameBits, List.cons_append, List.getD_cons_succ, List.getD_eq_getElem?_getD,
        List.getElem?_append_left (by simpa using hj)]
      simp [hj]
    rw [hmap, if_neg (Nat.succ_ne_zero j), BitVec.getMsbD, hindex]
    simp [hj]

/-- The read that these bits have begun, at the 16th of them. -/
def readBegun (bits : List Bool) : Option (BitVec 7) :=
  if 16 ≤ bits.length ∧ (taken (bits.take 16)).getLsbD 15 = true then some ((taken (bits.take 16)).extractLsb' 8 7) else none

theorem readBegun_short {bits : List Bool} (h : bits.length < 16) : readBegun bits = none := if_neg fun hc => by omega

theorem readBegun_concat_of_long {bits : List Bool} (h : 16 ≤ bits.length) (b : Bool) :
    readBegun (bits ++ [b]) = readBegun bits := by
  have hlength : 16 ≤ (bits ++ [b]).length := by rw [List.length_append]; omega
  simp only [readBegun, List.take_append_of_le_length h, h, hlength]

theorem taken_first {bits : List Bool} {k : Nat} (h : bits.length = 16) (hk : k < 16) :
    (taken bits).getLsbD k = bits.getD (15 - k) false := by
  rw [taken_getLsbD _ (by omega), getD_reverse (by omega), h]

/-- The first bit says whether a transaction reads. -/
theorem readBegun_frameBits (read : Bool) (a : BitVec 7) {rest : List Bool} (h : 8 ≤ rest.length) :
    readBegun (frameBits read a rest) = if read = true then some a else none := by
  have htake : (frameBits read a rest).take 16 = frameBits read a (rest.take 8) := frameBits_take read a rest 8
  have hlength : (frameBits read a (rest.take 8)).length = 16 := by
    rw [frameBits_length, List.length_take]
    omega
  have hread : (taken (frameBits read a (rest.take 8))).getLsbD 15 = read := by
    rw [taken_first hlength (by omega), frameBits_getD _ _ _ (by omega)]
    rfl
  have haddress : (taken (frameBits read a (rest.take 8))).extractLsb' 8 7 = a := by
    refine BitVec.eq_of_getLsbD_eq fun i hi => ?_
    have hplace : 15 - (8 + i) = 7 - i := by omega
    have hback : 7 - (7 - i) = i := by omega
    rw [BitVec.getLsbD_extractLsb', taken_first hlength (by omega), hplace, frameBits_getD _ _ _ (by omega),
      if_neg (by omega), hback]
    simp [hi]
  have hlong : 16 ≤ (frameBits read a rest).length := by rw [frameBits_length]; omega
  rw [readBegun, htake, hread, haddress]
  simp only [hlong, true_and]

theorem readBegun_of_write {bits : List Bool} (h : bits.head? = some false) : readBegun bits = none := by
  refine if_neg fun ⟨hlong, hread⟩ => ?_
  have hlength : (bits.take 16).length = 16 := by rw [List.length_take]; omega
  rw [taken_first hlength (by omega)] at hread
  cases bits with
  | nil => exact nomatch h
  | cons b rest =>
    obtain rfl : b = false := by simpa using h
    exact nomatch hread

/-- A word's bits, most significant first. -/
def wordBits (w : BitVec 32) : List Bool := (List.range 32).map fun k => w.getMsbD k

theorem wordBits_length (w : BitVec 32) : (wordBits w).length = 32 := by simp [wordBits]

theorem taken_wordBits (w : BitVec 32) : taken (wordBits w) = w := by
  refine BitVec.eq_of_getLsbD_eq fun i hi => ?_
  have hlast : 32 - 1 - i < 32 := by omega
  have hback : 32 - 1 - (32 - 1 - i) = i := by omega
  have hbits : (wordBits w).getD (32 - 1 - i) false = w.getMsbD (32 - 1 - i) := by
    simp [wordBits, List.getD_eq_getElem?_getD, hlast]
  rw [taken_getLsbD _ hi, getD_reverse (by rw [wordBits_length]; exact hi), wordBits_length, hbits, BitVec.getMsbD, hback]
  simp [hlast]

theorem wordBits_eq_frameBits (w : BitVec 32) :
    wordBits w = frameBits w.msb (w.extractLsb' 24 7) ((List.range 24).map fun k => w.getMsbD (k + 8)) := by
  have hrange : List.range 32 = 0 :: (List.range 7).map (· + 1) ++ (List.range 24).map (· + 8) := by decide
  have haddress : ∀ k ∈ List.range 7, w.getMsbD (k + 1) = (w.extractLsb' 24 7).getMsbD k := fun k hk => by
    have hk7 : k < 7 := List.mem_range.1 hk
    have hk32 : k + 1 < 32 := by omega
    have hplace : 32 - 1 - (k + 1) = 24 + (7 - 1 - k) := by omega
    have hin : 7 - 1 - k < 7 := by omega
    simp [BitVec.getMsbD, hk7, hk32, hplace, hin]
  rw [wordBits, hrange, List.map_append, List.map_cons, List.map_map, List.map_map, frameBits]
  congr 2
  exact List.map_congr_left haddress

/-! ### How far a transaction has come -/

/-- The part behind a read, where one has been taken. -/
def State.behind (s : State) : Option (BitVec 7) → State
  | some a => takeRead a s
  | none => s

/-- The word a transaction shifts out. -/
def State.wordOf (s : State) : Option (BitVec 7) → Word
  | some a => s.readWord a
  | none => 0

/-- The serial port behind these bits of a transaction that began in the state `s`. -/
structure Progress (s : State) (bits : List Bool) (p : SerialPort) : Prop where
  selected : p.selected = true
  active : p.active = true
  edges : p.edges = bits.length
  register : p.bits = taken bits
  summary : p.summary = if 8 ≤ bits.length then s.summaryByte else 0
  output : bits.length < 32 →
    p.output = ((0 : Byte) ++ p.summary ++ s.wordOf (readBegun bits) : BitVec 32).getMsbD bits.length

theorem clockEdge_of_active {s : State} (h : s.mp.serial.active = true) (b : Bool) : clockEdge b s =
    if (s.mp.serial.shift b).edges = 8 then
      (s.setSerial (s.mp.serial.shift b)).setSerial
        { s.mp.serial.shift b with summary := (s.setSerial (s.mp.serial.shift b)).summaryByte }
    else if (s.mp.serial.shift b).edges = 16 ∧ (s.mp.serial.shift b).bits.getLsbD 15 = true then
      takeRead ((s.mp.serial.shift b).bits.extractLsb' 8 7) (s.setSerial (s.mp.serial.shift b))
    else s.setSerial (s.mp.serial.shift b) := if_pos h

theorem clockFall_of_active {s : State} (h : s.mp.serial.active = true) : clockFall s =
    if s.mp.serial.edges < 32 then
      s.setSerial { s.mp.serial with output := s.mp.outputBytes.getMsbD s.mp.serial.edges }
    else { s.setSerial { s.mp.serial with output := Config.bitPastTheWord s.freeDraws } with
      freeDraws := s.freeDraws + 1 } := if_pos h

/-- A rising edge, the read at the 16th included. -/
theorem clockEdge_shifting {s : State} {bits : List Bool} {p : SerialPort} (h : Progress s bits p) (b : Bool) (n : Nat) :
    clockEdge b ((s.behind (readBegun bits)).shifting p (s.wordOf (readBegun bits)) n) =
      (s.behind (readBegun (bits ++ [b]))).shifting
        { p.shift b with summary := if bits.length + 1 = 8 then s.summaryByte else p.summary }
        (s.wordOf (readBegun (bits ++ [b]))) n := by
  obtain ⟨-, hactive, hedges, hbits, -, -⟩ := h
  have hlength : (bits ++ [b]).length = bits.length + 1 := List.length_append
  have hshift : (p.shift b).bits = taken (bits ++ [b]) := by
    rw [taken_concat, ← hbits]
    rfl
  have hcount : (p.shift b).edges = bits.length + 1 := by
    rw [← hedges]
    rfl
  refine (clockEdge_of_active (s := State.shifting p _ n _) hactive b).trans ?_
  show (if (p.shift b).edges = 8 then _ else if (p.shift b).edges = 16 ∧ (p.shift b).bits.getLsbD 15 = true then
    takeRead ((p.shift b).bits.extractLsb' 8 7) (State.shifting (p.shift b) _ n _) else State.shifting (p.shift b) _ n _) = _
  rw [hcount, hshift]
  by_cases h8 : bits.length + 1 = 8
  · rw [if_pos h8, if_pos h8, readBegun_short (by omega), readBegun_short (by omega)]
    rfl
  · rw [if_neg h8, if_neg h8]
    by_cases h16 : bits.length + 1 = 16
    · have htake : (bits ++ [b]).take 16 = bits ++ [b] := List.take_of_length_le (by omega)
      have hlong : 16 ≤ (bits ++ [b]).length := by omega
      rw [readBegun_short (by omega), readBegun, htake]
      by_cases hread : (taken (bits ++ [b])).getLsbD 15 = true
      · rw [if_pos ⟨h16, hread⟩, if_pos ⟨hlong, hread⟩]
        exact takeRead_shifting (p.shift b) _ n _ s
      · rw [if_neg fun hc => hread hc.2, if_neg fun hc => hread hc.2]
        rfl
    · have hsame : readBegun (bits ++ [b]) = readBegun bits := by
        rcases Nat.lt_or_ge bits.length 16 with hshort | hlong
        · rw [readBegun_short (by omega), readBegun_short hshort]
        · exact readBegun_concat_of_long hlong b
      rw [if_neg fun hc => h16 hc.1, hsame]
      rfl

/-- A falling edge. -/
theorem clockFall_shifting {p : SerialPort} (hactive : p.active = true) (d : Word) (n : Nat) (s : State) :
    ∃ m, clockFall (s.shifting p d n) = s.shifting
      { p with output :=
          if p.edges < 32 then ((0 : Byte) ++ p.summary ++ d : BitVec 32).getMsbD p.edges else Config.bitPastTheWord n } d m := by
  rw [clockFall_of_active (s := s.shifting p d n) hactive]
  by_cases hmore : p.edges < 32
  · refine ⟨n, ?_⟩
    rw [if_pos hmore]
    exact if_pos hmore
  · refine ⟨n + 1, ?_⟩
    rw [if_neg hmore]
    exact if_neg hmore

theorem progress_begin (s : State) : Progress s [] { SerialPort.reset with selected := true, active := true } where
  selected := rfl
  active := rfl
  edges := rfl
  register := rfl
  summary := rfl
  output _ := by
    have hnone : readBegun [] = none := readBegun_short (by decide)
    rw [hnone]
    show false = ((0 : Byte) ++ (0 : Byte) ++ (0 : Word) : BitVec 32).getMsbD 0
    decide

theorem beginTransaction_of_free {s : State} (hreset : s.resetLow = false) (hfree : s.mp.serial.selected = false) :
    beginTransaction s = s.shifting { SerialPort.reset with selected := true, active := true } 0 s.freeDraws := by
  rw [beginTransaction, if_neg (by simp [hfree]), if_neg (by simp [hreset])]
  rfl

/-- The serial port a clock pulse leaves, with the summary and the word to shift out behind its rising edge. -/
def SerialPort.pulsed (b : Bool) (summary : Byte) (d : Word) (n : Nat) (p : SerialPort) : SerialPort :=
  let q := { p.shift b with summary := summary }
  { q with output :=
      if q.edges < 32 then ((0 : Byte) ++ summary ++ d : BitVec 32).getMsbD q.edges else Config.bitPastTheWord n }

/-- The part behind the bits of a transaction. -/
def State.clocked (s : State) (bits : List Bool) : State := bits.foldl (fun s b => clockPulse b s) (beginTransaction s)

/-- Bit by bit: the serial port makes progress, and a read is taken at its 16th bit. -/
theorem clocked_eq {s : State} (hreset : s.resetLow = false) (hfree : s.mp.serial.selected = false) (bits : List Bool) :
    ∃ p n, Progress s bits p ∧
      s.clocked bits = (s.behind (readBegun bits)).shifting p (s.wordOf (readBegun bits)) n := by
  induction bits using List.reverseRecOn with
  | nil => exact ⟨_, _, progress_begin s, beginTransaction_of_free hreset hfree⟩
  | append_singleton rest b ih =>
    obtain ⟨p, n, hp, heq⟩ := ih
    have hedge := clockEdge_shifting hp b n
    have hlength : (rest ++ [b]).length = rest.length + 1 := List.length_append
    obtain ⟨m, hfall⟩ := clockFall_shifting
      (p := { p.shift b with summary := if rest.length + 1 = 8 then s.summaryByte else p.summary }) hp.active
      (s.wordOf (readBegun (rest ++ [b]))) n (s.behind (readBegun (rest ++ [b])))
    have hcount : (p.shift b).edges = (rest ++ [b]).length := by
      rw [hlength, ← hp.edges]
      rfl
    refine ⟨p.pulsed b (if rest.length + 1 = 8 then s.summaryByte else p.summary) (s.wordOf (readBegun (rest ++ [b]))) n, m,
      ⟨hp.selected, hp.active, hcount, ?_, ?_, fun hmore => ?_⟩, ?_⟩
    · rw [taken_concat, ← hp.register]
      rfl
    · rw [hlength]
      show (if rest.length + 1 = 8 then s.summaryByte else p.summary) = _
      rw [hp.summary]
      by_cases h8 : rest.length + 1 = 8
      · rw [if_pos h8, if_pos (by omega)]
      · rw [if_neg h8]
        exact if_congr (by omega) rfl rfl
    · rw [← hcount] at hmore ⊢
      exact if_pos hmore
    · rw [State.clocked, List.foldl_append]
      show clockFall (clockEdge b (s.clocked rest)) = _
      rw [heq, hedge]
      exact hfall

end Sys2Proof.Machine
end

section
/-! ## Proofs: transactions as the host sees them (R183) -/

namespace Sys2Proof.Machine

/-! ### The end of a transaction -/

/-- What a write transaction writes: the word of 32 bits whose first is clear. -/
def writesWord (bits : List Bool) : Bool := decide (bits.length = 32) && !(taken bits).getLsbD 31

/-- The part behind a transaction. -/
def State.transacted (s : State) (bits : List Bool) : State :=
  if writesWord bits = true then
    writeWord ((taken bits).extractLsb' 24 7) ((taken bits).extractLsb' 0 16) (s.behind (readBegun bits))
  else s.behind (readBegun bits)

theorem endTransaction_of_active {s : State} (h : s.mp.serial.active = true) : endTransaction s =
    (let s1 := s.setMp { s.mp with
      serial := { s.mp.serial with selected := false, active := false, output := false }, dataOut := 0 }
    if s.mp.serial.edges = 32 ∧ s.mp.serial.bits.getLsbD 31 = false then
      writeWord (s.mp.serial.bits.extractLsb' 24 7) (s.mp.serial.bits.extractLsb' 0 16) s1 else s1) := if_pos h

theorem endTransaction_shifting {s u : State} {bits : List Bool} {p : SerialPort} (h : Progress s bits p) (d : Word) (n : Nat) :
    endTransaction (u.shifting p d n) =
      (if writesWord bits = true then
        writeWord ((taken bits).extractLsb' 24 7) ((taken bits).extractLsb' 0 16) u else u).shifting
          { p with selected := false, active := false, output := false } 0 n := by
  have hwrites : writesWord bits = true ↔ p.edges = 32 ∧ p.bits.getLsbD 31 = false := by
    rw [h.edges, h.register, writesWord, Bool.and_eq_true, decide_eq_true_iff, Bool.not_eq_true']
  rw [endTransaction_of_active (s := u.shifting p d n) h.active, ← h.register]
  by_cases hw : writesWord bits = true
  · rw [if_pos hw]
    exact (if_pos (hwrites.1 hw)).trans (writeWord_shifting _ 0 n _ _ u)
  · rw [if_neg hw]
    exact if_neg fun hc => hw (hwrites.2 hc)

/-- R183: a whole transaction. -/
theorem transact_eq {s : State} (hreset : s.resetLow = false) (hfree : s.mp.serial.selected = false) (bits : List Bool) :
    ∃ p n, p.selected = false ∧ s.transact bits = (s.transacted bits).shifting p 0 n := by
  obtain ⟨p, n, hp, heq⟩ := clocked_eq hreset hfree bits
  refine ⟨{ p with selected := false, active := false, output := false }, n, rfl, ?_⟩
  show endTransaction (s.clocked bits) = _
  rw [heq, endTransaction_shifting hp]
  rfl

theorem transact_reads {s : State} (hreset : s.resetLow = false) (hfree : s.mp.serial.selected = false) (a : BitVec 7)
    {rest : List Bool} (h : 8 ≤ rest.length) : ∃ p n, s.transact (frameBits true a rest) =
      { takeRead a s with mp := { (takeRead a s).mp with serial := p, dataOut := 0 }, freeDraws := n } := by
  obtain ⟨p, n, -, heq⟩ := transact_eq hreset hfree (frameBits true a rest)
  have hread : readBegun (frameBits true a rest) = some a := by rw [readBegun_frameBits true a h, if_pos rfl]
  have hnowrite : ¬ writesWord (frameBits true a rest) = true := fun hw => by
    rw [writesWord, Bool.and_eq_true, decide_eq_true_iff, Bool.not_eq_true'] at hw
    obtain ⟨hlength, hfirst⟩ := hw
    rw [taken_getLsbD _ (by omega), getD_reverse (by omega), hlength] at hfirst
    exact nomatch hfirst
  rw [State.transacted, if_neg hnowrite, hread] at heq
  exact ⟨p, n, heq⟩

theorem transact_writes {s : State} (hreset : s.resetLow = false) (hfree : s.mp.serial.selected = false) {w : BitVec 32}
    (h : w.msb = false) : ∃ p n u, Answers (.registerWrite (w.extractLsb' 24 7) (w.extractLsb' 0 16)) s u ∧
      s.transact (wordBits w) = { u with mp := { u.mp with serial := p, dataOut := 0 }, freeDraws := n } := by
  obtain ⟨p, n, -, heq⟩ := transact_eq hreset hfree (wordBits w)
  have hread : readBegun (wordBits w) = none := by
    rw [wordBits_eq_frameBits, readBegun_frameBits _ _ (by simp), h]
    rfl
  have hwrites : writesWord (wordBits w) = true := by
    rw [writesWord, wordBits_length, taken_wordBits]
    rw [BitVec.msb_eq_getLsbD_last] at h
    simp only [h, decide_true, Bool.not_false, Bool.and_self]
  rw [State.transacted, if_pos hwrites, hread, taken_wordBits] at heq
  exact ⟨p, n, _, answers_released rfl hreset rfl, heq⟩

theorem transact_nothing {s : State} (hreset : s.resetLow = false) (hfree : s.mp.serial.selected = false) {bits : List Bool}
    (h : bits.length < 16 ∨ (bits.length ≠ 32 ∧ bits.head? = some false)) :
    ∃ p n, s.transact bits = { s with mp := { s.mp with serial := p, dataOut := 0 }, freeDraws := n } := by
  obtain ⟨p, n, -, heq⟩ := transact_eq hreset hfree bits
  have hread : readBegun bits = none := h.elim readBegun_short fun h => readBegun_of_write h.2
  have hnowrite : ¬ writesWord bits = true := fun hw => by
    rw [writesWord, Bool.and_eq_true, decide_eq_true_iff] at hw
    rcases h with h | h
    · omega
    · exact h.1 hw.1
  rw [State.transacted, if_neg hnowrite, hread] at heq
  exact ⟨p, n, heq⟩

/-! ### The data output -/

theorem fetchNext_resetLow (s : State) : (fetchNext s).resetLow = s.resetLow := by
  unfold fetchNext
  split <;> rfl

theorem takeRead_resetLow (a : BitVec 7) (s : State) : (takeRead a s).resetLow = s.resetLow := by
  unfold takeRead
  split
  · rfl
  split
  · rfl
  split
  · exact fetchNext_resetLow _
  (repeat' split) <;> rfl

theorem clockEdge_resetLow (b : Bool) (s : State) : (clockEdge b s).resetLow = s.resetLow := by
  by_cases h : s.mp.serial.active = true
  · rw [clockEdge_of_active h]
    split
    · rfl
    · split
      · exact takeRead_resetLow _ _
      · rfl
  · rw [clockEdge, if_neg h]

theorem sampled_eq_map (bits : List Bool) (s : State) : s.sampled bits =
    (List.range bits.length).map fun k => ((bits.take k).foldl (fun s b => clockPulse b s) s).dataOutput := by
  induction bits generalizing s with
  | nil => rfl
  | cons b rest ih =>
    rw [State.sampled, ih, List.length_cons, List.range_succ_eq_map, List.map_cons, List.map_map]
    rfl

theorem shiftedOut_eq_map (bits : List Bool) (s : State) :
    s.shiftedOut bits = (List.range bits.length).map fun k => (s.clocked (bits.take k)).dataOutput :=
  sampled_eq_map bits _

/-- The output bits of the four bytes. -/
theorem getMsbD_bytes (x : Byte) (y : Word) {k : Nat} (h : k < 32) : ((0 : Byte) ++ x ++ y : BitVec 32).getMsbD k =
    if k < 8 then false else if k < 16 then x.getMsbD (k - 8) else y.getMsbD (k - 16) := by
  rw [BitVec.getMsbD_append, BitVec.getMsbD_append]
  by_cases h8 : k < 8
  · have h16 : k < 8 + 8 := by omega
    simp [h8, h16]
  · by_cases h16 : k < 16
    · have h16' : ¬ 8 + 8 ≤ k := by omega
      have hin : 8 ≤ k := Nat.le_of_not_lt h8
      simp [h8, h16, h16', hin]
    · have h16' : 8 + 8 ≤ k := by omega
      simp [h8, h16, h16']

/-- What the output shows behind fewer than 32 bits. -/
theorem dataOutput_clocked {s : State} (hreset : s.resetLow = false) (hfree : s.mp.serial.selected = false) (bits : List Bool) :
    ∃ b, (s.clocked bits).dataOutput = some b ∧ (bits.length < 32 → b =
      if bits.length < 8 then false else if bits.length < 16 then s.summaryByte.getMsbD (bits.length - 8)
      else (s.wordOf (readBegun bits)).getMsbD (bits.length - 16)) := by
  obtain ⟨p, n, hp, heq⟩ := clocked_eq hreset hfree bits
  have hbehind : (s.behind (readBegun bits)).resetLow = false := by
    cases readBegun bits with
    | none => exact hreset
    | some a => exact (takeRead_resetLow a s).trans hreset
  refine ⟨p.output, ?_, fun hmore => ?_⟩
  · rw [heq]
    show (if p.selected = true then some (!(s.behind (readBegun bits)).resetLow && p.output) else none) = some p.output
    rw [if_pos hp.selected, hbehind, Bool.not_false, Bool.true_and]
  · rw [hp.output hmore, getMsbD_bytes _ _ hmore]
    by_cases h8 : bits.length < 8
    · rw [if_pos h8, if_pos h8]
    · rw [if_neg h8, if_neg h8, hp.summary, if_pos (Nat.le_of_not_lt h8)]

/-- R183: what a transaction shifts out. -/
theorem shiftedOut_frameBits {s : State} (hreset : s.resetLow = false) (hfree : s.mp.serial.selected = false) (read : Bool)
    (a : BitVec 7) (rest : List Bool) :
    (s.shiftedOut (frameBits read a rest)).take 32 = ((List.range 32).map fun k =>
      some (((0 : Byte) ++ s.summaryByte ++ (if read = true then s.readWord a else 0) : BitVec 32).getMsbD k)).take
        (frameBits read a rest).length := by
  rw [shiftedOut_eq_map, ← List.map_take, ← List.map_take, List.take_range, List.take_range, Nat.min_comm]
  refine List.map_congr_left fun k hk => ?_
  have hk := List.mem_range.1 hk
  have hlength : ((frameBits read a rest).take k).length = k := by
    rw [List.length_take]
    omega
  obtain ⟨b, hb, hvalue⟩ := dataOutput_clocked hreset hfree ((frameBits read a rest).take k)
  rw [hlength] at hvalue
  rw [hb, hvalue (by omega), getMsbD_bytes _ _ (by omega)]
  by_cases h8 : k < 8
  · rw [if_pos h8, if_pos h8]
  · by_cases h16 : k < 16
    · rw [if_neg h8, if_neg h8, if_pos h16, if_pos h16]
    · have hsplit : k = 8 + (k - 8) := by omega
      have hrest : 8 ≤ (rest.take (k - 8)).length := by
        rw [frameBits_length] at hk
        rw [List.length_take]
        omega
      have hread : s.wordOf (readBegun ((frameBits read a rest).take k)) = if read = true then s.readWord a else 0 := by
        rw [hsplit, frameBits_take, readBegun_frameBits read a hrest]
        cases read <;> rfl
      rw [if_neg h8, if_neg h8, if_neg h16, if_neg h16, hread]

theorem shiftedOut_defined {s : State} (hreset : s.resetLow = false) (hfree : s.mp.serial.selected = false)
    (bits : List Bool) : none ∉ s.shiftedOut bits := by
  rw [shiftedOut_eq_map, List.mem_map]
  rintro ⟨k, -, hk⟩
  obtain ⟨b, hb, -⟩ := dataOutput_clocked hreset hfree (bits.take k)
  rw [hb] at hk
  exact nomatch hk

/-- The first byte is 0. -/
theorem shiftedOut_first {s : State} (hreset : s.resetLow = false) (hfree : s.mp.serial.selected = false)
    {bits : List Bool} (h : bits.length ≤ 8) : s.shiftedOut bits = bits.map fun _ => some false := by
  have hconst : (bits.map fun _ => some false) = (List.range bits.length).map fun _ => some false := by
    simp [List.map_const']
  rw [shiftedOut_eq_map, hconst]
  refine List.map_congr_left fun k hk => ?_
  have hk := List.mem_range.1 hk
  have hlength : (bits.take k).length = k := by
    rw [List.length_take]
    omega
  obtain ⟨b, hb, hvalue⟩ := dataOutput_clocked hreset hfree (bits.take k)
  rw [hb, hvalue (by omega), if_pos (by omega)]

theorem dataOutput_transact {s : State} (hreset : s.resetLow = false) (hfree : s.mp.serial.selected = false)
    (bits : List Bool) : (s.transact bits).dataOutput = none := by
  obtain ⟨p, n, hp, heq⟩ := transact_eq hreset hfree bits
  rw [heq]
  exact if_neg (by rw [show ((s.transacted bits).shifting p 0 n).mp.serial = p from rfl, hp]; exact Bool.false_ne_true)

/-- A rising edge leaves the data output. -/
theorem dataOutput_clockEdge (b : Bool) (s : State) : (clockEdge b s).dataOutput = s.dataOutput := by
  have hserial := clockEdge_serial b s
  have hreset := clockEdge_resetLow b s
  have hselected : (clockEdge b s).mp.serial.selected = s.mp.serial.selected := by
    rw [hserial]
    dsimp only
    split <;> rfl
  have houtput : (clockEdge b s).mp.serial.output = s.mp.serial.output := by
    rw [hserial]
    dsimp only
    split <;> rfl
  rw [State.dataOutput, State.dataOutput, hreset, hselected, houtput]

end Sys2Proof.Machine
end

section
/-! ## Proofs: the word map as it reads (Table 12-1) -/

namespace Sys2Proof.Machine

/-! ### Slices of words -/

theorem setWidth_toNat_of_le {m n : Nat} (h : m ≤ n) (x : BitVec m) : (x.setWidth n).toNat = x.toNat := by
  rw [BitVec.toNat_setWidth, Nat.mod_eq_of_lt (x.isLt.trans_le (Nat.pow_le_pow_right (by decide) h))]

theorem lowWord_toNat {n : Nat} (x : BitVec n) : (x.extractLsb' 0 16).toNat = x.toNat % 65536 := by
  rw [BitVec.extractLsb'_toNat, Nat.shiftRight_zero]

theorem highWord_toNat (x : BitVec 32) : (x.extractLsb' 16 16).toNat = x.toNat / 65536 := by
  have hx := x.isLt
  rw [BitVec.extractLsb'_toNat, Nat.shiftRight_eq_div_pow]
  omega

theorem part_zero_toNat (n : Nat) : (part n 0).toNat = n % 65536 := by
  rw [part_toNat, Nat.pow_zero, Nat.div_one]

/-- The four upper bits of a 20-bit address. -/
theorem addressHigh_toNat (x : BitVec 20) : ((x.extractLsb' 16 4).setWidth 16).toNat = x.toNat / 65536 := by
  have hx := x.isLt
  rw [setWidth_toNat_of_le (by decide), BitVec.extractLsb'_toNat, Nat.shiftRight_eq_div_pow]
  omega

/-! ### Refused writes, window and unassigned words -/

theorem refusedCause_code_le (x : RefusedCause) : x.code ≤ 6 := by cases x <;> decide

theorem refusedWord_of_some {s : State} {x : RefusedCause} {a : BitVec 7} (h : s.mp.refused = some (x, a)) :
    s.refusedWord.toNat = 32768 + 256 * x.code + a.toNat := by
  have hcode := refusedCause_code_le x
  have ha := a.isLt
  simp only [State.refusedWord, h]
  exact word_toNat (by omega)

theorem refusedWord_of_none {s : State} (h : s.mp.refused = none) : s.refusedWord = 0 := by
  simp only [State.refusedWord, h]

theorem readWord_window (s : State) (k : Fin 16) :
    s.readWord (BitVec.ofNat 7 (0x30 + k.val)) = s.mp.window.toList.getD k.val 0 := by
  have hk := k.isLt
  have ha : (BitVec.ofNat 7 (0x30 + k.val)).toNat = 0x30 + k.val := by
    rw [BitVec.toNat_ofNat]
    omega
  rw [State.readWord, ha, if_neg (by omega), if_pos (by omega), Nat.add_sub_cancel_left]

theorem readWord_unassigned (s : State) {k : Nat} (hlow : 0x67 ≤ k) (hhigh : k ≤ 0x7F) :
    s.readWord (BitVec.ofNat 7 k) = 0 := by
  have ha : (BitVec.ofNat 7 k).toNat = k := by
    rw [BitVec.toNat_ofNat]
    omega
  have hno : ¬ isConfigAddress (BitVec.ofNat 7 k) = true := by
    rw [isConfigAddress_iff]
    omega
  rw [readWord_of_high (by omega), if_neg hno]

/-! ### Watch words (R156, R157) -/

theorem watchOfOffset_eq (k : Fin 4) {place : Nat} (h : place < 6) : watchOfOffset (6 * k.val + place) = k := by
  have hk := k.isLt
  have hindex : (6 * k.val + place) / 6 = k.val := by omega
  rw [watchOfOffset, hindex]
  exact Fin.ext (Nat.mod_eq_of_lt hk)

theorem readWord_watch (s : State) (k : Fin 4) {place : Nat} (h : place < 6) :
    s.readWord (BitVec.ofNat 7 (0x18 + 6 * k.val + place)) = (s.watch k).word place := by
  have hk := k.isLt
  have ha : (BitVec.ofNat 7 (0x18 + 6 * k.val + place)).toNat = 0x18 + (6 * k.val + place) := by
    rw [BitVec.toNat_ofNat]
    omega
  have hplace : (6 * k.val + place) % 6 = place := by omega
  rw [State.readWord, ha, if_neg (by omega), if_neg (by omega), if_pos (by omega), Nat.add_sub_cancel_left,
    watchOfOffset_eq k h, hplace]

theorem mode_toNat (w : Watch) : w.mode.toNat =
    bit w.enable + 2 * bit w.maskUp + 4 * bit w.maskDown + 8 * bit w.maskPass + 16 * bit w.maskMark + 32 * bit w.maskDrop +
      64 * (if w.kind = .bytes then 1 else 0) + 128 * bit w.traceEnable + 256 * bit w.irqEnable := by
  have hmode : w.mode = word (bit w.enable + 2 * bit w.maskUp + 4 * bit w.maskDown + 8 * bit w.maskPass +
      16 * bit w.maskMark + 32 * bit w.maskDrop + 64 * (if w.kind = .bytes then 1 else 0) + 128 * bit w.traceEnable +
      256 * bit w.irqEnable) := by
    unfold Watch.mode
    cases w.kind <;> rfl
  have henable := bit_le w.enable
  have hup := bit_le w.maskUp
  have hdown := bit_le w.maskDown
  have hpass := bit_le w.maskPass
  have hmark := bit_le w.maskMark
  have hdrop := bit_le w.maskDrop
  have htrace := bit_le w.traceEnable
  have hirq := bit_le w.irqEnable
  have hbytes : (if w.kind = .bytes then 1 else 0) ≤ 1 := by split <;> decide
  rw [hmode]
  exact word_toNat (by omega)

theorem scopeWord_toNat (w : Watch) : (w.word 1).toNat = w.scopeIndex.toNat + 32768 * bit w.scopeAll := by
  have hindex := w.scopeIndex.isLt
  have hall := bit_le w.scopeAll
  exact word_toNat (by omega)

theorem watchStatus_toNat (s : State) : s.watchStatus.toNat =
    watchBits (List.ofFn fun k : Fin 4 => (s.watch k).armed) + 16 * watchBits (List.ofFn fun k : Fin 4 => (s.watch k).overflow) := by
  have harmed := watchBits_lt fun k : Fin 4 => (s.watch k).armed
  have hoverflow := watchBits_lt fun k : Fin 4 => (s.watch k).overflow
  exact word_toNat (n := watchBits (List.ofFn fun k : Fin 4 => (s.watch k).armed) +
    16 * watchBits (List.ofFn fun k : Fin 4 => (s.watch k).overflow)) (by omega)

theorem watchStatus_bits (s : State) : s.watchStatus.toNat < 256 ∧ ∀ k : Fin 4,
    s.watchStatus.toNat.testBit k.val = (s.watch k).armed ∧
    s.watchStatus.toNat.testBit (4 + k.val) = (s.watch k).overflow := by
  have harmed := watchBits_lt fun k : Fin 4 => (s.watch k).armed
  have hoverflow := watchBits_lt fun k : Fin 4 => (s.watch k).overflow
  have hshift : (watchBits (List.ofFn fun k : Fin 4 => (s.watch k).armed) +
      16 * watchBits (List.ofFn fun k : Fin 4 => (s.watch k).overflow)) / 2 ^ 4 =
        watchBits (List.ofFn fun k : Fin 4 => (s.watch k).overflow) + 16 * 0 := by omega
  rw [watchStatus_toNat]
  refine ⟨by omega, fun k => ⟨testBit_watchBits _ _ k, ?_⟩⟩
  rw [Nat.add_comm 4, ← Nat.testBit_div_two_pow, hshift, testBit_watchBits]

/-- The six words of a watch. -/
theorem watch_words (s : State) (k : Fin 4) :
    let read (n : Nat) : Nat := (s.readWord (BitVec.ofNat 7 n)).toNat
    let w := s.watch k
    let base := 0x18 + 6 * k.val
    read base = bit w.enable + 2 * bit w.maskUp + 4 * bit w.maskDown + 8 * bit w.maskPass + 16 * bit w.maskMark +
      32 * bit w.maskDrop + 64 * (if w.kind = .bytes then 1 else 0) + 128 * bit w.traceEnable + 256 * bit w.irqEnable ∧
    read (base + 1) = w.scopeIndex.toNat + 32768 * bit w.scopeAll ∧
    read (base + 2) = w.count.toNat % 65536 ∧ read (base + 3) = w.latch.toNat ∧
    read (base + 4) = w.reload.toNat % 65536 ∧ read (base + 5) = w.reload.toNat / 65536 := by
  intro read w base
  have hword {place : Nat} (h : place < 6) : read (base + place) = (w.word place).toNat :=
    congrArg BitVec.toNat (readWord_watch s k h)
  exact ⟨(hword (by decide : 0 < 6)).trans (mode_toNat w), (hword (by decide)).trans (scopeWord_toNat w),
    (hword (by decide)).trans (lowWord_toNat _), hword (by decide), (hword (by decide)).trans (lowWord_toNat _),
    (hword (by decide)).trans (highWord_toNat _)⟩

/-! ### The words of the other blocks -/

theorem stationWord_toNat (s : State) : (s.readWord 0x01).toNat = (s.li.station.code + 8 * s.li.remembered.code +
    64 * bit s.li.conflict + 128 * s.li.expiryCount + 512 * s.li.tx.code + 4096 * s.li.attempts) % 65536 :=
  word_toNat_mod _

theorem statusWord_toNat (s : State) : (s.readWord 0x08).toNat = (bit s.mp.running + 2 * bit s.mp.busy +
    4 * s.mp.outcome.code + 64 * s.mp.check + 4096 * s.mp.started) % 65536 := word_toNat_mod _

theorem memStatus_toNat (s : State) : (s.readWord 0x14).toNat = bit s.mc.ready + 2 * bit s.mc.timeout := by
  have hready := bit_le s.mc.ready
  have htimeout := bit_le s.mc.timeout
  exact word_toNat (by omega)

end Sys2Proof.Machine
end

section
/-! ## Proofs: the maintenance port as a whole (chapter 12) -/

namespace Sys2Proof.Machine

theorem latchWord_toNat (x : BitVec 5) : (x.setWidth 16).toNat = x.toNat := setWidth_toNat_of_le (by decide) x

/-- Settles O59: configuration words, interrupt words, refusals, rows and stored words, transactions, reads with an effect,
and the word map. -/
theorem portWordsAreStoredOrRefused : Obligations.PortWordsAreStoredOrRefused := by
  intro s hreset
  refine ⟨fun a v hlow hhigh hs => ?_, fun a v hlow hhigh hs => ?_,
    fun a v hlow hhigh => registerWrite_config hlow hhigh v s,
    ⟨readWord_config_table s, fun g => ?_⟩, fun f => by cases f <;> rfl,
    fun v => ⟨_, answers_released rfl hreset rfl, flag_clearFlags s v, rfl⟩,
    fun v => ⟨_, answers_released rfl hreset rfl, irqLow_iff _, rfl⟩,
    fun v => ⟨_, answers_released rfl hreset rfl, rfl⟩,
    fun a v h => ⟨_, answers_released rfl hreset (writeWord_readOnly h v s), rfl⟩,
    registerWrite_rows s, registerWrite_stores hreset, fun hfree => ⟨fun w => ⟨fun h => ?_, transact_writes hreset hfree⟩,
      fun a rest h => transact_reads hreset hfree a h, fun bits h => transact_nothing hreset hfree h,
      shiftedOut_frameBits hreset hfree, fun bits => ⟨sampled_length bits _, shiftedOut_defined hreset hfree bits,
        shiftedOut_first hreset hfree, dataOutput_transact hreset hfree bits⟩⟩,
    fun b => dataOutput_clockEdge b s, fun hactive hmore => ?_, ?_, ?_, ?_⟩
  · exact ⟨s.storing a v, answers_released (exec_configWrite hlow hhigh v s) hreset (writeConfig_before hs a v),
      readWord_storing_self s hlow hhigh v, fun b hb hne => readWord_storing_of_ne s hlow hb hne v, rfl⟩
  · exact ⟨_, answers_released (exec_configWrite hlow hhigh v s) hreset (writeConfig_after hs a v), rfl⟩
  · obtain ⟨hup, hdown⟩ := readWord_capacity s g
    obtain ⟨hupReset, hdownReset⟩ := readWord_capacity_reset g
    exact ⟨hup, hdown, hupReset, hdownReset⟩
  · have hread := transact_reads hreset hfree (w.extractLsb' 24 7) (rest := (List.range 24).map fun k => w.getMsbD (k + 8))
      (by simp)
    rw [← h, ← wordBits_eq_frameBits] at hread
    exact hread
  · rw [clockFall_of_active hactive, if_pos hmore]
    rfl
  · obtain ⟨hindex, hthreshold, hdata, hcount⟩ := answers_effectiveReads hreset
    exact ⟨hindex, hthreshold, hdata, hcount, fun a h => takeRead_plain h s⟩
  · intro read one station tx outcome cause
    have hstation (x : Station) : station x = x.code := by cases x <;> rfl
    have htx : tx = s.li.tx.code := by
      simp only [tx]
      cases s.li.tx <;> rfl
    have houtcome : outcome = s.mp.outcome.code := by
      simp only [outcome]
      cases s.mp.outcome <;> rfl
    have hcause (x : RefusedCause) : cause x = x.code := by cases x <;> rfl
    obtain ⟨hstatus, hbits⟩ := watchStatus_bits s
    refine ⟨rfl, ?_, word_toNat_mod _, word_toNat_mod _, word_toNat_mod _, rfl, rfl, rfl, ?_, rfl, rfl, fun h => ?_,
      fun x a h => ?_, part_zero_toNat _, latchWord_toNat _, part_zero_toNat _, latchWord_toNat _, word_toNat_mod _,
      lowWord_toNat _, addressHigh_toNat _, rfl, memStatus_toNat s, rfl, rfl, hstatus,
      fun k => ⟨(hbits k).1, (hbits k).2, watch_words s k⟩, fun k => ?_, fun k hlow hhigh => ?_⟩
    · rw [hstation, hstation, htx]
      exact stationWord_toNat s
    · rw [houtcome]
      exact statusWord_toNat s
    · exact congrArg BitVec.toNat (refusedWord_of_none h)
    · rw [hcause]
      exact refusedWord_of_some h
    · exact congrArg BitVec.toNat (readWord_window s k)
    · exact congrArg BitVec.toNat (readWord_unassigned s hlow hhigh)
  · rw [State.summaryByte]
    congr 1
    cases s.irqLow <;> cases s.mp.running <;> cases s.li.station <;> rfl

end Sys2Proof.Machine
end
